-- ==== Sys2Proof/Word.lean ====
section
/-! DEFINITION. Word.lean: the byte, and a byte string read as a little-endian number (R14). -/

namespace Sys2Proof

/-- One byte of any of the module's address spaces. -/
abbrev Byte := BitVec 8

/-- A byte string, lowest address first. -/
abbrev Bytes := List Byte

end Sys2Proof
end

