-- ==== Sys2Proof/Config.lean ====
section
/-! DEFINITION. Config.lean: what the manual leaves open or takes from outside. Every constant here is
opaque: nothing in Lean can evaluate it, so no theorem can rest on a value of it. -/

namespace Sys2Proof.Config

/-- The byte that an undefined extent of a memory holds: the extent's stamp and the address
(R97, R170, R197, R258). Log 5. -/
opaque freeByte : Nat → Nat → Byte

/-- A value that the manual leaves open, one for each value of the state's counter. Log 2. -/
opaque freeNat : Nat → Nat

/-- What host memory answers to a read: the state's counter and the address (R171). Log 5. -/
opaque hostByte : Nat → Nat → Byte

/-- What a drive returns: the state's counter and the byte's position (R351). Log 5. -/
opaque driveByte : Nat → Nat → Byte

/-- The verdict of a witness whose gap lies between the bounds that R156 and R158 set: the state's counter
and the share. Log 115. -/
opaque witness : Nat → Nat → Bool

/-- Results of the vector unit's functions that R133 bounds but does not fix: function, width
(64 or 32), operand bits, result bits. One fixed function, as R134 says. Log 9. -/
opaque vuFunction : Nat → Nat → List Nat → Nat

/-- XMSS or XMSS^MT verification of RFC 8391: public key, message, signature (R368). Log 10. -/
opaque xmssVerify : Bytes → Bytes → Bytes → Bool

/-- The identity key's signature: which identity key, index, message (R369, R370). Log 10. -/
opaque identitySign : Nat → Nat → Bytes → Bytes

/-- The public half of an identity key, 68 bytes (R368, R387). Log 10. -/
opaque identityPublic : Nat → Bytes

/-- Signature bytes that a public key's OID sets (R368, R380). Log 10. -/
opaque signatureSize : Bytes → Nat

/-- Whether a public key names a set of Table 14.1. Log 10. -/
opaque keyAllowed : Bytes → Bool

/-- The vendor firmware key's public half, in the boot ROM (R368). Log 10. -/
opaque vendorPublic : Bytes

/-- Skahoal's certificate of the identity key, made at manufacture (R369). Log 10. -/
opaque identityCertificate : Bytes

/-- Unwrapping of a MGMT_KEYS body (R384): decapsulation key, token header, NONCE, body; the
plaintext, or none when the tag fails. Log 10. -/
opaque unwrapKeys : Nat → Bytes → Nat → Bytes → Option Bytes

/-- The ML-KEM-768 encapsulation key of a decapsulation key, 1,184 bytes (R377). Log 10. -/
opaque kemPublic : Nat → Bytes

/-- The module serial number (Table 14.3). Log 10. -/
opaque serial : Nat

/-- The MAC address set at manufacture (R363). Log 10. -/
opaque macAddress : Nat

/-- The values of the calibration and the rule table as written at manufacture (R400, R404). Log 8. -/
opaque factoryCal : Nat → Nat

opaque factoryRules : Bytes

/-- The number of LBAs of a namespace of a drive, 0 where it is absent: link, namespace (R351). Log 5. -/
opaque namespaceLba : Nat → Nat → Nat

/-- The LBA size of a namespace of a drive (R351). Log 5. -/
opaque namespaceLbaBytes : Nat → Nat → Nat

/-- The SHAKE256 digest of the firmware copy the module leaves the factory with (R374). Log 7. -/
opaque factoryFwDigest : Nat

/-- The digest of the repair map after so many commits (Table 14.3); its bytes are not laid out. Log 10. -/
opaque repairDigest : Nat → Nat

/-- Spare rows of a scratchpad slice: 2% of its rows, whose number is not given (Table 16.5). Log 37. -/
opaque sliceSpareRows : Nat

end Sys2Proof.Config
end

