-- ==== Sys2Proof/Machine/Types.lean ====
section
/-! DEFINITION. Machine/Types.lean: the plain data that commands carry and that State holds. -/

namespace Sys2Proof.Machine

/-- A table by number: pairs in strictly rising key order; a key not listed has the default that the
reader names. -/
abbrev Tab (α : Type) := List (Nat × α)

/-- An exact value: a NaN (signalling or quiet), an infinity, or (−1)^neg × m × 2^e with signed zeros. -/
inductive Val
  | nan (sig : Bool)
  | inf (neg : Bool)
  | num (neg : Bool) (m : Nat) (e : Int)
  deriving DecidableEq, Repr

/-- A value with its index. -/
abbrev Idx := Val × Nat

/-- An error of the arrays in a pass (R158): after chunk `j` of output (`a`, `c`) the running value is the one
that `code` spells (binary32 or INT32; in compare mode binary64 with the index `idx`) in place of the one
that the rules give. -/
structure PassErr where
  a : Nat
  c : Nat
  j : Nat
  code : Nat
  idx : Nat
  deriving DecidableEq, Repr

/-- A reported code (R18). -/
inductive Code
  | l (n : Nat) | f (n : Nat) | s (n : Nat)
  deriving DecidableEq, Repr

/-- Where a mailbox command came from (R358, R366): mailbox `m` of function `fn`, or a bus peer. -/
inductive Origin
  | box (fn m : Nat)
  | bus (peer : Nat)
  deriving DecidableEq, Repr

/-- A sync operation of the Sitter (R216). -/
inductive SitSync
  | inc (sig value : Nat)
  | read (sig : Nat)
  | set (sig value : Nat)
  | arrive (group : Nat)
  deriving DecidableEq, Repr

/-- The cradle's identity memory (R41). -/
structure CradleId where
  planPos : Nat
  powerClass : Nat
  spareH : Bool
  spareS : Bool
  serial : Nat
  deriving DecidableEq, Repr

/-- A tile by built position: kiln, built shelf 0-163, built row 0-8, column (R19, R164). -/
structure TileId where
  kiln : Nat
  shelf : Nat
  row : Nat
  col : Nat
  deriving DecidableEq, Repr

/-- What the tests of one rest point find (Table 16.3): bad physical columns of tiles, spare tiles
(kiln, built shelf, spare 0-3) and spare shelves (kiln, spare 0-3) that fail, a failing Sitter spare,
and the length of the rest work in µs. -/
structure RestFindings where
  cols : List (TileId × Nat)
  spareTiles : List (Nat × Nat × Nat)
  spareShelves : List (Nat × Nat)
  sitterSpareBad : Bool
  us : Nat
  deriving DecidableEq, Repr

/-- What the boot ROM's checks find (R374, R394): whether the keys region passes, whether each active copy passes its
CRC-64, and which inactive copies fail it: 0 repair map, 1 calibration, 2 rule table, 3 keys. -/
structure BootFindings where
  keysOk : Bool
  copiesOk : Bool
  stale : List Nat
  deriving DecidableEq, Repr

/-- What the world decides during Table 16.2: a control-die rail failing (step 1), a rail failing
(step 4), stacks that do not train (step 4), the boot's checks of the keys region and the copies (steps 2 and 3),
the cradle memory (step 3), and the rest work (step 5). -/
structure PowerUpEnv where
  vinMv : Nat
  railFail1 : Bool
  railFail4 : Bool
  stacksFail : List Nat
  boot : BootFindings
  cradle : Option CradleId
  rest : RestFindings
  deriving DecidableEq, Repr

/-- What makes the module throttle at once (R26, R35). -/
inductive ThrottleCause
  | above10kW | above8400W | junction100
  deriving DecidableEq, Repr

/-- What trips the module (Table 1.6). -/
inductive TripCause
  | junction110 | flowLost
  deriving DecidableEq, Repr

/-- What a module fault has lost (R12, R28, R355, R394, R421). -/
inductive LossKind
  | kiln (k : Nat) | stack (n : Nat) | phase (rail : Nat) | code (n : Nat)
  deriving DecidableEq, Repr

/-- How a line read of a channel comes out (R177, R178). -/
inductive LineState
  | clean | corrected | uncorrectable
  deriving DecidableEq, Repr

/-- A Thidiard packet (Table 11.7); `route` lists the dimensions of its hops. -/
structure Packet where
  typ : Nat
  accFmt : Nat
  sched : Bool
  sync : Bool
  src : Nat
  dst : Nat
  hop : Nat
  vl : Nat
  route : List Nat
  tag : Nat
  seq : Nat
  reason : Nat
  addr : Nat
  inc : Nat
  data : Bytes
  deriving DecidableEq, Repr

/-- A flit as received (Table 11.2), its 256 bytes, and whether the FEC could correct it (R297). -/
structure Flit where
  bytes : Bytes
  fecOk : Bool
  deriving DecidableEq, Repr

/-- An identity frame (R303). -/
structure IdFrame where
  mod : Nat
  port : Nat
  planId : Nat
  inc : Nat
  fpr : Nat
  deriving DecidableEq, Repr

/-- A link-state notice (R310). -/
structure Notice where
  low : Nat
  dim : Nat
  up : Bool
  version : Nat
  switchTurn : Nat
  deriving DecidableEq, Repr

/-- A wheel mark (R276); `pend` is a pending length with the turn at which it takes effect. -/
structure Mark where
  count : Nat
  turnNo : Nat
  t0 : Nat
  len : Nat
  pend : Option (Nat × Nat)
  deriving DecidableEq, Repr

/-- How far a port's training came (Table 11.4): the step that failed, or the results of the steps. -/
inductive Training
  | failedAt (step : Nat)
  | trained (badLanes : List Nat) (delayPs : Nat)
  deriving DecidableEq, Repr

/-- A mailbox request (Table 13.6); `malformed` when LEN or a reserved field breaks the layout; `place` is where its
payload asks for a large reply: a host address, or on the bus a byte offset (R378). -/
structure MbReq where
  seq : Nat
  cmd : Nat
  tag : Nat
  malformed : Bool
  place : Nat
  deriving DecidableEq, Repr

/-- A management frame as received on the pair (R365, R366). -/
structure MgmtFrame where
  fcsOk : Bool
  secTag : Bool
  sci : Nat
  an : Nat
  icvOk : Bool
  pn : Nat
  kind : Nat
  req : MbReq
  tai : Nat
  deriving DecidableEq, Repr

/-- Where graph.store and fw.load take bytes from, or store.write puts them (R240, R353, R375). -/
inductive Source
  | host (addr : Nat)
  | drive (link ns lba : Nat)
  | busFragments
  deriving DecidableEq, Repr

/-- The stack side of a storage command (R353). -/
inductive StoreSide
  | extent (addr bytes : Nat)
  | region (id : Nat)
  | param (id : Nat)
  deriving DecidableEq, Repr

/-- A two-party token without its KIND, which the command's row gives (Table 14.4, R380). -/
structure Token where
  magic : Nat
  serial : Nat
  nonce : Nat
  bodyLen : Nat
  body : Bytes
  ownerSig : Bytes
  auditorSig : Bytes
  deriving DecidableEq, Repr

/-- Whose activity a counter counts (R397, R398): work issued under an FSLOT (0xFFFF the Sitter's), bytes that arrive
from another module for a stack address, or flits forwarded for other modules. -/
inductive Work
  | issued (fslot : Nat) | arrived (addr : Nat) | transit
  deriving DecidableEq, Repr

/-- What the meter's converters measured in one window (R396, R397): number of samples, sums of the
samples (mV, µA and their products, as integers), mean shunt temperature in 0.01 °C, raw domain
energies in nJ, ticks spent at each clock step, activity counted (domain, whose, count) and whether
the window is the one the power-fail sequence closes. -/
structure WindowSample where
  n : Nat
  sumV : Int
  sumI : Int
  sumVI : Int
  temp : Int
  rawD : List Nat
  stepTicks : List Nat
  counts : List (Nat × Work × Nat)
  powerFail : Bool
  deriving DecidableEq, Repr

/-- A transfer at a damper (R282-R290): its requester, a number that names it, the operation it
belongs to, whether it carries the fabric's scheduled mark, whether it is an ACCUM, whether it is a
read, its size in units and the ticks it needs at full rate. -/
structure Transfer where
  req : Nat
  id : Nat
  opIndex : Nat
  schedMark : Bool
  accum : Bool
  isRead : Bool
  units : Nat
  ticks : Nat
  deriving DecidableEq, Repr

/-- What the signing engine may sign (R369). -/
inductive SignItem
  | batch (seq : Nat)
  | report (o : Origin) (body : Bytes)
  | ack (o : Origin) (msg : Bytes)
  | rotation (msg : Bytes)
  deriving DecidableEq, Repr

/-- The wear monitors of Table 16.4; a data channel that fails has `outstanding` accesses (R180). -/
inductive Monitor
  | dqLane (stack chan : Nat)
  | reconRate (stack chan : Nat) (outstanding : List Nat)
  | scratchRow (kiln shelf : Nat)
  | scratchBank (kiln shelf : Nat)
  | fabricLane (port lane : Nat)
  | phase (rail : Nat)
  | column (t : TileId) (col : Nat)
  deriving DecidableEq, Repr

/-- Vector-unit operations (Table 4.5). -/
inductive VuOp
  | add | sub | mul | fma | div | sqrt | rcp | rsqrt | exp | exp2 | log | log2 | tanh | sigmoid | erf
  | sin | cos | max | min | maxIdx | minIdx | abs | neg | copysign | sum | softmax | layernorm
  | rmsnorm | adamw | sgdm
  deriving DecidableEq, Repr

/-- The IEEE 754 rounding attributes that an operation can name (R134). -/
inductive VuRnd
  | rne | rtz | rup | rdn | rna
  deriving DecidableEq, Repr

/-- A source of a vector-unit operation: a blocked tensor in scratchpad (address in the shelf view,
format, blocks in a block row), or one element of the kiln's constant store, broadcast. -/
inductive VuSrc
  | tensor (addr fmt ld : Nat)
  | constant (off fmt : Nat)
  deriving DecidableEq, Repr

/-- One vector-unit operation (R132): the shelf, the firing, the operation, the working width (binary64
when wide), the rounding attribute, the sources in the order of the operation's operands, the rows and
columns worked on, the destinations (address in the shelf view, blocks in a block row) and the CVT word. -/
structure VuJob where
  kiln : Nat
  shelf : Nat
  fseq : Nat
  opIndex : Nat
  op : VuOp
  wide : Bool
  rnd : VuRnd
  srcs : List VuSrc
  rows : Nat
  cols : Nat
  dsts : List (Nat × Nat)
  cvt : Nat
  deriving DecidableEq, Repr

/-- A lane of ports H and S (R39). -/
inductive PcieLink
  | h | s (link : Nat)
  deriving DecidableEq, Repr

/-- An IEEE 1149.1 instruction (R40). -/
inductive JtagInstr
  | boundaryScan | identification | debug (code : Nat)
  deriving DecidableEq, Repr

end Sys2Proof.Machine
end

