-- ==== Sys2Proof/Syntax.lean ====
section
/-! DEFINITION. Syntax.lean: the commands of the module, one constructor per row of
spec/opcode_table.json, in the table's order. Observers are the numbers of Table 8.1, shelves are
logical shelf indices, firings are named by FSEQ. An operand with a default is one that the plain command leaves
out: the draw in W that the slow steps answer to (R26), whether a further increment of the same ctl cycle follows
(R217, log 43), what the checks of a Sitter restart find (R357), the certificate in place of a report (R377), and a
reset.warm in the same ctl cycle (Table 16.6). -/

namespace Sys2Proof

open Sys2Proof.Machine

inductive Instr
  | powerUp (env : PowerUpEnv)
  | lowVSeen (mv : Nat)
  | pwrFailNLow
  | undervoltage (mv : Nat)
  | overvoltage (mv : Nat)
  | powerFailSequence
  | powerMark
  | pwrFailNRelease
  | inputPowerLoss
  | fastThrottle (cause : ThrottleCause)
  | slowPowerStep (draw : Nat := 0)
  | thermalStepDown (tj : Nat)
  | thermalStepUp (tj : Nat)
  | thermalTrip (cause : TripCause)
  | regulatorPhaseFail (rail : Nat)
  | moduleFault (loss : LossKind)
  | capStepWrite (v : Nat)
  | registerWrite (fn block inst off value : Nat)
  | persistentWrite (r value : Nat) (byRegWrite torn : Bool)
  | operationGrant (fseq opIndex : Nat)
  | passStart (observer : Nat)
  | drain (passId : Nat) (errs : List Machine.PassErr)
  | drainTimeout (kiln shelf : Nat)
  | shelfFault (kiln shelf : Nat)
  | dmaDoorbell (engine : Nat)
  | dmaRingEnableWrite (engine : Nat) (enable : Bool)
  | descriptorFetch (engine : Nat)
  | descriptorStart (engine : Nat)
  | waitCopyRelease (engine : Nat)
  | descriptorComplete (engine : Nat) (more : Bool := false)
  | stackLineRead (fseq : Option Nat) (addr : Nat) (found : LineState)
  | stackLineWrite (fseq : Option Nat) (addr : Nat) (data : Bytes)
  | parityRecompute (stack stripe : Nat)
  | accumAdd (fseq : Option Nat) (opIndex accFmt addr value : Nat)
  | channelFail (stack chan : Nat) (outstanding : List Nat)
  | rebuildComplete (stack : Nat)
  | hostAccessError (engine : Nat)
  | hostReadTimeout (engine : Nat)
  | sigInc (observer fseq sig value opIndex : Nat) (more : Bool := false)
  | waitGe (observer fseq sig value timeout opIndex : Nat)
  | waitCon (observer fseq sig value timeout opIndex : Nat)
  | waitExpiry (observer sig : Nat)
  | barArrive (observer fseq group opIndex : Nat)
  | barWait (observer fseq group opIndex : Nat)
  | barArriveWait (observer fseq group opIndex : Nat)
  | dmaBarrierArrival (engine group : Nat)
  | timeSliceExpiry (queue : Nat)
  | contextSwitch (fseq : Nat)
  | contextRestore (fseq : Nat)
  | sqDoorbell (queue : Nat)
  | slotAccept (queue : Nat)
  | acceptRecordLogged (fseq : Nat)
  | firingLaunch (fseq : Nat)
  | firingFault (fseq : Nat) (code : Nat)
  | firingCommit (fseq : Nat)
  | actionDone (fseq : Nat)
  | cursorRecord
  | hostRingCopy
  | hostRingReadback (error : Bool)
  | turnStart
  | angleEvent (angle : Nat)
  | turnEdge (copy count : Nat)
  | wheelRefLoss (copy : Nat) (turnSignal : Bool)
  | wheelMarkSend
  | wheelMark (port : Nat) (mark : Mark)
  | wheelMarkLoss
  | wheelStep
  | windowOpen (damper window : Nat)
  | windowClose (damper window : Nat)
  | damperTransferArrival (damper : Nat) (t : Transfer)
  | damperGrant (damper : Nat)
  | cutOff (damper : Nat)
  | dmpRelease (damper req : Nat)
  | flitReceive (port : Nat) (flit : Flit)
  | linkReplay (port ack : Nat)
  | packetForward (port : Nat)
  | laneFail (port lane : Nat)
  | linkRetrain (port : Nat) (badLanes : List Nat) (ok : Bool)
  | linkDown (port : Nat)
  | linkTraining (port : Nat) (result : Training)
  | trainingRetry (port : Nat)
  | identityFrame (port : Nat) (frame : Option IdFrame)
  | linkStateNotice (port : Nat) (notice : Notice)
  | writePacket (p : Packet)
  | accumPacket (p : Packet)
  | signalPacket (p : Packet) (more : Bool := false)
  | retirePacket (p : Packet)
  | ackPacket (p : Packet)
  | nakPacket (p : Packet)
  | refusePacket (p : Packet)
  | resyncPacket (p : Packet)
  | resendTimeout (dst : Nat)
  | destinationUnreachable (dst : Nat)
  | heldReadRelease (engine : Nat)
  | functionLevelReset (fn : Nat)
  | perstN (pinLow : Bool)
  | mbDoorbell (o : Origin) (req : MbReq)
  | eventPost (code : Code) (params : List Nat)
  | lockstepMismatch (aFails bFails : Bool)
  | heartbeatLoss
  | sitterRestartComplete (found : BootFindings := ⟨true, true, []⟩)
  | nvmeCompletion (link : Nat) (status : Nat)
  | driveRequest (link addr len : Nat) (data : Option Bytes)
  | storageLinkDown (link : Nat)
  | mgmtFrame (f : MgmtFrame)
  | mgmtRequest (peer : Nat) (req : MbReq)
  | mgmtTime (peer tai : Nat)
  | plcaBeaconLoss
  | signatureRequest (item : SignItem)
  | meterWindowClose (w : WindowSample)
  | meterInputFail
  | restPoint (found : RestFindings)
  | ageingThreshold (m : Monitor)
  | mbPoll (o : Origin)
  | sitterStatus (o : Origin)
  | sitterRestart (o : Origin)
  | regRead (o : Origin) (block inst off : Nat)
  | regWrite (o : Origin) (block inst off value : Nat)
  | graphStore (o : Origin) (graph stackBase : Nat) (src : Source) (image : Bytes)
  | graphDrop (o : Origin) (graph : Nat)
  | firingLaunchCmd (o : Origin) (queue slot : Nat)
  | firingCancel (o : Origin) (fseq : Nat)
  | paramPatch (o : Origin) (graph offset : Nat) (data : Bytes)
  | taskBind (o : Origin) (graph queue : Nat)
  | taskUnbind (o : Origin) (queue : Nat)
  | ringAttach (o : Origin)
  | ladderReset (o : Origin)
  | signalIncCmd (o : Origin) (sig value : Nat) (more : Bool := false)
  | signalRead (o : Origin) (sig : Nat)
  | signalSet (o : Origin) (sig value : Nat) (more : Bool := false)
  | barrierArriveCmd (o : Origin) (group : Nat)
  | wheelTurn (o : Origin) (len turn : Nat)
  | powerStep (o : Origin) (cap turn angle : Nat)
  | damperRelease (o : Origin) (damper req : Nat)
  | fabricPlan (o : Origin) (plan : Bytes)
  | fabricJob (o : Origin) (tag base mask : Nat)
  | fabricPort (o : Origin) (port : Nat)
  | grxReset (o : Origin)
  | grxStatus (o : Origin)
  | repairStatus (o : Origin)
  | storeList (o : Origin)
  | storeRead (o : Origin) (link ns lba : Nat) (side : StoreSide)
  | storeWrite (o : Origin) (link ns lba : Nat) (side : StoreSide)
  | storePort (o : Origin)
  | meterSeal (o : Origin)
  | meterBatchFetch (o : Origin) (seq : Nat)
  | meterBatchRelease (o : Origin) (seq : Nat)
  | meterBatchProof (o : Origin) (seq index : Nat)
  | attestReport (o : Origin) (challenge : Nat) (certificate : Bool := false)
  | tokenApplyCal (o : Origin) (t : Token)
  | tokenApplyRules (o : Origin) (t : Token)
  | tokenApplyFloor (o : Origin) (t : Token)
  | tokenApplyDebug (o : Origin) (t : Token)
  | tokenApplyMgmtKeys (o : Origin) (t : Token)
  | tokenApplyOwnerKeys (o : Origin) (t : Token)
  | tokenApplyIdRotate (o : Origin) (t : Token)
  | tokenApplyEnrol (o : Origin) (t : Token)
  | tokenApplyRelease (o : Origin) (t : Token)
  | fwLoad (o : Origin) (src : Source) (image : Bytes)
  | fwActivate (o : Origin)
  | resetWarm (o : Origin)
  | resetCold (o : Origin) (sameCycle : Bool := false)
  | fastThrottleEnd
  | coolantInletHigh (tin : Nat)
  | commitRecordLogged (fseq : Nat)
  | signatureComplete
  | meterInputReturn
  | storageLinkRetrain (link : Nat) (up : Bool)
  | perstNRelease
  | configurationWrite (fn : Nat) (bme d3hot : Bool)
  | vectorUnitOperation (job : VuJob)
  | tileRegisterCopy (fseq kiln shelf row col tileOff sliceAddr len : Nat) (toTile : Bool)
  | testAccess (i : JtagInstr)
  | hostLaneLoss (link : PcieLink) (lane : Nat)
  deriving DecidableEq, Repr

end Sys2Proof
end

