-- ==== Sys2Proof/Decode.lean ====
section
/-! DEFINITION. Decode.lean: the command that a word spells by the table's bits. The manual gives no
row of spec/opcode_table.json bits: commands reach the module as register accesses, mailbox requests,
packets and events, never as one word. -/

namespace Sys2Proof

def decodeTableWord (_nbits _w : Nat) : Option Instr := none

end Sys2Proof
end

