-- ==== Sys2Proof/Machine/Regs.lean ====
section
/-! DEFINITION. Machine/Regs.lean: every register field of the manual (block, offset, bits, access
code and reset value), from the register tables of spec/01 to spec/16; one record per field, one list
of the registers. An array of registers is one record whose entries are told apart by an index. -/

namespace Sys2Proof.Machine

/-- The register blocks, in the order of R17. -/
inductive Block
  | tile | shf | kln | mod | stk | dma | flu | fe | whl | dmp | fab | grx | pci | sit | mtr | sec | prs
  deriving DecidableEq, Repr

/-- The number of a block, TILE_ = 0 to PRS_ = 16 (Table 14.19). -/
def blockNum : Block → Nat
  | .tile => 0 | .shf => 1 | .kln => 2 | .mod => 3 | .stk => 4 | .dma => 5 | .flu => 6 | .fe => 7
  | .whl => 8 | .dmp => 9 | .fab => 10 | .grx => 11 | .pci => 12 | .sit => 13 | .mtr => 14
  | .sec => 15 | .prs => 16

/-- The access codes of Table 0.3. -/
inductive Acc
  | ro | rw | w1c | wo | pw | pw2
  deriving DecidableEq, Repr

/-- A register field: block, byte offset of the register, lowest bit, width, access, reset value. -/
structure Fld where
  block : Block
  off : Nat
  lo : Nat
  width : Nat
  acc : Acc
  reset : Nat
  deriving DecidableEq, Repr

/-- A register or an array of registers: block, offset, byte stride and count of entries, fields. -/
structure Reg where
  block : Block
  off : Nat
  stride : Nat
  count : Nat
  fields : List Fld
  deriving DecidableEq, Repr

/-- Where a field of entry `i` is kept in the register table: the entry, the register, the field. -/
def Fld.key (f : Fld) (i : Nat) : Nat :=
  (((i * 32 + blockNum f.block) * 2 ^ 24 + f.off) * 2 ^ 8 + f.lo) * 2 ^ 8 + f.width

/-- The register of a key: its block's number and its offset. -/
def keyReg (k : Nat) : Nat := k / 2 ^ 16 % 2 ^ 29

/-- The block number of a key. -/
def keyBlock (k : Nat) : Nat := k / 2 ^ 40 % 32

/-- The entry of a key. -/
def keyEntry (k : Nat) : Nat := k / 2 ^ 45

/-- The field of a key, whatever its entry. -/
def keyField (k : Nat) : Nat := k % 2 ^ 45

/-- The register that a block and an offset name. -/
def regNo (b : Block) (off : Nat) : Nat := blockNum b * 2 ^ 24 + off

/-! MOD_PWR_STATUS (Table 1.8) -/

/-- MOD_PWR_STATUS.VIN_MV -/
def modPwrStatusVinMv : Fld := ⟨.mod, 0x40, 0, 16, .ro, 0x0⟩
/-- MOD_PWR_STATUS.PWR_FAIL_SEEN -/
def modPwrStatusPwrFailSeen : Fld := ⟨.mod, 0x40, 16, 1, .w1c, 0x0⟩
/-- MOD_PWR_STATUS.UV_SEEN -/
def modPwrStatusUvSeen : Fld := ⟨.mod, 0x40, 17, 1, .w1c, 0x0⟩
/-- MOD_PWR_STATUS.OV_SEEN -/
def modPwrStatusOvSeen : Fld := ⟨.mod, 0x40, 18, 1, .w1c, 0x0⟩
/-- MOD_PWR_STATUS.FAST_THR_SEEN -/
def modPwrStatusFastThrSeen : Fld := ⟨.mod, 0x40, 19, 1, .w1c, 0x0⟩
/-- MOD_PWR_STATUS.LOW_V_SEEN -/
def modPwrStatusLowVSeen : Fld := ⟨.mod, 0x40, 20, 1, .w1c, 0x0⟩
/-- MOD_PWR_STATUS.PHASES_LEFT -/
def modPwrStatusPhasesLeft : Fld := ⟨.mod, 0x40, 24, 8, .ro, 0x2⟩
def modPwrStatusReg : Reg := ⟨.mod, 0x40, 0, 1,
  [modPwrStatusVinMv, modPwrStatusPwrFailSeen, modPwrStatusUvSeen, modPwrStatusOvSeen,
   modPwrStatusFastThrSeen, modPwrStatusLowVSeen, modPwrStatusPhasesLeft]⟩

/-! MOD_PWR_INPUT (Table 1.9) -/

/-- MOD_PWR_INPUT.IIN -/
def modPwrInputIin : Fld := ⟨.mod, 0x44, 0, 16, .ro, 0x0⟩
/-- MOD_PWR_INPUT.PIN_W -/
def modPwrInputPinW : Fld := ⟨.mod, 0x44, 16, 16, .ro, 0x0⟩
def modPwrInputReg : Reg := ⟨.mod, 0x44, 0, 1,
  [modPwrInputIin, modPwrInputPinW]⟩

/-! MOD_CLK_STEP (Table 1.10) -/

/-- MOD_CLK_STEP.CAP_STEP -/
def modClkStepCapStep : Fld := ⟨.mod, 0x48, 0, 3, .rw, 0x0⟩
/-- MOD_CLK_STEP.STEP -/
def modClkStepStep : Fld := ⟨.mod, 0x48, 4, 3, .ro, 0x0⟩
/-- MOD_CLK_STEP.TJ_MAX_C -/
def modClkStepTjMaxC : Fld := ⟨.mod, 0x48, 16, 8, .ro, 0x0⟩
/-- MOD_CLK_STEP.TIN_C -/
def modClkStepTinC : Fld := ⟨.mod, 0x48, 24, 8, .ro, 0x0⟩
def modClkStepReg : Reg := ⟨.mod, 0x48, 0, 1,
  [modClkStepCapStep, modClkStepStep, modClkStepTjMaxC, modClkStepTinC]⟩

/-! MOD_CRADLE (Table 1.11) -/

/-- MOD_CRADLE.PLAN_POS -/
def modCradlePlanPos : Fld := ⟨.mod, 0x4c, 0, 14, .ro, 0x0⟩
/-- MOD_CRADLE.CRADLE_OK -/
def modCradleCradleOk : Fld := ⟨.mod, 0x4c, 14, 1, .ro, 0x0⟩
/-- MOD_CRADLE.SPARE_H -/
def modCradleSpareH : Fld := ⟨.mod, 0x4c, 15, 1, .ro, 0x0⟩
/-- MOD_CRADLE.SPARE_S -/
def modCradleSpareS : Fld := ⟨.mod, 0x4c, 16, 1, .ro, 0x0⟩
/-- MOD_CRADLE.WHEEL_SRC -/
def modCradleWheelSrc : Fld := ⟨.mod, 0x4c, 17, 2, .ro, 0x0⟩
def modCradleReg : Reg := ⟨.mod, 0x4c, 0, 1,
  [modCradlePlanPos, modCradleCradleOk, modCradleSpareH, modCradleSpareS, modCradleWheelSrc]⟩

/-! FE_GAUGE (Table 2.12) -/

/-- FE_GAUGE.AMAX -/
def feGaugeAmax : Fld := ⟨.fe, 0x10000, 0, 32, .ro, 0x0⟩
/-- FE_GAUGE.SAT_CNT -/
def feGaugeSatCnt : Fld := ⟨.fe, 0x10000, 32, 32, .ro, 0x0⟩
/-- FE_GAUGE.NAN_CNT -/
def feGaugeNanCnt : Fld := ⟨.fe, 0x10000, 64, 32, .ro, 0x0⟩
/-- FE_GAUGE.ZERO_CNT -/
def feGaugeZeroCnt : Fld := ⟨.fe, 0x10000, 96, 32, .ro, 0x0⟩
/-- FE_GAUGE.ELEM_CNT -/
def feGaugeElemCnt : Fld := ⟨.fe, 0x10000, 128, 48, .ro, 0x0⟩
def feGaugeReg : Reg := ⟨.fe, 0x10000, 32, 4096,
  [feGaugeAmax, feGaugeSatCnt, feGaugeNanCnt, feGaugeZeroCnt, feGaugeElemCnt]⟩

/-! FE_RULE (Table 2.13) -/

/-- FE_RULE.MASK -/
def feRuleMask : Fld := ⟨.fe, 0x30000, 0, 4, .ro, 0x0⟩
/-- FE_RULE.INIT_FMT -/
def feRuleInitFmt : Fld := ⟨.fe, 0x30000, 4, 3, .ro, 0x0⟩
/-- FE_RULE.JOIN -/
def feRuleJoin : Fld := ⟨.fe, 0x30000, 7, 1, .ro, 0x0⟩
/-- FE_RULE.INIT_SCX -/
def feRuleInitScx : Fld := ⟨.fe, 0x30000, 8, 8, .ro, 0x0⟩
/-- FE_RULE.HEAD -/
def feRuleHead : Fld := ⟨.fe, 0x30000, 16, 4, .ro, 0x0⟩
/-- FE_RULE.NAN_ACT -/
def feRuleNanAct : Fld := ⟨.fe, 0x30000, 20, 2, .ro, 0x0⟩
/-- FE_RULE.HOLD -/
def feRuleHold : Fld := ⟨.fe, 0x30000, 24, 8, .ro, 0x0⟩
/-- FE_RULE.SAT_LIM -/
def feRuleSatLim : Fld := ⟨.fe, 0x30000, 32, 16, .ro, 0x0⟩
/-- FE_RULE.ZERO_LIM -/
def feRuleZeroLim : Fld := ⟨.fe, 0x30000, 48, 16, .ro, 0x0⟩
/-- FE_RULE.SCX_MIN -/
def feRuleScxMin : Fld := ⟨.fe, 0x30000, 64, 8, .ro, 0x0⟩
/-- FE_RULE.SCX_MAX -/
def feRuleScxMax : Fld := ⟨.fe, 0x30000, 72, 8, .ro, 0x0⟩
def feRuleReg : Reg := ⟨.fe, 0x30000, 16, 4096,
  [feRuleMask, feRuleInitFmt, feRuleJoin, feRuleInitScx, feRuleHead, feRuleNanAct, feRuleHold,
   feRuleSatLim, feRuleZeroLim, feRuleScxMin, feRuleScxMax]⟩

/-! FE_LADDER (Table 2.14) -/

/-- FE_LADDER.FMT -/
def feLadderFmt : Fld := ⟨.fe, 0x40000, 0, 3, .ro, 0x0⟩
/-- FE_LADDER.SCX -/
def feLadderScx : Fld := ⟨.fe, 0x40000, 8, 8, .ro, 0x0⟩
/-- FE_LADDER.HOLD_LEFT -/
def feLadderHoldLeft : Fld := ⟨.fe, 0x40000, 16, 8, .ro, 0x0⟩
def feLadderReg : Reg := ⟨.fe, 0x40000, 4, 4096,
  [feLadderFmt, feLadderScx, feLadderHoldLeft]⟩

/-! FE_LADDER_CTL (Table 2.15) -/

/-- FE_LADDER_CTL.EPOCH -/
def feLadderCtlEpoch : Fld := ⟨.fe, 0x200, 0, 32, .ro, 0x0⟩
def feLadderCtlReg : Reg := ⟨.fe, 0x200, 0, 1,
  [feLadderCtlEpoch]⟩

/-! FE_LADDER_STAT (Table 2.16) -/

/-- FE_LADDER_STAT.LADDER_NAN_SEEN -/
def feLadderStatLadderNanSeen : Fld := ⟨.fe, 0x204, 0, 1, .w1c, 0x0⟩
/-- FE_LADDER_STAT.AT_WIDEST_SEEN -/
def feLadderStatAtWidestSeen : Fld := ⟨.fe, 0x204, 1, 1, .w1c, 0x0⟩
/-- FE_LADDER_STAT.LAST_SLOT -/
def feLadderStatLastSlot : Fld := ⟨.fe, 0x204, 16, 12, .ro, 0x0⟩
def feLadderStatReg : Reg := ⟨.fe, 0x204, 0, 1,
  [feLadderStatLadderNanSeen, feLadderStatAtWidestSeen, feLadderStatLastSlot]⟩

/-! SHF_GANG (Table 3.3) -/

/-- SHF_GANG.QUAD -/
def shfGangQuad : Fld := ⟨.shf, 0x100, 0, 16, .ro, 0x0⟩
/-- SHF_GANG.WHOLE -/
def shfGangWhole : Fld := ⟨.shf, 0x100, 16, 1, .ro, 0x0⟩
/-- SHF_GANG.JOINED -/
def shfGangJoined : Fld := ⟨.shf, 0x100, 17, 1, .ro, 0x0⟩
def shfGangReg : Reg := ⟨.shf, 0x100, 0, 1,
  [shfGangQuad, shfGangWhole, shfGangJoined]⟩

/-! KLN_GANG (Table 3.4) -/

/-- KLN_GANG.BAND -/
def klnGangBand : Fld := ⟨.kln, 0x100, 0, 10, .ro, 0x0⟩
/-- KLN_GANG.HEARTH -/
def klnGangHearth : Fld := ⟨.kln, 0x100, 10, 1, .ro, 0x0⟩
/-- KLN_GANG.PAIR -/
def klnGangPair : Fld := ⟨.kln, 0x100, 11, 1, .ro, 0x0⟩
def klnGangReg : Reg := ⟨.kln, 0x100, 0, 1,
  [klnGangBand, klnGangHearth, klnGangPair]⟩

/-! SHF_PASS_CNT (Table 3.12) -/

/-- SHF_PASS_CNT.PASSES -/
def shfPassCntPasses : Fld := ⟨.shf, 0x110, 0, 32, .ro, 0x0⟩
def shfPassCntReg : Reg := ⟨.shf, 0x110, 0, 1,
  [shfPassCntPasses]⟩

/-! SHF_FEED_STALL (Table 3.13) -/

/-- SHF_FEED_STALL.STALL -/
def shfFeedStallStall : Fld := ⟨.shf, 0x114, 0, 32, .ro, 0x0⟩
def shfFeedStallReg : Reg := ⟨.shf, 0x114, 0, 1,
  [shfFeedStallStall]⟩

/-! SHF_INF_ZERO (Table 4.8) -/

/-- SHF_INF_ZERO.INF_ZERO -/
def shfInfZeroInfZero : Fld := ⟨.shf, 0x118, 0, 32, .ro, 0x0⟩
def shfInfZeroReg : Reg := ⟨.shf, 0x118, 0, 1,
  [shfInfZeroInfZero]⟩

/-! SHF_INT_SAT (Table 4.9) -/

/-- SHF_INT_SAT.INT_SAT -/
def shfIntSatIntSat : Fld := ⟨.shf, 0x11c, 0, 32, .ro, 0x0⟩
def shfIntSatReg : Reg := ⟨.shf, 0x11c, 0, 1,
  [shfIntSatIntSat]⟩

/-! TILE_COLMAP (Table 6.5) -/

/-- TILE_COLMAP.BYPASS1 -/
def tileColmapBypass1 : Fld := ⟨.tile, 0x0, 0, 5, .ro, 0x1f⟩
/-- TILE_COLMAP.BYPASS2 -/
def tileColmapBypass2 : Fld := ⟨.tile, 0x0, 5, 5, .ro, 0x1f⟩
/-- TILE_COLMAP.NARROW -/
def tileColmapNarrow : Fld := ⟨.tile, 0x0, 10, 1, .ro, 0x0⟩
/-- TILE_COLMAP.RETIRE_PEND -/
def tileColmapRetirePend : Fld := ⟨.tile, 0x0, 11, 1, .ro, 0x0⟩
/-- TILE_COLMAP.WIT_FAILS -/
def tileColmapWitFails : Fld := ⟨.tile, 0x0, 12, 2, .ro, 0x0⟩
/-- TILE_COLMAP.OUT -/
def tileColmapOut : Fld := ⟨.tile, 0x0, 14, 1, .ro, 0x0⟩
def tileColmapReg : Reg := ⟨.tile, 0x0, 0, 1,
  [tileColmapBypass1, tileColmapBypass2, tileColmapNarrow, tileColmapRetirePend,
   tileColmapWitFails, tileColmapOut]⟩

/-! SHF_WIT_STAT (Table 6.6) -/

/-- SHF_WIT_STAT.FAIL_SEEN -/
def shfWitStatFailSeen : Fld := ⟨.shf, 0x120, 0, 1, .w1c, 0x0⟩
/-- SHF_WIT_STAT.SKIP_SEEN -/
def shfWitStatSkipSeen : Fld := ⟨.shf, 0x120, 1, 1, .w1c, 0x0⟩
/-- SHF_WIT_STAT.HARD_SEEN -/
def shfWitStatHardSeen : Fld := ⟨.shf, 0x120, 2, 1, .w1c, 0x0⟩
/-- SHF_WIT_STAT.LAST_TROW -/
def shfWitStatLastTrow : Fld := ⟨.shf, 0x120, 8, 3, .ro, 0x0⟩
/-- SHF_WIT_STAT.LAST_TCOL -/
def shfWitStatLastTcol : Fld := ⟨.shf, 0x120, 11, 3, .ro, 0x0⟩
def shfWitStatReg : Reg := ⟨.shf, 0x120, 0, 1,
  [shfWitStatFailSeen, shfWitStatSkipSeen, shfWitStatHardSeen, shfWitStatLastTrow,
   shfWitStatLastTcol]⟩

/-! SHF_WIT_LAST (Table 6.7) -/

/-- SHF_WIT_LAST.OP_INDEX -/
def shfWitLastOpIndex : Fld := ⟨.shf, 0x124, 0, 32, .ro, 0x0⟩
def shfWitLastReg : Reg := ⟨.shf, 0x124, 0, 1,
  [shfWitLastOpIndex]⟩

/-! SHF_WIT_FAIL (Table 6.8) -/

/-- SHF_WIT_FAIL.FAILS -/
def shfWitFailFails : Fld := ⟨.shf, 0x128, 0, 32, .ro, 0x0⟩
def shfWitFailReg : Reg := ⟨.shf, 0x128, 0, 1,
  [shfWitFailFails]⟩

/-! SHF_WIT_SKIP (Table 6.9) -/

/-- SHF_WIT_SKIP.SKIPS -/
def shfWitSkipSkips : Fld := ⟨.shf, 0x12c, 0, 32, .ro, 0x0⟩
def shfWitSkipReg : Reg := ⟨.shf, 0x12c, 0, 1,
  [shfWitSkipSkips]⟩

/-! SHF_ABANDON (Table 6.10) -/

/-- SHF_ABANDON.ABANDONED -/
def shfAbandonAbandoned : Fld := ⟨.shf, 0x130, 0, 16, .ro, 0x0⟩
/-- SHF_ABANDON.DISCARDED -/
def shfAbandonDiscarded : Fld := ⟨.shf, 0x130, 16, 16, .ro, 0x0⟩
def shfAbandonReg : Reg := ⟨.shf, 0x130, 0, 1,
  [shfAbandonAbandoned, shfAbandonDiscarded]⟩

/-! SHF_SPARE_MAP (Table 6.11) -/

/-- SHF_SPARE_MAP.S0_POS -/
def shfSpareMapS0Pos : Fld := ⟨.shf, 0x134, 0, 6, .ro, 0x0⟩
/-- SHF_SPARE_MAP.S0_USE -/
def shfSpareMapS0Use : Fld := ⟨.shf, 0x134, 6, 1, .ro, 0x0⟩
/-- SHF_SPARE_MAP.S0_FAILED -/
def shfSpareMapS0Failed : Fld := ⟨.shf, 0x134, 7, 1, .ro, 0x0⟩
/-- SHF_SPARE_MAP.S1_POS -/
def shfSpareMapS1Pos : Fld := ⟨.shf, 0x134, 8, 6, .ro, 0x0⟩
/-- SHF_SPARE_MAP.S1_USE -/
def shfSpareMapS1Use : Fld := ⟨.shf, 0x134, 14, 1, .ro, 0x0⟩
/-- SHF_SPARE_MAP.S1_FAILED -/
def shfSpareMapS1Failed : Fld := ⟨.shf, 0x134, 15, 1, .ro, 0x0⟩
/-- SHF_SPARE_MAP.S2_POS -/
def shfSpareMapS2Pos : Fld := ⟨.shf, 0x134, 16, 6, .ro, 0x0⟩
/-- SHF_SPARE_MAP.S2_USE -/
def shfSpareMapS2Use : Fld := ⟨.shf, 0x134, 22, 1, .ro, 0x0⟩
/-- SHF_SPARE_MAP.S2_FAILED -/
def shfSpareMapS2Failed : Fld := ⟨.shf, 0x134, 23, 1, .ro, 0x0⟩
/-- SHF_SPARE_MAP.S3_POS -/
def shfSpareMapS3Pos : Fld := ⟨.shf, 0x134, 24, 6, .ro, 0x0⟩
/-- SHF_SPARE_MAP.S3_USE -/
def shfSpareMapS3Use : Fld := ⟨.shf, 0x134, 30, 1, .ro, 0x0⟩
/-- SHF_SPARE_MAP.S3_FAILED -/
def shfSpareMapS3Failed : Fld := ⟨.shf, 0x134, 31, 1, .ro, 0x0⟩
def shfSpareMapReg : Reg := ⟨.shf, 0x134, 0, 1,
  [shfSpareMapS0Pos, shfSpareMapS0Use, shfSpareMapS0Failed, shfSpareMapS1Pos, shfSpareMapS1Use,
   shfSpareMapS1Failed, shfSpareMapS2Pos, shfSpareMapS2Use, shfSpareMapS2Failed,
   shfSpareMapS3Pos, shfSpareMapS3Use, shfSpareMapS3Failed]⟩

/-! KLN_SPARE_MAP0 (Table 6.12) -/

/-- KLN_SPARE_MAP0.POS -/
def klnSpareMap0Pos : Fld := ⟨.kln, 0x110, 0, 8, .ro, 0x0⟩
/-- KLN_SPARE_MAP0.USE -/
def klnSpareMap0Use : Fld := ⟨.kln, 0x110, 8, 1, .ro, 0x0⟩
/-- KLN_SPARE_MAP0.FAILED -/
def klnSpareMap0Failed : Fld := ⟨.kln, 0x110, 9, 1, .ro, 0x0⟩
/-- KLN_SPARE_MAP0.NEXT_POS -/
def klnSpareMap0NextPos : Fld := ⟨.kln, 0x110, 16, 8, .ro, 0x0⟩
/-- KLN_SPARE_MAP0.NEXT_USE -/
def klnSpareMap0NextUse : Fld := ⟨.kln, 0x110, 24, 1, .ro, 0x0⟩
/-- KLN_SPARE_MAP0.NEXT_FAILED -/
def klnSpareMap0NextFailed : Fld := ⟨.kln, 0x110, 25, 1, .ro, 0x0⟩
def klnSpareMap0Reg : Reg := ⟨.kln, 0x110, 0, 1,
  [klnSpareMap0Pos, klnSpareMap0Use, klnSpareMap0Failed, klnSpareMap0NextPos,
   klnSpareMap0NextUse, klnSpareMap0NextFailed]⟩

/-! KLN_SPARE_MAP1 (Table 6.12) -/

/-- KLN_SPARE_MAP1.POS -/
def klnSpareMap1Pos : Fld := ⟨.kln, 0x114, 0, 8, .ro, 0x0⟩
/-- KLN_SPARE_MAP1.USE -/
def klnSpareMap1Use : Fld := ⟨.kln, 0x114, 8, 1, .ro, 0x0⟩
/-- KLN_SPARE_MAP1.FAILED -/
def klnSpareMap1Failed : Fld := ⟨.kln, 0x114, 9, 1, .ro, 0x0⟩
/-- KLN_SPARE_MAP1.NEXT_POS -/
def klnSpareMap1NextPos : Fld := ⟨.kln, 0x114, 16, 8, .ro, 0x0⟩
/-- KLN_SPARE_MAP1.NEXT_USE -/
def klnSpareMap1NextUse : Fld := ⟨.kln, 0x114, 24, 1, .ro, 0x0⟩
/-- KLN_SPARE_MAP1.NEXT_FAILED -/
def klnSpareMap1NextFailed : Fld := ⟨.kln, 0x114, 25, 1, .ro, 0x0⟩
def klnSpareMap1Reg : Reg := ⟨.kln, 0x114, 0, 1,
  [klnSpareMap1Pos, klnSpareMap1Use, klnSpareMap1Failed, klnSpareMap1NextPos,
   klnSpareMap1NextUse, klnSpareMap1NextFailed]⟩

/-! DMA_RING_BASE (Table 7.8) -/

/-- DMA_RING_BASE.SPACE -/
def dmaRingBaseSpace : Fld := ⟨.dma, 0x0, 0, 4, .rw, 0x0⟩
/-- DMA_RING_BASE.ADDR -/
def dmaRingBaseAddr : Fld := ⟨.dma, 0x0, 6, 58, .rw, 0x0⟩
def dmaRingBaseReg : Reg := ⟨.dma, 0x0, 0, 1,
  [dmaRingBaseSpace, dmaRingBaseAddr]⟩

/-! DMA_RING_CTL (Table 7.9) -/

/-- DMA_RING_CTL.LOG2_SIZE -/
def dmaRingCtlLog2Size : Fld := ⟨.dma, 0x8, 0, 5, .rw, 0x4⟩
/-- DMA_RING_CTL.ENABLE -/
def dmaRingCtlEnable : Fld := ⟨.dma, 0x8, 8, 1, .rw, 0x0⟩
def dmaRingCtlReg : Reg := ⟨.dma, 0x8, 0, 1,
  [dmaRingCtlLog2Size, dmaRingCtlEnable]⟩

/-! DMA_HEAD (Table 7.10) -/

/-- DMA_HEAD.HEAD -/
def dmaHeadHead : Fld := ⟨.dma, 0xc, 0, 16, .ro, 0x0⟩
def dmaHeadReg : Reg := ⟨.dma, 0xc, 0, 1,
  [dmaHeadHead]⟩

/-! DMA_DOORBELL (Table 7.11) -/

/-- DMA_DOORBELL.RING -/
def dmaDoorbellRing : Fld := ⟨.dma, 0x10, 0, 32, .wo, 0x0⟩
def dmaDoorbellReg : Reg := ⟨.dma, 0x10, 0, 1,
  [dmaDoorbellRing]⟩

/-! DMA_STATUS (Table 7.12) -/

/-- DMA_STATUS.IDLE -/
def dmaStatusIdle : Fld := ⟨.dma, 0x14, 0, 1, .ro, 0x1⟩
/-- DMA_STATUS.WAITING -/
def dmaStatusWaiting : Fld := ⟨.dma, 0x14, 1, 1, .ro, 0x0⟩
/-- DMA_STATUS.BAD_SEEN -/
def dmaStatusBadSeen : Fld := ⟨.dma, 0x14, 2, 1, .w1c, 0x0⟩
/-- DMA_STATUS.HOST_ERR_SEEN -/
def dmaStatusHostErrSeen : Fld := ⟨.dma, 0x14, 3, 1, .w1c, 0x0⟩
/-- DMA_STATUS.HELD -/
def dmaStatusHeld : Fld := ⟨.dma, 0x14, 8, 5, .ro, 0x0⟩
def dmaStatusReg : Reg := ⟨.dma, 0x14, 0, 1,
  [dmaStatusIdle, dmaStatusWaiting, dmaStatusBadSeen, dmaStatusHostErrSeen, dmaStatusHeld]⟩

/-! DMA_BYTES (Table 7.13) -/

/-- DMA_BYTES.BYTES -/
def dmaBytesBytes : Fld := ⟨.dma, 0x18, 0, 64, .ro, 0x0⟩
def dmaBytesReg : Reg := ⟨.dma, 0x18, 0, 1,
  [dmaBytesBytes]⟩

/-! STK_STATUS (Table 7.14) -/

/-- STK_STATUS.PARITY_OK -/
def stkStatusParityOk : Fld := ⟨.stk, 0x0, 0, 1, .ro, 0x1⟩
/-- STK_STATUS.REBUILDING -/
def stkStatusRebuilding : Fld := ⟨.stk, 0x0, 1, 1, .ro, 0x0⟩
/-- STK_STATUS.NO_PARITY -/
def stkStatusNoParity : Fld := ⟨.stk, 0x0, 2, 1, .ro, 0x0⟩
/-- STK_STATUS.FAILED_CH -/
def stkStatusFailedCh : Fld := ⟨.stk, 0x0, 8, 5, .ro, 0x1f⟩
/-- STK_STATUS.REBUILD_PROG -/
def stkStatusRebuildProg : Fld := ⟨.stk, 0x0, 16, 16, .ro, 0x0⟩
def stkStatusReg : Reg := ⟨.stk, 0x0, 0, 1,
  [stkStatusParityOk, stkStatusRebuilding, stkStatusNoParity, stkStatusFailedCh,
   stkStatusRebuildProg]⟩

/-! STK_CE_CNT (Table 7.15) -/

/-- STK_CE_CNT.CE -/
def stkCeCntCe : Fld := ⟨.stk, 0x4, 0, 32, .ro, 0x0⟩
def stkCeCntReg : Reg := ⟨.stk, 0x4, 0, 1,
  [stkCeCntCe]⟩

/-! STK_UE (Table 7.16) -/

/-- STK_UE.RECON -/
def stkUeRecon : Fld := ⟨.stk, 0x8, 0, 16, .ro, 0x0⟩
/-- STK_UE.UE -/
def stkUeUe : Fld := ⟨.stk, 0x8, 16, 16, .ro, 0x0⟩
def stkUeReg : Reg := ⟨.stk, 0x8, 0, 1,
  [stkUeRecon, stkUeUe]⟩

/-! STK_UE_ADDR (Table 7.17) -/

/-- STK_UE_ADDR.ADDR -/
def stkUeAddrAddr : Fld := ⟨.stk, 0x10, 0, 40, .ro, 0x0⟩
def stkUeAddrReg : Reg := ⟨.stk, 0x10, 0, 1,
  [stkUeAddrAddr]⟩

/-! STK_DQ_SPARE (Table 7.18) -/

/-- STK_DQ_SPARE.LEFT -/
def stkDqSpareLeft : Fld := ⟨.stk, 0x18, 0, 34, .ro, 0x2aaaaaaaa⟩
def stkDqSpareReg : Reg := ⟨.stk, 0x18, 0, 1,
  [stkDqSpareLeft]⟩

/-! FLU_STATUS (Table 8.8) -/

/-- FLU_STATUS.IN_SERVICE -/
def fluStatusInService : Fld := ⟨.flu, 0x0, 0, 1, .ro, 0x0⟩
/-- FLU_STATUS.SIG_OVF_SEEN -/
def fluStatusSigOvfSeen : Fld := ⟨.flu, 0x0, 1, 1, .w1c, 0x0⟩
/-- FLU_STATUS.TIMEOUT_SEEN -/
def fluStatusTimeoutSeen : Fld := ⟨.flu, 0x0, 2, 1, .w1c, 0x0⟩
/-- FLU_STATUS.RECORD_FULL_SEEN -/
def fluStatusRecordFullSeen : Fld := ⟨.flu, 0x0, 3, 1, .w1c, 0x0⟩
/-- FLU_STATUS.REMOTE_REFUSED_SEEN -/
def fluStatusRemoteRefusedSeen : Fld := ⟨.flu, 0x0, 4, 1, .w1c, 0x0⟩
/-- FLU_STATUS.LAST_SIG -/
def fluStatusLastSig : Fld := ⟨.flu, 0x0, 16, 13, .ro, 0x0⟩
def fluStatusReg : Reg := ⟨.flu, 0x0, 0, 1,
  [fluStatusInService, fluStatusSigOvfSeen, fluStatusTimeoutSeen, fluStatusRecordFullSeen,
   fluStatusRemoteRefusedSeen, fluStatusLastSig]⟩

/-! FLU_NEAR_TIMEOUT (Table 8.9) -/

/-- FLU_NEAR_TIMEOUT.NEAR -/
def fluNearTimeoutNear : Fld := ⟨.flu, 0x4, 0, 32, .ro, 0x0⟩
def fluNearTimeoutReg : Reg := ⟨.flu, 0x4, 0, 1,
  [fluNearTimeoutNear]⟩

/-! FLU_BAR_RESTART (Table 8.10) -/

/-- FLU_BAR_RESTART.RESTARTS -/
def fluBarRestartRestarts : Fld := ⟨.flu, 0x8, 0, 32, .ro, 0x0⟩
def fluBarRestartReg : Reg := ⟨.flu, 0x8, 0, 1,
  [fluBarRestartRestarts]⟩

/-! FLU_RECORD_USE (Table 8.11) -/

/-- FLU_RECORD_USE.IN_USE -/
def fluRecordUseInUse : Fld := ⟨.flu, 0xc, 0, 15, .ro, 0x0⟩
/-- FLU_RECORD_USE.PEAK -/
def fluRecordUsePeak : Fld := ⟨.flu, 0xc, 16, 15, .ro, 0x0⟩
def fluRecordUseReg : Reg := ⟨.flu, 0xc, 0, 1,
  [fluRecordUseInUse, fluRecordUsePeak]⟩

/-! FLU_SIG_VALUE (Table 8.12) -/

/-- FLU_SIG_VALUE.VALUE -/
def fluSigValueValue : Fld := ⟨.flu, 0x10000, 0, 32, .ro, 0x0⟩
def fluSigValueReg : Reg := ⟨.flu, 0x10000, 4, 8192,
  [fluSigValueValue]⟩

/-! FLU_SIG_STATE (Table 8.13) -/

/-- FLU_SIG_STATE.CLASS -/
def fluSigStateClass : Fld := ⟨.flu, 0x20000, 0, 1, .ro, 0x0⟩
/-- FLU_SIG_STATE.HELD -/
def fluSigStateHeld : Fld := ⟨.flu, 0x20000, 1, 1, .ro, 0x0⟩
/-- FLU_SIG_STATE.WAITERS -/
def fluSigStateWaiters : Fld := ⟨.flu, 0x20000, 2, 11, .ro, 0x0⟩
/-- FLU_SIG_STATE.FSLOT -/
def fluSigStateFslot : Fld := ⟨.flu, 0x20000, 16, 16, .ro, 0xffff⟩
def fluSigStateReg : Reg := ⟨.flu, 0x20000, 4, 8192,
  [fluSigStateClass, fluSigStateHeld, fluSigStateWaiters, fluSigStateFslot]⟩

/-! FLU_BAR_STATE (Table 8.14) -/

/-- FLU_BAR_STATE.GEN -/
def fluBarStateGen : Fld := ⟨.flu, 0x30000, 0, 32, .ro, 0x0⟩
/-- FLU_BAR_STATE.ARRIVED -/
def fluBarStateArrived : Fld := ⟨.flu, 0x30000, 32, 11, .ro, 0x0⟩
/-- FLU_BAR_STATE.ACTIVE -/
def fluBarStateActive : Fld := ⟨.flu, 0x30000, 43, 1, .ro, 0x0⟩
/-- FLU_BAR_STATE.FSLOT -/
def fluBarStateFslot : Fld := ⟨.flu, 0x30000, 48, 16, .ro, 0xffff⟩
def fluBarStateReg : Reg := ⟨.flu, 0x30000, 8, 256,
  [fluBarStateGen, fluBarStateArrived, fluBarStateActive, fluBarStateFslot]⟩

/-! FE_STATUS (Table 9.13) -/

/-- FE_STATUS.FIRINGS -/
def feStatusFirings : Fld := ⟨.fe, 0x0, 0, 13, .ro, 0x0⟩
/-- FE_STATUS.OPS -/
def feStatusOps : Fld := ⟨.fe, 0x0, 16, 13, .ro, 0x0⟩
/-- FE_STATUS.RING_DETACHED -/
def feStatusRingDetached : Fld := ⟨.fe, 0x0, 29, 1, .ro, 0x0⟩
/-- FE_STATUS.LEDGER_FULL_SEEN -/
def feStatusLedgerFullSeen : Fld := ⟨.fe, 0x0, 30, 1, .w1c, 0x0⟩
/-- FE_STATUS.LOG_FULL_SEEN -/
def feStatusLogFullSeen : Fld := ⟨.fe, 0x0, 31, 1, .w1c, 0x0⟩
def feStatusReg : Reg := ⟨.fe, 0x0, 0, 1,
  [feStatusFirings, feStatusOps, feStatusRingDetached, feStatusLedgerFullSeen,
   feStatusLogFullSeen]⟩

/-! FE_FSEQ (Table 9.14) -/

/-- FE_FSEQ.NEXT -/
def feFseqNext : Fld := ⟨.fe, 0x8, 0, 64, .ro, 0x0⟩
def feFseqReg : Reg := ⟨.fe, 0x8, 0, 1,
  [feFseqNext]⟩

/-! FE_SQ_DOORBELL (Table 9.15) -/

/-- FE_SQ_DOORBELL.QUEUE -/
def feSqDoorbellQueue : Fld := ⟨.fe, 0x100, 0, 6, .wo, 0x0⟩
def feSqDoorbellReg : Reg := ⟨.fe, 0x100, 0, 1,
  [feSqDoorbellQueue]⟩

/-! FE_SQ_CFG (Table 9.16) -/

/-- FE_SQ_CFG.SLICE -/
def feSqCfgSlice : Fld := ⟨.fe, 0x800, 0, 16, .rw, 0x100⟩
/-- FE_SQ_CFG.ENABLE -/
def feSqCfgEnable : Fld := ⟨.fe, 0x800, 16, 1, .rw, 0x0⟩
/-- FE_SQ_CFG.PTASK -/
def feSqCfgPtask : Fld := ⟨.fe, 0x800, 17, 1, .ro, 0x0⟩
/-- FE_SQ_CFG.HEAD -/
def feSqCfgHead : Fld := ⟨.fe, 0x800, 18, 6, .ro, 0x0⟩
/-- FE_SQ_CFG.PTASK_GRAPH -/
def feSqCfgPtaskGraph : Fld := ⟨.fe, 0x800, 32, 10, .ro, 0x0⟩
def feSqCfgReg : Reg := ⟨.fe, 0x800, 8, 64,
  [feSqCfgSlice, feSqCfgEnable, feSqCfgPtask, feSqCfgHead, feSqCfgPtaskGraph]⟩

/-! FE_HRING_BASE (Table 9.17) -/

/-- FE_HRING_BASE.ADDR -/
def feHringBaseAddr : Fld := ⟨.fe, 0x140, 8, 56, .rw, 0x0⟩
def feHringBaseReg : Reg := ⟨.fe, 0x140, 0, 1,
  [feHringBaseAddr]⟩

/-! FE_HRING_CTL (Table 9.18) -/

/-- FE_HRING_CTL.LOG2_SIZE -/
def feHringCtlLog2Size : Fld := ⟨.fe, 0x148, 0, 5, .rw, 0xa⟩
/-- FE_HRING_CTL.ENABLE -/
def feHringCtlEnable : Fld := ⟨.fe, 0x148, 8, 1, .rw, 0x0⟩
/-- FE_HRING_CTL.DETACHED -/
def feHringCtlDetached : Fld := ⟨.fe, 0x148, 9, 1, .ro, 0x0⟩
def feHringCtlReg : Reg := ⟨.fe, 0x148, 0, 1,
  [feHringCtlLog2Size, feHringCtlEnable, feHringCtlDetached]⟩

/-! FE_HRING_PTR (Table 9.19) -/

/-- FE_HRING_PTR.HEAD -/
def feHringPtrHead : Fld := ⟨.fe, 0x150, 0, 32, .ro, 0x0⟩
/-- FE_HRING_PTR.TAIL -/
def feHringPtrTail : Fld := ⟨.fe, 0x150, 32, 32, .rw, 0x0⟩
def feHringPtrReg : Reg := ⟨.fe, 0x150, 0, 1,
  [feHringPtrHead, feHringPtrTail]⟩

/-! FE_LEDGER (Table 9.20) -/

/-- FE_LEDGER.USED -/
def feLedgerUsed : Fld := ⟨.fe, 0x158, 0, 17, .ro, 0x0⟩
/-- FE_LEDGER.OLDEST_LSEQ -/
def feLedgerOldestLseq : Fld := ⟨.fe, 0x158, 32, 32, .ro, 0x0⟩
def feLedgerReg : Reg := ⟨.fe, 0x158, 0, 1,
  [feLedgerUsed, feLedgerOldestLseq]⟩

/-! FE_FSEQ_END (Table 9.22) -/

/-- FE_FSEQ_END.END -/
def feFseqEndEnd : Fld := ⟨.fe, 0x10, 0, 64, .ro, 0x0⟩
def feFseqEndReg : Reg := ⟨.fe, 0x10, 0, 1,
  [feFseqEndEnd]⟩

/-! WHL_CFG (Table 10.7) -/

/-- WHL_CFG.MODE -/
def whlCfgMode : Fld := ⟨.whl, 0x0, 0, 2, .rw, 0x0⟩
def whlCfgReg : Reg := ⟨.whl, 0x0, 0, 1,
  [whlCfgMode]⟩

/-! WHL_COUNT (Table 10.8) -/

/-- WHL_COUNT.COUNT -/
def whlCountCount : Fld := ⟨.whl, 0x8, 0, 64, .ro, 0x0⟩
def whlCountReg : Reg := ⟨.whl, 0x8, 0, 1,
  [whlCountCount]⟩

/-! WHL_TURN_LEN (Table 10.9) -/

/-- WHL_TURN_LEN.LEN -/
def whlTurnLenLen : Fld := ⟨.whl, 0x10, 0, 41, .ro, 0x10000⟩
def whlTurnLenReg : Reg := ⟨.whl, 0x10, 0, 1,
  [whlTurnLenLen]⟩

/-! WHL_TURN_START (Table 10.10) -/

/-- WHL_TURN_START.T0 -/
def whlTurnStartT0 : Fld := ⟨.whl, 0x18, 0, 64, .ro, 0x0⟩
def whlTurnStartReg : Reg := ⟨.whl, 0x18, 0, 1,
  [whlTurnStartT0]⟩

/-! WHL_POS (Table 10.11) -/

/-- WHL_POS.ANGLE -/
def whlPosAngle : Fld := ⟨.whl, 0x20, 0, 16, .ro, 0x0⟩
/-- WHL_POS.TURN_NO -/
def whlPosTurnNo : Fld := ⟨.whl, 0x20, 16, 48, .ro, 0x0⟩
def whlPosReg : Reg := ⟨.whl, 0x20, 0, 1,
  [whlPosAngle, whlPosTurnNo]⟩

/-! WHL_STATUS (Table 10.12) -/

/-- WHL_STATUS.UNSYNC -/
def whlStatusUnsync : Fld := ⟨.whl, 0x28, 0, 1, .ro, 0x1⟩
/-- WHL_STATUS.UNSYNC_SEEN -/
def whlStatusUnsyncSeen : Fld := ⟨.whl, 0x28, 1, 1, .w1c, 0x0⟩
/-- WHL_STATUS.STEP_SEEN -/
def whlStatusStepSeen : Fld := ⟨.whl, 0x28, 2, 1, .w1c, 0x0⟩
/-- WHL_STATUS.CHANGEOVERS -/
def whlStatusChangeovers : Fld := ⟨.whl, 0x28, 8, 8, .ro, 0x0⟩
/-- WHL_STATUS.PARENT -/
def whlStatusParent : Fld := ⟨.whl, 0x28, 16, 4, .ro, 0x0⟩
/-- WHL_STATUS.STEPS_PENDING -/
def whlStatusStepsPending : Fld := ⟨.whl, 0x28, 20, 5, .ro, 0x0⟩
def whlStatusReg : Reg := ⟨.whl, 0x28, 0, 1,
  [whlStatusUnsync, whlStatusUnsyncSeen, whlStatusStepSeen, whlStatusChangeovers,
   whlStatusParent, whlStatusStepsPending]⟩

/-! WHL_ERR (Table 10.13) -/

/-- WHL_ERR.LAST_PS -/
def whlErrLastPs : Fld := ⟨.whl, 0x30, 0, 32, .ro, 0x0⟩
/-- WHL_ERR.MAX_PS -/
def whlErrMaxPs : Fld := ⟨.whl, 0x30, 32, 32, .ro, 0x0⟩
def whlErrReg : Reg := ⟨.whl, 0x30, 0, 1,
  [whlErrLastPs, whlErrMaxPs]⟩

/-! DMP_CFG (Table 10.14) -/

/-- DMP_CFG.HOLD_LIMIT -/
def dmpCfgHoldLimit : Fld := ⟨.dmp, 0x0, 0, 16, .rw, 0x7d0⟩
def dmpCfgReg : Reg := ⟨.dmp, 0x0, 0, 1,
  [dmpCfgHoldLimit]⟩

/-! DMP_STATUS (Table 10.15) -/

/-- DMP_STATUS.WINDOW_OPEN -/
def dmpStatusWindowOpen : Fld := ⟨.dmp, 0x4, 0, 1, .ro, 0x0⟩
/-- DMP_STATUS.CUT_SEEN -/
def dmpStatusCutSeen : Fld := ⟨.dmp, 0x4, 1, 1, .w1c, 0x0⟩
/-- DMP_STATUS.LATE_SEEN -/
def dmpStatusLateSeen : Fld := ⟨.dmp, 0x4, 2, 1, .w1c, 0x0⟩
/-- DMP_STATUS.WINDOWS -/
def dmpStatusWindows : Fld := ⟨.dmp, 0x4, 16, 9, .ro, 0x0⟩
def dmpStatusReg : Reg := ⟨.dmp, 0x4, 0, 1,
  [dmpStatusWindowOpen, dmpStatusCutSeen, dmpStatusLateSeen, dmpStatusWindows]⟩

/-! DMP_CUT (Table 10.16) -/

/-- DMP_CUT.LAST_REQ -/
def dmpCutLastReq : Fld := ⟨.dmp, 0x8, 0, 16, .ro, 0xffff⟩
/-- DMP_CUT.HELD -/
def dmpCutHeld : Fld := ⟨.dmp, 0x8, 16, 7, .ro, 0x0⟩
def dmpCutReg : Reg := ⟨.dmp, 0x8, 0, 1,
  [dmpCutLastReq, dmpCutHeld]⟩

/-! DMP_RELEASE (Table 10.17) -/

/-- DMP_RELEASE.REQ -/
def dmpReleaseReq : Fld := ⟨.dmp, 0xc, 0, 16, .wo, 0x0⟩
def dmpReleaseReg : Reg := ⟨.dmp, 0xc, 0, 1,
  [dmpReleaseReq]⟩

/-! DMP_REQ_STAT (Table 10.18) -/

/-- DMP_REQ_STAT.REQ -/
def dmpReqStatReq : Fld := ⟨.dmp, 0x100, 0, 16, .ro, 0xffff⟩
/-- DMP_REQ_STAT.HELD -/
def dmpReqStatHeld : Fld := ⟨.dmp, 0x100, 16, 1, .ro, 0x0⟩
/-- DMP_REQ_STAT.GRANTS -/
def dmpReqStatGrants : Fld := ⟨.dmp, 0x100, 32, 32, .ro, 0x0⟩
/-- DMP_REQ_STAT.WAITS -/
def dmpReqStatWaits : Fld := ⟨.dmp, 0x100, 64, 32, .ro, 0x0⟩
/-- DMP_REQ_STAT.LONGEST -/
def dmpReqStatLongest : Fld := ⟨.dmp, 0x100, 96, 32, .ro, 0x0⟩
def dmpReqStatReg : Reg := ⟨.dmp, 0x100, 16, 65,
  [dmpReqStatReq, dmpReqStatHeld, dmpReqStatGrants, dmpReqStatWaits, dmpReqStatLongest]⟩

/-! FAB_STATUS (Table 11.10) -/

/-- FAB_STATUS.PLAN_OK -/
def fabStatusPlanOk : Fld := ⟨.fab, 0x0, 0, 1, .ro, 0x0⟩
/-- FAB_STATUS.JOB_SET -/
def fabStatusJobSet : Fld := ⟨.fab, 0x0, 1, 1, .ro, 0x0⟩
/-- FAB_STATUS.QUAR_SEEN -/
def fabStatusQuarSeen : Fld := ⟨.fab, 0x0, 2, 1, .w1c, 0x0⟩
/-- FAB_STATUS.DOWN_SEEN -/
def fabStatusDownSeen : Fld := ⟨.fab, 0x0, 3, 1, .w1c, 0x0⟩
/-- FAB_STATUS.HOLD_FULL_SEEN -/
def fabStatusHoldFullSeen : Fld := ⟨.fab, 0x0, 4, 1, .w1c, 0x0⟩
/-- FAB_STATUS.RESYNC_SEEN -/
def fabStatusResyncSeen : Fld := ⟨.fab, 0x0, 5, 1, .w1c, 0x0⟩
/-- FAB_STATUS.MODULE -/
def fabStatusModule : Fld := ⟨.fab, 0x0, 16, 14, .ro, 0x0⟩
def fabStatusReg : Reg := ⟨.fab, 0x0, 0, 1,
  [fabStatusPlanOk, fabStatusJobSet, fabStatusQuarSeen, fabStatusDownSeen, fabStatusHoldFullSeen,
   fabStatusResyncSeen, fabStatusModule]⟩

/-! FAB_PLAN (Table 11.11) -/

/-- FAB_PLAN.PLAN_ID -/
def fabPlanPlanId : Fld := ⟨.fab, 0x4, 0, 32, .ro, 0x0⟩
def fabPlanReg : Reg := ⟨.fab, 0x4, 0, 1,
  [fabPlanPlanId]⟩

/-! FAB_JOB (Table 11.12) -/

/-- FAB_JOB.BASE -/
def fabJobBase : Fld := ⟨.fab, 0x8, 0, 14, .ro, 0x0⟩
/-- FAB_JOB.MASK -/
def fabJobMask : Fld := ⟨.fab, 0x8, 14, 14, .ro, 0x0⟩
/-- FAB_JOB.TAG -/
def fabJobTag : Fld := ⟨.fab, 0x8, 32, 16, .ro, 0x0⟩
/-- FAB_JOB.INC_LOW -/
def fabJobIncLow : Fld := ⟨.fab, 0x8, 48, 8, .ro, 0x0⟩
def fabJobReg : Reg := ⟨.fab, 0x8, 0, 1,
  [fabJobBase, fabJobMask, fabJobTag, fabJobIncLow]⟩

/-! FAB_E2E_CNT (Table 11.13) -/

/-- FAB_E2E_CNT.DUP -/
def fabE2eCntDup : Fld := ⟨.fab, 0x10, 0, 16, .ro, 0x0⟩
/-- FAB_E2E_CNT.AHEAD -/
def fabE2eCntAhead : Fld := ⟨.fab, 0x10, 16, 16, .ro, 0x0⟩
/-- FAB_E2E_CNT.RESENT -/
def fabE2eCntResent : Fld := ⟨.fab, 0x10, 32, 16, .ro, 0x0⟩
/-- FAB_E2E_CNT.REFUSED -/
def fabE2eCntRefused : Fld := ⟨.fab, 0x10, 48, 16, .ro, 0x0⟩
def fabE2eCntReg : Reg := ⟨.fab, 0x10, 0, 1,
  [fabE2eCntDup, fabE2eCntAhead, fabE2eCntResent, fabE2eCntRefused]⟩

/-! FAB_HOLD (Table 11.14) -/

/-- FAB_HOLD.USED_KIB -/
def fabHoldUsedKib : Fld := ⟨.fab, 0x18, 0, 32, .ro, 0x0⟩
/-- FAB_HOLD.PEAK_KIB -/
def fabHoldPeakKib : Fld := ⟨.fab, 0x18, 32, 32, .ro, 0x0⟩
def fabHoldReg : Reg := ⟨.fab, 0x18, 0, 1,
  [fabHoldUsedKib, fabHoldPeakKib]⟩

/-! FAB_PORT_STATUS (Table 11.15) -/

/-- FAB_PORT_STATUS.STATE -/
def fabPortStatusState : Fld := ⟨.fab, 0x100, 0, 3, .ro, 0x0⟩
/-- FAB_PORT_STATUS.WIDTH -/
def fabPortStatusWidth : Fld := ⟨.fab, 0x100, 3, 5, .ro, 0x0⟩
/-- FAB_PORT_STATUS.SPARES_LEFT -/
def fabPortStatusSparesLeft : Fld := ⟨.fab, 0x100, 8, 2, .ro, 0x0⟩
/-- FAB_PORT_STATUS.NEIGH_CHANGED -/
def fabPortStatusNeighChanged : Fld := ⟨.fab, 0x100, 10, 1, .w1c, 0x0⟩
/-- FAB_PORT_STATUS.NEIGHBOUR -/
def fabPortStatusNeighbour : Fld := ⟨.fab, 0x100, 16, 14, .ro, 0x0⟩
/-- FAB_PORT_STATUS.DELAY_PS -/
def fabPortStatusDelayPs : Fld := ⟨.fab, 0x100, 32, 32, .ro, 0x0⟩
def fabPortStatusReg : Reg := ⟨.fab, 0x100, 64, 14,
  [fabPortStatusState, fabPortStatusWidth, fabPortStatusSparesLeft, fabPortStatusNeighChanged,
   fabPortStatusNeighbour, fabPortStatusDelayPs]⟩

/-! FAB_PORT_CNT (Table 11.16) -/

/-- FAB_PORT_CNT.REPLAYS -/
def fabPortCntReplays : Fld := ⟨.fab, 0x108, 0, 16, .ro, 0x0⟩
/-- FAB_PORT_CNT.RETRAINS -/
def fabPortCntRetrains : Fld := ⟨.fab, 0x108, 16, 16, .ro, 0x0⟩
/-- FAB_PORT_CNT.LANES_LOST -/
def fabPortCntLanesLost : Fld := ⟨.fab, 0x108, 32, 8, .ro, 0x0⟩
/-- FAB_PORT_CNT.DOWNS -/
def fabPortCntDowns : Fld := ⟨.fab, 0x108, 40, 8, .ro, 0x0⟩
/-- FAB_PORT_CNT.REPAIRED -/
def fabPortCntRepaired : Fld := ⟨.fab, 0x108, 48, 16, .ro, 0x0⟩
def fabPortCntReg : Reg := ⟨.fab, 0x108, 64, 14,
  [fabPortCntReplays, fabPortCntRetrains, fabPortCntLanesLost, fabPortCntDowns,
   fabPortCntRepaired]⟩

/-! FAB_INC (Table 11.18) -/

/-- FAB_INC.INC -/
def fabIncInc : Fld := ⟨.fab, 0x20, 0, 32, .ro, 0x0⟩
def fabIncReg : Reg := ⟨.fab, 0x20, 0, 1,
  [fabIncInc]⟩

/-! GRX_STATUS (Table 12.6) -/

/-- GRX_STATUS.SLOTS_USED -/
def grxStatusSlotsUsed : Fld := ⟨.grx, 0x0, 0, 11, .ro, 0x0⟩
/-- GRX_STATUS.BROKEN_SEEN -/
def grxStatusBrokenSeen : Fld := ⟨.grx, 0x0, 11, 1, .w1c, 0x0⟩
/-- GRX_STATUS.CLEARING -/
def grxStatusClearing : Fld := ⟨.grx, 0x0, 12, 1, .ro, 0x0⟩
/-- GRX_STATUS.SOURCES -/
def grxStatusSources : Fld := ⟨.grx, 0x0, 16, 15, .ro, 0x0⟩
def grxStatusReg : Reg := ⟨.grx, 0x0, 0, 1,
  [grxStatusSlotsUsed, grxStatusBrokenSeen, grxStatusClearing, grxStatusSources]⟩

/-! GRX_CNT (Table 12.7) -/

/-- GRX_CNT.REPEATS -/
def grxCntRepeats : Fld := ⟨.grx, 0x8, 0, 32, .ro, 0x0⟩
/-- GRX_CNT.HELD_READS -/
def grxCntHeldReads : Fld := ⟨.grx, 0x8, 32, 32, .ro, 0x0⟩
def grxCntReg : Reg := ⟨.grx, 0x8, 0, 1,
  [grxCntRepeats, grxCntHeldReads]⟩

/-! GRX_INST (Table 12.8) -/

/-- GRX_INST.STATE -/
def grxInstState : Fld := ⟨.grx, 0x1000, 0, 3, .ro, 0x0⟩
/-- GRX_INST.DONE -/
def grxInstDone : Fld := ⟨.grx, 0x1000, 16, 15, .ro, 0x0⟩
/-- GRX_INST.NEXT -/
def grxInstNext : Fld := ⟨.grx, 0x1000, 32, 15, .ro, 0x0⟩
def grxInstReg : Reg := ⟨.grx, 0x1000, 8, 2048,
  [grxInstState, grxInstDone, grxInstNext]⟩

/-! GRX_GATHER (Table 12.9) -/

/-- GRX_GATHER.WHOLE -/
def grxGatherWhole : Fld := ⟨.grx, 0x5000, 0, 15, .ro, 0x0⟩
def grxGatherReg : Reg := ⟨.grx, 0x5000, 8, 2048,
  [grxGatherWhole]⟩

/-! SIT_MB_DOORBELL (Table 13.10) -/

/-- SIT_MB_DOORBELL.MB -/
def sitMbDoorbellMb : Fld := ⟨.sit, 0x0, 0, 3, .wo, 0x0⟩
def sitMbDoorbellReg : Reg := ⟨.sit, 0x0, 0, 1,
  [sitMbDoorbellMb]⟩

/-! SIT_MB_STATE (Table 13.11) -/

/-- SIT_MB_STATE.STATE -/
def sitMbStateState : Fld := ⟨.sit, 0x10, 0, 2, .ro, 0x0⟩
/-- SIT_MB_STATE.BUSY_DB -/
def sitMbStateBusyDb : Fld := ⟨.sit, 0x10, 8, 8, .ro, 0x0⟩
def sitMbStateReg : Reg := ⟨.sit, 0x10, 4, 8,
  [sitMbStateState, sitMbStateBusyDb]⟩

/-! SIT_EVENT (Table 13.12) -/

/-- SIT_EVENT.PENDING -/
def sitEventPending : Fld := ⟨.sit, 0x40, 0, 1, .ro, 0x0⟩
/-- SIT_EVENT.CODES -/
def sitEventCodes : Fld := ⟨.sit, 0x40, 16, 16, .ro, 0x0⟩
def sitEventReg : Reg := ⟨.sit, 0x40, 0, 1,
  [sitEventPending, sitEventCodes]⟩

/-! SIT_CORE (Table 13.13) -/

/-- SIT_CORE.PAIR_A -/
def sitCorePairA : Fld := ⟨.sit, 0x50, 0, 2, .ro, 0x0⟩
/-- SIT_CORE.PAIR_B -/
def sitCorePairB : Fld := ⟨.sit, 0x50, 2, 2, .ro, 0x1⟩
/-- SIT_CORE.SPARE -/
def sitCoreSpare : Fld := ⟨.sit, 0x50, 4, 2, .ro, 0x2⟩
/-- SIT_CORE.RESTARTING -/
def sitCoreRestarting : Fld := ⟨.sit, 0x50, 6, 1, .ro, 0x0⟩
/-- SIT_CORE.RESTARTS -/
def sitCoreRestarts : Fld := ⟨.sit, 0x50, 8, 8, .ro, 0x0⟩
/-- SIT_CORE.TRANSIENT -/
def sitCoreTransient : Fld := ⟨.sit, 0x50, 16, 8, .ro, 0x0⟩
def sitCoreReg : Reg := ⟨.sit, 0x50, 0, 1,
  [sitCorePairA, sitCorePairB, sitCoreSpare, sitCoreRestarting, sitCoreRestarts,
   sitCoreTransient]⟩

/-! SIT_MGMT_CFG (Table 13.14) -/

/-- SIT_MGMT_CFG.NODE_ID -/
def sitMgmtCfgNodeId : Fld := ⟨.sit, 0x60, 0, 8, .pw, 0xff⟩
/-- SIT_MGMT_CFG.TX_EN -/
def sitMgmtCfgTxEn : Fld := ⟨.sit, 0x60, 8, 1, .pw, 0x1⟩
def sitMgmtCfgReg : Reg := ⟨.sit, 0x60, 0, 1,
  [sitMgmtCfgNodeId, sitMgmtCfgTxEn]⟩

/-! SIT_MGMT_CNT (Table 13.15) -/

/-- SIT_MGMT_CNT.NOISE -/
def sitMgmtCntNoise : Fld := ⟨.sit, 0x68, 0, 16, .ro, 0x0⟩
/-- SIT_MGMT_CNT.STRANGER -/
def sitMgmtCntStranger : Fld := ⟨.sit, 0x68, 16, 16, .ro, 0x0⟩
/-- SIT_MGMT_CNT.BAD_ICV -/
def sitMgmtCntBadIcv : Fld := ⟨.sit, 0x68, 32, 16, .ro, 0x0⟩
/-- SIT_MGMT_CNT.REPLAY -/
def sitMgmtCntReplay : Fld := ⟨.sit, 0x68, 48, 16, .ro, 0x0⟩
def sitMgmtCntReg : Reg := ⟨.sit, 0x68, 0, 1,
  [sitMgmtCntNoise, sitMgmtCntStranger, sitMgmtCntBadIcv, sitMgmtCntReplay]⟩

/-! PCI_H_STATUS (Table 13.16) -/

/-- PCI_H_STATUS.SPEED -/
def pciHStatusSpeed : Fld := ⟨.pci, 0x0, 0, 4, .ro, 0x0⟩
/-- PCI_H_STATUS.WIDTH -/
def pciHStatusWidth : Fld := ⟨.pci, 0x0, 4, 5, .ro, 0x0⟩
/-- PCI_H_STATUS.FLIT -/
def pciHStatusFlit : Fld := ⟨.pci, 0x0, 9, 1, .ro, 0x0⟩
/-- PCI_H_STATUS.BME -/
def pciHStatusBme : Fld := ⟨.pci, 0x0, 10, 1, .ro, 0x0⟩
/-- PCI_H_STATUS.SPARES_USED -/
def pciHStatusSparesUsed : Fld := ⟨.pci, 0x0, 11, 2, .ro, 0x0⟩
def pciHStatusReg : Reg := ⟨.pci, 0x0, 0, 1,
  [pciHStatusSpeed, pciHStatusWidth, pciHStatusFlit, pciHStatusBme, pciHStatusSparesUsed]⟩

/-! PCI_S_CFG (Table 13.17) -/

/-- PCI_S_CFG.SPLIT -/
def pciSCfgSplit : Fld := ⟨.pci, 0x10, 0, 2, .pw, 0x0⟩
def pciSCfgReg : Reg := ⟨.pci, 0x10, 0, 1,
  [pciSCfgSplit]⟩

/-! PCI_S_STATUS (Table 13.18) -/

/-- PCI_S_STATUS.SPEED -/
def pciSStatusSpeed : Fld := ⟨.pci, 0x14, 0, 4, .ro, 0x0⟩
/-- PCI_S_STATUS.WIDTH -/
def pciSStatusWidth : Fld := ⟨.pci, 0x14, 4, 5, .ro, 0x0⟩
/-- PCI_S_STATUS.READY -/
def pciSStatusReady : Fld := ⟨.pci, 0x14, 9, 1, .ro, 0x0⟩
/-- PCI_S_STATUS.UR_CNT -/
def pciSStatusUrCnt : Fld := ⟨.pci, 0x14, 16, 16, .ro, 0x0⟩
def pciSStatusReg : Reg := ⟨.pci, 0x14, 4, 4,
  [pciSStatusSpeed, pciSStatusWidth, pciSStatusReady, pciSStatusUrCnt]⟩

/-! SEC_STATE (Table 14.10) -/

/-- SEC_STATE.OWNED -/
def secStateOwned : Fld := ⟨.sec, 0x0, 0, 1, .ro, 0x0⟩
/-- SEC_STATE.DEBUG -/
def secStateDebug : Fld := ⟨.sec, 0x0, 1, 1, .ro, 0x0⟩
/-- SEC_STATE.RECOVERY -/
def secStateRecovery : Fld := ⟨.sec, 0x0, 2, 1, .ro, 0x0⟩
/-- SEC_STATE.FALLBACK -/
def secStateFallback : Fld := ⟨.sec, 0x0, 3, 1, .ro, 0x0⟩
/-- SEC_STATE.ID_LOW -/
def secStateIdLow : Fld := ⟨.sec, 0x0, 4, 1, .ro, 0x0⟩
/-- SEC_STATE.ID_OUT -/
def secStateIdOut : Fld := ⟨.sec, 0x0, 5, 1, .ro, 0x0⟩
def secStateReg : Reg := ⟨.sec, 0x0, 0, 1,
  [secStateOwned, secStateDebug, secStateRecovery, secStateFallback, secStateIdLow,
   secStateIdOut]⟩

/-! SEC_FW (Table 14.11) -/

/-- SEC_FW.ACTIVE_VER -/
def secFwActiveVer : Fld := ⟨.sec, 0x8, 0, 32, .ro, 0x0⟩
/-- SEC_FW.OTHER_VER -/
def secFwOtherVer : Fld := ⟨.sec, 0x8, 32, 32, .ro, 0x0⟩
def secFwReg : Reg := ⟨.sec, 0x8, 0, 1,
  [secFwActiveVer, secFwOtherVer]⟩

/-! SEC_FW_SEL (Table 14.12) -/

/-- SEC_FW_SEL.SEL -/
def secFwSelSel : Fld := ⟨.sec, 0x10, 0, 1, .ro, 0x0⟩
def secFwSelReg : Reg := ⟨.sec, 0x10, 0, 1,
  [secFwSelSel]⟩

/-! SEC_FLOOR (Table 14.13) -/

/-- SEC_FLOOR.FLOOR -/
def secFloorFloor : Fld := ⟨.sec, 0x14, 0, 32, .pw2, 0x0⟩
def secFloorReg : Reg := ⟨.sec, 0x14, 0, 1,
  [secFloorFloor]⟩

/-! SEC_KEYSTATE (Table 14.14) -/

/-- SEC_KEYSTATE.KEYS_VER -/
def secKeystateKeysVer : Fld := ⟨.sec, 0x18, 0, 16, .ro, 0x0⟩
/-- SEC_KEYSTATE.ID_END -/
def secKeystateIdEnd : Fld := ⟨.sec, 0x18, 16, 41, .ro, 0x0⟩
def secKeystateReg : Reg := ⟨.sec, 0x18, 0, 1,
  [secKeystateKeysVer, secKeystateIdEnd]⟩

/-! SEC_ID_NEXT (Table 14.15) -/

/-- SEC_ID_NEXT.NEXT -/
def secIdNextNext : Fld := ⟨.sec, 0x20, 0, 40, .ro, 0x0⟩
def secIdNextReg : Reg := ⟨.sec, 0x20, 0, 1,
  [secIdNextNext]⟩

/-! SEC_ID_LEFT (Table 14.16) -/

/-- SEC_ID_LEFT.LEFT -/
def secIdLeftLeft : Fld := ⟨.sec, 0x28, 0, 41, .ro, 0x0⟩
def secIdLeftReg : Reg := ⟨.sec, 0x28, 0, 1,
  [secIdLeftLeft]⟩

/-! PRS_STATUS (Table 14.17) -/

/-- PRS_STATUS.RETIRE_SEEN -/
def prsStatusRetireSeen : Fld := ⟨.prs, 0x0, 0, 1, .w1c, 0x0⟩
/-- PRS_STATUS.REFUSED_SEEN -/
def prsStatusRefusedSeen : Fld := ⟨.prs, 0x0, 1, 1, .w1c, 0x0⟩
/-- PRS_STATUS.LOST_SEEN -/
def prsStatusLostSeen : Fld := ⟨.prs, 0x0, 2, 1, .w1c, 0x0⟩
/-- PRS_STATUS.LOWEST -/
def prsStatusLowest : Fld := ⟨.prs, 0x0, 16, 12, .ro, 0x0⟩
def prsStatusReg : Reg := ⟨.prs, 0x0, 0, 1,
  [prsStatusRetireSeen, prsStatusRefusedSeen, prsStatusLostSeen, prsStatusLowest]⟩

/-! PRS_COPY_SEL (Table 14.18) -/

/-- PRS_COPY_SEL.REPAIR -/
def prsCopySelRepair : Fld := ⟨.prs, 0x8, 0, 1, .ro, 0x0⟩
/-- PRS_COPY_SEL.CAL -/
def prsCopySelCal : Fld := ⟨.prs, 0x8, 1, 1, .ro, 0x0⟩
/-- PRS_COPY_SEL.RULES -/
def prsCopySelRules : Fld := ⟨.prs, 0x8, 2, 1, .ro, 0x0⟩
def prsCopySelReg : Reg := ⟨.prs, 0x8, 0, 1,
  [prsCopySelRepair, prsCopySelCal, prsCopySelRules]⟩

/-! PRS_MAP (Table 14.19) -/

/-- PRS_MAP.BLOCK -/
def prsMapBlock : Fld := ⟨.prs, 0x10000, 0, 5, .ro, 0x1f⟩
/-- PRS_MAP.INSTANCE -/
def prsMapInstance : Fld := ⟨.prs, 0x10000, 16, 16, .ro, 0x0⟩
/-- PRS_MAP.OFFSET -/
def prsMapOffset : Fld := ⟨.prs, 0x10000, 32, 32, .ro, 0x0⟩
def prsMapReg : Reg := ⟨.prs, 0x10000, 8, 4096,
  [prsMapBlock, prsMapInstance, prsMapOffset]⟩

/-! PRS_WEAR (Table 14.20) -/

/-- PRS_WEAR.ACTIVE -/
def prsWearActive : Fld := ⟨.prs, 0x20000, 0, 2, .ro, 0x0⟩
/-- PRS_WEAR.LEFT -/
def prsWearLeft : Fld := ⟨.prs, 0x20000, 2, 3, .ro, 0x4⟩
/-- PRS_WEAR.WORN -/
def prsWearWorn : Fld := ⟨.prs, 0x20000, 5, 1, .ro, 0x0⟩
/-- PRS_WEAR.WRITES -/
def prsWearWrites : Fld := ⟨.prs, 0x20000, 32, 32, .ro, 0x0⟩
def prsWearReg : Reg := ⟨.prs, 0x20000, 8, 4096,
  [prsWearActive, prsWearLeft, prsWearWorn, prsWearWrites]⟩

/-! MTR_CFG (Table 15.9) -/

/-- MTR_CFG.WIN_LOG2 -/
def mtrCfgWinLog2 : Fld := ⟨.mtr, 0x0, 0, 5, .pw, 0xc⟩
/-- MTR_CFG.SEAL_MS -/
def mtrCfgSealMs : Fld := ⟨.mtr, 0x0, 16, 16, .pw, 0x3e8⟩
def mtrCfgReg : Reg := ⟨.mtr, 0x0, 0, 1,
  [mtrCfgWinLog2, mtrCfgSealMs]⟩

/-! MTR_STATUS (Table 15.10) -/

/-- MTR_STATUS.SIGN_WAIT -/
def mtrStatusSignWait : Fld := ⟨.mtr, 0x8, 0, 1, .ro, 0x0⟩
/-- MTR_STATUS.LAUNCH_HELD -/
def mtrStatusLaunchHeld : Fld := ⟨.mtr, 0x8, 1, 1, .ro, 0x0⟩
/-- MTR_STATUS.EXTRAP_NOW -/
def mtrStatusExtrapNow : Fld := ⟨.mtr, 0x8, 2, 1, .ro, 0x0⟩
/-- MTR_STATUS.CLOSE_FAIL_SEEN -/
def mtrStatusCloseFailSeen : Fld := ⟨.mtr, 0x8, 3, 1, .w1c, 0x0⟩
/-- MTR_STATUS.GAP_SEEN -/
def mtrStatusGapSeen : Fld := ⟨.mtr, 0x8, 4, 1, .w1c, 0x0⟩
/-- MTR_STATUS.METER_FAIL -/
def mtrStatusMeterFail : Fld := ⟨.mtr, 0x8, 5, 1, .ro, 0x0⟩
/-- MTR_STATUS.STAGED -/
def mtrStatusStaged : Fld := ⟨.mtr, 0x8, 16, 16, .ro, 0x0⟩
def mtrStatusReg : Reg := ⟨.mtr, 0x8, 0, 1,
  [mtrStatusSignWait, mtrStatusLaunchHeld, mtrStatusExtrapNow, mtrStatusCloseFailSeen,
   mtrStatusGapSeen, mtrStatusMeterFail, mtrStatusStaged]⟩

/-! MTR_BATCH (Table 15.11) -/

/-- MTR_BATCH.NEXT_SEQ -/
def mtrBatchNextSeq : Fld := ⟨.mtr, 0x10, 0, 64, .ro, 0x0⟩
def mtrBatchReg : Reg := ⟨.mtr, 0x10, 0, 1,
  [mtrBatchNextSeq]⟩

/-! MTR_WIN (Table 15.12) -/

/-- MTR_WIN.E_IN -/
def mtrWinEIn : Fld := ⟨.mtr, 0x18, 0, 32, .ro, 0x0⟩
/-- MTR_WIN.UNC -/
def mtrWinUnc : Fld := ⟨.mtr, 0x18, 32, 16, .ro, 0x0⟩
/-- MTR_WIN.RHO -/
def mtrWinRho : Fld := ⟨.mtr, 0x18, 48, 16, .ro, 0x0⟩
def mtrWinReg : Reg := ⟨.mtr, 0x18, 0, 1,
  [mtrWinEIn, mtrWinUnc, mtrWinRho]⟩

/-! MOD_RESET (Table 16.7) -/

/-- MOD_RESET.LAST_KIND -/
def modResetLastKind : Fld := ⟨.mod, 0x50, 0, 2, .ro, 0x0⟩
/-- MOD_RESET.CAUSE -/
def modResetCause : Fld := ⟨.mod, 0x50, 8, 8, .ro, 0x0⟩
/-- MOD_RESET.WARM_CNT -/
def modResetWarmCnt : Fld := ⟨.mod, 0x50, 16, 16, .ro, 0x0⟩
def modResetReg : Reg := ⟨.mod, 0x50, 0, 1,
  [modResetLastKind, modResetCause, modResetWarmCnt]⟩

/-! MOD_REST_CFG (Table 16.8) -/

/-- MOD_REST_CFG.TURNS -/
def modRestCfgTurns : Fld := ⟨.mod, 0x58, 0, 32, .pw, 0x1000⟩
def modRestCfgReg : Reg := ⟨.mod, 0x58, 0, 1,
  [modRestCfgTurns]⟩

/-! MOD_REST_STATUS (Table 16.9) -/

/-- MOD_REST_STATUS.IN_REST -/
def modRestStatusInRest : Fld := ⟨.mod, 0x5c, 0, 1, .ro, 0x0⟩
/-- MOD_REST_STATUS.LAST_US -/
def modRestStatusLastUs : Fld := ⟨.mod, 0x5c, 16, 16, .ro, 0x0⟩
def modRestStatusReg : Reg := ⟨.mod, 0x5c, 0, 1,
  [modRestStatusInRest, modRestStatusLastUs]⟩

/-! MOD_GEOM (Table 16.10) -/

/-- MOD_GEOM.GEOM_ID -/
def modGeomGeomId : Fld := ⟨.mod, 0x60, 0, 32, .ro, 0x0⟩
def modGeomReg : Reg := ⟨.mod, 0x60, 0, 1,
  [modGeomGeomId]⟩

/-! MOD_SPARES (Table 16.11) -/

/-- MOD_SPARES.EXHAUSTED -/
def modSparesExhausted : Fld := ⟨.mod, 0x64, 0, 11, .ro, 0x0⟩
def modSparesReg : Reg := ⟨.mod, 0x64, 0, 1,
  [modSparesExhausted]⟩

def regsPart0 : List Reg :=
  [modPwrStatusReg, modPwrInputReg, modClkStepReg, modCradleReg,
   feGaugeReg, feRuleReg, feLadderReg, feLadderCtlReg,
   feLadderStatReg, shfGangReg, klnGangReg, shfPassCntReg,
   shfFeedStallReg, shfInfZeroReg, shfIntSatReg, tileColmapReg]

def regsPart1 : List Reg :=
  [shfWitStatReg, shfWitLastReg, shfWitFailReg, shfWitSkipReg,
   shfAbandonReg, shfSpareMapReg, klnSpareMap0Reg, klnSpareMap1Reg,
   dmaRingBaseReg, dmaRingCtlReg, dmaHeadReg, dmaDoorbellReg,
   dmaStatusReg, dmaBytesReg, stkStatusReg, stkCeCntReg]

def regsPart2 : List Reg :=
  [stkUeReg, stkUeAddrReg, stkDqSpareReg, fluStatusReg,
   fluNearTimeoutReg, fluBarRestartReg, fluRecordUseReg, fluSigValueReg,
   fluSigStateReg, fluBarStateReg, feStatusReg, feFseqReg,
   feSqDoorbellReg, feSqCfgReg, feHringBaseReg, feHringCtlReg]

def regsPart3 : List Reg :=
  [feHringPtrReg, feLedgerReg, feFseqEndReg, whlCfgReg,
   whlCountReg, whlTurnLenReg, whlTurnStartReg, whlPosReg,
   whlStatusReg, whlErrReg, dmpCfgReg, dmpStatusReg,
   dmpCutReg, dmpReleaseReg, dmpReqStatReg, fabStatusReg]

def regsPart4 : List Reg :=
  [fabPlanReg, fabJobReg, fabE2eCntReg, fabHoldReg,
   fabPortStatusReg, fabPortCntReg, fabIncReg, grxStatusReg,
   grxCntReg, grxInstReg, grxGatherReg, sitMbDoorbellReg,
   sitMbStateReg, sitEventReg, sitCoreReg, sitMgmtCfgReg]

def regsPart5 : List Reg :=
  [sitMgmtCntReg, pciHStatusReg, pciSCfgReg, pciSStatusReg,
   secStateReg, secFwReg, secFwSelReg, secFloorReg,
   secKeystateReg, secIdNextReg, secIdLeftReg, prsStatusReg,
   prsCopySelReg, prsMapReg, prsWearReg, mtrCfgReg]

def regsPart6 : List Reg :=
  [mtrStatusReg, mtrBatchReg, mtrWinReg, modResetReg,
   modRestCfgReg, modRestStatusReg, modGeomReg, modSparesReg]

/-- Every register of the manual. -/
def allRegs : List Reg :=
  regsPart0 ++ regsPart1 ++ regsPart2 ++ regsPart3 ++ regsPart4 ++ regsPart5 ++ regsPart6

/-- Instances of a block that exist (R19, Tables 0.1, 7.8, 10.3, 13.2); TILE_ instances are checked by
`tileInstOk`. Log 11 says how instances are numbered. -/
def blockInstances : Block → Nat
  | .tile => 8 * 2 ^ 16 | .shf => 1312 | .kln => 8 | .mod => 1 | .stk => 16 | .dma => 136 | .flu => 1
  | .fe => 1 | .whl => 1 | .dmp => 272 | .fab => 1 | .grx => 1 | .pci => 1 | .sit => 3 | .mtr => 1
  | .sec => 1 | .prs => 1

/-- The blocks by number. -/
def blockOf : Nat → Option Block
  | 0 => some .tile | 1 => some .shf | 2 => some .kln | 3 => some .mod | 4 => some .stk
  | 5 => some .dma | 6 => some .flu | 7 => some .fe | 8 => some .whl | 9 => some .dmp
  | 10 => some .fab | 11 => some .grx | 12 => some .pci | 13 => some .sit | 14 => some .mtr
  | 15 => some .sec | 16 => some .prs | _ => none

/-- A TILE_ instance is kiln × 2^16 + built shelf × 2^8 + row × 2^4 + column (log 11). -/
def tileInst (t : TileId) : Nat := t.kiln * 2 ^ 16 + t.shelf * 2 ^ 8 + t.row * 2 ^ 4 + t.col

def tileInstOk (i : Nat) : Bool :=
  i / 2 ^ 16 < 8 && i / 2 ^ 8 % 2 ^ 8 < 164 && i % 16 < 8 &&
    (i / 16 % 16 < 8 || (i / 16 % 16 == 8 && i % 16 < 4))

/-- The register that covers an offset, with its entry. -/
def findReg (b : Block) (off : Nat) : Option (Reg × Nat) :=
  allRegs.findSome? fun r =>
    if r.block = b ∧ r.off ≤ off then
      let d := off - r.off
      if r.stride = 0 then (if d = 0 then some (r, 0) else none)
      else if d % r.stride = 0 ∧ d / r.stride < r.count then some (r, d / r.stride) else none
    else none

end Sys2Proof.Machine
end

