-- ==== Sys2Proof/Machine/State.lean ====
section
/-! DEFINITION. Machine/State.lean: the state of one module as plain data, its reset value, and the
reasons a step can stop. Descriptors, table entries and submission slots are kept as the numbers the
manual's bit tables describe; Machine/Operands.lean names their fields. -/

namespace Sys2Proof.Machine

/-- A run of bytes whose contents the manual leaves undefined, with the stamp of the free values that
stand for them (R97, R170, R197, R258). -/
structure Extent where
  start : Nat
  len : Nat
  stamp : Nat
  deriving DecidableEq, Repr

/-- One address space: listed bytes in rising address order, and the undefined extents, newest first. -/
structure Memory where
  cells : List Host.Cell
  undef : List Extent
  deriving DecidableEq, Repr

/-- The six spaces of Table 7.1 that this module holds (`host`: what the module wrote to host memory),
the lines a channel's code cannot correct (R178), the stripes whose parity awaits a recomputation
(R178 step 4); for each rebuilding stack the stripe that the rebuild has reached, and the stripes beyond it
whose failed line a write has put into channel 16 (R180). -/
structure Spaces where
  tile : Memory
  scratch : Memory
  const : Memory
  stack : Memory
  host : Memory
  badLines : List Nat
  staleParity : List Nat
  reached : Tab Nat
  rebuilt : Tab (List Nat)
  deriving DecidableEq, Repr

/-- Power, clock, cooling and cradle state (spec/01). `seq` is the cause of the power-fail sequence in
progress: 1 PWR_FAIL_N, 2 undervoltage, 3 overvoltage, 4 thermal trip; `seqLive` that it began in normal
service or a warm reset and no module fault has met it; `thermStep`, `inletStep`, `lowVStep` and `drawStep`
the steps that the junctions, the inlet, a low input and the draw ask for; `tap` the test instruction that
is served (R40). -/
structure Power where
  input : Bool
  seq : Option Nat
  seqLive : Bool
  below53 : Bool
  pwrFailN : Bool
  perstN : Bool
  trstN : Bool
  throttled : Bool
  thermStep : Nat
  inletStep : Nat
  lowVStep : Nat
  drawStep : Nat
  phasesLost : Tab Nat
  cradle : Option CradleId
  faults : List Code
  tap : Option JtagInstr
  deriving DecidableEq, Repr

/-- A coordinate record of Table 4.4 for one flag bit of Table 4.3. -/
structure Coord where
  flag : Nat
  op : Nat
  elem : Nat
  src : Nat
  k : Nat
  pass : Nat
  kiln : Nat
  shelf : Nat
  trow : Nat
  tcol : Nat
  col : Nat
  row : Nat
  count : Nat
  deriving DecidableEq, Repr

/-- The arithmetic block in the making (R128): flag word, operations flagged, first occurrences. -/
structure Arith where
  flags : Nat
  ops : List Nat
  coords : List Coord
  deriving DecidableEq, Repr

/-- One gauge (Table 2.12). -/
structure Gauge where
  amax : Nat
  sat : Nat
  nan : Nat
  zero : Nat
  elem : Nat
  deriving DecidableEq, Repr

/-- A cell (R84): the active and the shadow stationary register, each an element with its two-of-four
nibble, the active and the draining accumulator, the chunk register and the index register. -/
structure ArrayCell where
  active : Val × Nat
  shadow : Val × Nat
  acc : Idx
  draining : Idx
  chunk : Val
  index : Nat
  deriving DecidableEq, Repr

/-- A pass in flight (R97): the firing, the observer that issued it, its place in the work list, the
descriptor of Table 3.9 as bound at launch, its runs that failed the witness in a row, and whether it
waits to be run again from its start; the stationary elements that its vectors have met once the cells
have gone on to later passes of its chain (R96), by 2,048 × row + column; and in OS what its window
held before it streamed (R170). -/
structure Pass where
  id : Nat
  fseq : Nat
  observer : Nat
  index : Nat
  word : Nat
  failedRuns : Nat
  stopped : Bool
  met : Tab (Val × Nat)
  under : List (Nat × Bytes)
  deriving DecidableEq, Repr

/-- A transfer that a descriptor is split into (R282): the damper it passes, its size in units of Table 10.3,
whether it is an ACCUM and whether it is a read. -/
structure Move where
  damper : Nat
  units : Nat
  accum : Bool
  isRead : Bool
  deriving DecidableEq, Repr

/-- A descriptor an engine holds (R184): its number at the engine, its words, its firing (none for Sitter
work), its place in the firing's work list (none for a memory ring), the issue index of its increment (R223);
whether it has started, whether its WAIT_COPY waits on its signal and whether the signal file has released it
(R219), whether its read is held; the packets already sent to another module, whether its bytes are in place so
that its pulse alone is owed (R192); what it read when it started, the offsets of its index table and its
source bytes; and the transfers that it has yet to issue to dampers of this module (R282). -/
structure HeldDesc where
  serial : Nat
  word : Nat
  fseq : Option Nat
  index : Option Nat
  issue : Nat
  started : Bool
  waiting : Bool
  met : Bool
  readHeld : Bool
  sent : Nat
  placed : Bool
  offs : List Nat
  src : Bytes
  todo : List Move
  deriving DecidableEq, Repr

/-- A DMA engine (R183-R199): descriptors held in ring order, whether it reads its ring (false after it
read OWN = 0, R184), whether ENABLE falls once the held descriptors complete, and how many descriptors
it has fetched. -/
structure Engine where
  held : List HeldDesc
  awake : Bool
  stopAfter : Bool
  fetched : Nat
  deriving DecidableEq, Repr

/-- A registered wait (R219-R222); a WAIT_COPY of Sitter work belongs to no firing. -/
structure Wait where
  observer : Nat
  fseq : Option Nat
  sig : Nat
  consuming : Bool
  value : Nat
  tick : Nat
  timeout : Nat
  opIndex : Nat
  deriving DecidableEq, Repr

/-- A record-table entry (R223). -/
structure RecKey where
  src : Nat
  observer : Nat
  fseq : Nat
  index : Nat
  deriving DecidableEq, Repr

/-- A barrier group in force (R227-R230): the firing that holds it, the mask, the open generation, the
observers arrived, each observer's latest arrival, the waiters (observer and generation) and second
arrivals held. -/
structure Barrier where
  fseq : Nat
  mask : Nat
  gen : Nat
  arrived : List Nat
  latest : List (Nat × Nat)
  waiting : List (Nat × Nat)
  second : List Nat
  deriving DecidableEq, Repr

/-- Increments of one signal that reach it in a ctl cycle still open (R217): their sum so far and the firings that
issued them (R218). -/
structure Opening where
  sum : Nat
  issuers : List Nat
  deriving DecidableEq, Repr

/-- The flue's signal file (spec/08); signal values are the FLU_SIG_VALUE fields. `opened` holds the sums of the ctl
cycle in progress by signal, `sitter` the Sitter's sync operations that wait: an arrival held for the next
generation (marked true), and those behind it (R230). -/
structure Flue where
  waits : List Wait
  records : List RecKey
  bars : Tab Barrier
  opened : Tab Opening
  sitter : List (Origin × SitSync × Bool)
  deriving DecidableEq, Repr

/-- A graph resident under a number (R240-R245), section by section as loaded; `buckets`, `joinBase`
and `joinSlots` are taken once, at graph.store (R324). -/
structure Graph where
  header : Nat
  base : Nat
  work : List (Nat × List Nat)
  regions : List Nat
  params : List Nat
  signals : List Nat
  barriers : List Nat
  rules : List Nat
  bindings : List Nat
  claim : Nat
  slots : List Nat
  layouts : List Nat
  pblock : Bytes
  buckets : List Nat
  joinBase : Nat
  joinSlots : Nat
  deriving DecidableEq, Repr

/-- A firing's snapshot (R245): parameter block, ladder words by slot, epoch, current copies. -/
structure Snap where
  pblock : Bytes
  ladder : Tab Nat
  epoch : Nat
  cur : Tab Nat
  deriving DecidableEq, Repr

/-- How far a work-list slot is. -/
inductive ItemSt
  | waiting | running | done
  deriving DecidableEq, Repr

/-- The states of Table 9.1 between acceptance and end: accepted, running, faulted and waiting to be
replayed, switched out, end record being written. -/
inductive FirSt
  | accepted | running | faulted | switched | committing | abandoning
  deriving DecidableEq, Repr

/-- What a context switch saves beside memory (R232-R234): LOCAL values, waits in order, withdrawn
descriptors by engine, arrivals by barrier group, and the saved bytes of slices, tile registers,
commons and constant stores. -/
structure Context where
  locals : Tab Nat
  waits : List Wait
  withdrawn : List (Nat × List HeldDesc)
  arrivals : List (Nat × List Nat)
  scratch : Memory
  tile : Memory
  const : Memory
  deriving DecidableEq, Repr

/-- A firing accepted and not yet ended (R236-R261). `word` is its slot as accepted, `joinSent` how many
join records it has written (R339). `counts` counts the F- codes that are replayed a
limited number of times; `lines` are the lines of earlier F-140s; `notBefore` a turn and `heldFor` a
destination that hold a replay; `copyWait` says that R259 has held its launch; `merged` holds the job-wide
gauges that its commit waited for (R81); `retire` the flows that carry its FABRIC increments. -/
structure Firing where
  fseq : Nat
  fslot : Nat
  graph : Nat
  queue : Nat
  slot : Nat
  word : Nat
  st : FirSt
  logged : Bool
  tickAccept : Nat
  tickEnd : Nat
  attempts : Nat
  code : Nat
  snap : Option Snap
  claimHeld : Bool
  granted : List Nat
  joinSent : Nat
  work : List (Nat × List (Nat × ItemSt))
  arith : Arith
  gauges : Tab Gauge
  issued : Tab Nat
  retire : List (Nat × Nat)
  copyWait : Bool
  merged : Tab Gauge
  counts : Tab Nat
  lines : List Nat
  notBefore : Option Nat
  heldFor : Option Nat
  ctx : Option Context
  deriving DecidableEq, Repr

/-- An acceptance log record (Table 9.10) at its ring position; `acked` that the retire notice sent
after an ACTION_DONE has been acknowledged (R263). -/
structure LogRec where
  pos : Nat
  kind : Nat
  fslot : Nat
  fseq : Nat
  graph : Nat
  queue : Nat
  lseq : Nat
  account : Nat
  result : Nat
  attempts : Nat
  tick : Nat
  ctag : Nat
  cplKind : Nat
  cplAbandon : Bool
  cplSig : Nat
  cplMod : Nat
  cplVal : Nat
  cplAddr : Nat
  acked : Bool
  deriving DecidableEq, Repr

/-- A completion record (Table 9.11). -/
structure CplRec where
  outcome : Nat
  rebuilt : Bool
  code : Nat
  fseq : Nat
  lseq : Nat
  graph : Nat
  queue : Nat
  attempts : Nat
  account : Nat
  ctag : Nat
  tickAccept : Nat
  tickEnd : Nat
  epoch : Nat
  arith : Arith
  deriving DecidableEq, Repr

/-- A completion action to perform (R248); `performed` once it has been sent, applied or written. -/
structure Action where
  fseq : Nat
  kind : Nat
  sig : Nat
  mod : Nat
  val : Nat
  addr : Nat
  performed : Bool
  deriving DecidableEq, Repr

/-- A queue's turn on its claim (R250): the count its slice began at, the claim it released last with the
number of that release, and the firings whose parts its slice's end has offered to another queue. -/
structure QTurn where
  start : Nat
  claim : Nat
  release : Nat
  leaving : List Nat
  deriving DecidableEq, Repr

/-- The front end (spec/09). `log` holds the records landed, `writing` those being written, oldest
first; `nextPos` the next ring position; `woken` the queues whose doorbell waits; `turns` the queues' slices, `releases` how many claims
have been released, `grants` the operations whose grant is held (firing, OP_INDEX), `rebuilt` the records that
wait for room in the ledger (R268), `asked` the slots that firing.launch wrote with the mailbox to answer. -/
structure FrontEnd where
  graphs : Tab Graph
  cur : Tab Nat
  slots : Tab Nat
  woken : List Nat
  firings : List Firing
  log : List LogRec
  writing : List LogRec
  nextPos : Nat
  ledger : List CplRec
  nextLseq : Nat
  copying : Option CplRec
  sinceCursor : Nat
  actions : List Action
  turns : Tab QTurn
  releases : Nat
  grants : List (Nat × Nat)
  rebuilt : List CplRec
  asked : List (Nat × Nat × Origin)
  deriving DecidableEq, Repr

/-- The wheel (spec/10). `lost` lists the lost copies: 0 WHEEL_REF A0, 1 TURN A0, 2 WHEEL_REF A2,
3 TURN A2; `mode` the mode in force; `missed` marks missed in a row on the parent port; `good` the count
from which the error has stayed within 10 ns; `step` the corrected mark to step to with the count at
which it arrived (R279); `firstMark` that the first turn is fixed (R431); `steps` the power steps
pending; `marks` the marks sent, by port. -/
structure Wheel where
  running : Bool
  mode : Nat
  lost : List Nat
  pendLen : Option (Nat × Nat)
  missed : Nat
  good : Option Nat
  step : Option (Nat × Mark)
  firstMark : Bool
  steps : List (Nat × Nat × Nat)
  marks : List (Nat × Mark)
  deriving DecidableEq, Repr

/-- A packet the source holds until it is acknowledged (R316), with its firing, the engine and the number
of the descriptor it carries (if any), and whether it is a completion increment (R248). -/
structure HeldPkt where
  p : Packet
  fseq : Option Nat
  engine : Option Nat
  serial : Nat
  action : Bool
  deriving DecidableEq, Repr

/-- A transfer waiting at a damper with its arrival stamp (R286, R288); `since` is when it last began to wait,
`counted` whether a wait of it is counted that no restart has taken the place of (R293), `granted` whether it has
been granted before. A packet that is to leave by a fabric port, or that waits for a channel, is with its transfer;
`numbered` is whether it has its end-to-end number (R315). -/
structure Waiting where
  t : Transfer
  stamp : Nat
  since : Nat
  sched : Bool
  counted : Bool
  granted : Bool
  pkt : Option HeldPkt
  numbered : Bool
  deriving DecidableEq, Repr

/-- A damper (R282-R293): transfers waiting, the transfer that holds the resource with its grant
count, the count at which the unit that a stopped transfer had begun is finished, the slot entry of the open window
with the counts at which it opened and closes, hints (requester, count, slot entry of the blocking window) and held
requesters. -/
structure Damper where
  waiting : List Waiting
  holder : Option (Waiting × Nat)
  freeAt : Nat
  window : Option Nat
  opened : Nat
  closes : Nat
  hints : List (Nat × Nat × Nat)
  held : List Nat
  deriving DecidableEq, Repr

/-- What a port's replay buffer holds flits of (R297, R298): a whole packet, a packet that was cut short, an idle flit
(one that carries a NAK), or the abort flit of a virtual lane. -/
inductive Sent
  | packet (h : HeldPkt)
  | cut (h : HeldPkt)
  | idle
  | abort (vl : Nat)
  deriving DecidableEq, Repr

/-- A fabric port (R296-R304): lanes failed, spares among them; lost-lock retrains in a row and whether the link
retrains; the last fingerprint seen, whether this training has met a good identity frame and has finished its steps;
whether this end has declared its link down (R310); the next flit number expected and the next one to send, the last
one acknowledged, what the link has not acknowledged (first flit, flits, what they carry), and bytes of packets
received in part by virtual lane. -/
structure Port where
  failed : List Nat
  stage : Nat
  retraining : Bool
  fpr : Option Nat
  identOk : Bool
  trained : Bool
  down : Bool
  rxSeq : Nat
  txSeq : Nat
  acked : Nat
  buffer : List (Nat × Nat × Sent)
  partials : Tab Bytes
  deriving DecidableEq, Repr

/-- Sequence state toward one destination (R315-R319). -/
structure SrcSeq where
  next : Nat
  held : List HeldPkt
  since : Nat
  deriving DecidableEq, Repr

/-- Sequence state from one source (R315, R319): the number expected, the source's INC, and the wheel
count of the last NAK. -/
structure DstSeq where
  exp : Nat
  inc : Nat
  nakAt : Option Nat
  deriving DecidableEq, Repr

/-- The fabric (spec/11): the plan's bytes (none loaded when empty), the link-state table as pairs of
link key and (version, up), notices waiting for their switch turn, ports, sequence state, flits sent on a port,
and packets refused for a full record table that are sent again at the next turn (R318), link-state notices and
identity frames sent on a port, packets that the damper of a channel has let through, and how many packets it has
refused (R211). -/
structure Fabric where
  plan : Bytes
  links : Tab (Nat × Bool)
  notices : List Notice
  ports : Tab Port
  src : Tab SrcSeq
  dst : Tab DstSeq
  sent : List (Nat × Bytes)
  again : List (Nat × HeldPkt)
  floods : List (Nat × Notice)
  frames : List (Nat × IdFrame)
  inbox : List (Nat × Packet)
  refusals : Nat
  deriving DecidableEq, Repr

/-- A bucket slot (Table 12.2) with its graph. -/
structure Bucket where
  graph : Nat
  param : Nat
  mode : Nat
  fmt : Nat
  elems : Nat
  racc : Nat
  stage : Nat
  deriving DecidableEq, Repr

/-- Gradient exchange (spec/12): bucket slots by number; watermarks keyed by (slot, instance, rank) and by
(slot, copy, owner); GRX_INST fields hold the instances. -/
structure Grx where
  slots : Tab Bucket
  marks : Tab Nat
  pmarks : Tab Nat
  deriving DecidableEq, Repr

/-- A function of port H (R345, R347): Bus Master Enable, D3hot. -/
structure Fn where
  bme : Bool
  d3hot : Bool
  deriving DecidableEq, Repr

/-- A storage command waiting for its drive (R353): `holds` is the copy of a region or parameter that its
read keeps from being written. -/
structure NvmeCmd where
  o : Origin
  link : Nat
  ns : Nat
  lba : Nat
  write : Bool
  addr : Nat
  bytes : Nat
  flushing : Bool
  crc : Nat
  holds : Option (Nat × Nat)
  deriving DecidableEq, Repr

/-- Ports H and S (spec/13). -/
structure Pci where
  fns : List Fn
  inReset : List Nat
  hFailed : List Nat
  split : Nat
  sUp : List Nat
  sFailed : List Nat
  nvme : List NvmeCmd
  deriving DecidableEq, Repr

/-- A reply (Table 13.6); the payload as numbers. -/
structure Reply where
  seq : Nat
  tag : Nat
  status : Code
  restarted : Bool
  payload : List Nat
  deriving DecidableEq, Repr

/-- A mailbox (R359): 0 IDLE, 1 RUNNING, 2 DONE; the request taken, the last reply, the latest large
reply (R378), and whether the running command has crossed a Sitter restart (R357). -/
structure Box where
  st : Nat
  req : MbReq
  reply : Option Reply
  large : Bytes
  crossed : Bool
  deriving DecidableEq, Repr

/-- A pending event of one destination (R361). -/
structure PEvent where
  code : Code
  count : Nat
  params : List Nat
  deriving DecidableEq, Repr

/-- The Sitter (spec/13): mailboxes (8 × function + number, bus peers from 24 + SCI), pending events by
destination (functions 0-2, bus peers from 3 + SCI), MSI-X vectors raised, doorbells latched while it
restarts, the frames it has sent on the bus (peer's SCI, payload), what the restart in progress
follows: 0 a mismatch or a lost heartbeat, 1 a command, 2 a module reset; and the pieces of work given to the
port-die engines since cold reset: the stamp of the free choice of an engine, and the bytes moved (R183); the counts
from which what has a rate limit may be raised again, and the vectors that are owed (R361, log 100). -/
structure Sitter where
  boxes : Tab Box
  events : Tab (List PEvent)
  vectors : List (Nat × Nat)
  latched : List (Origin × MbReq)
  busOut : List (Nat × List Nat)
  restartCause : Nat
  pieces : List (Nat × Nat)
  nextAt : Tab Nat
  owed : List Nat
  deriving DecidableEq, Repr

/-- A management-bus peer (R364, R384): SCI, SSCI, salt, key, rights, association number. -/
structure Peer where
  sci : Nat
  ssci : Nat
  salt : Nat
  sak : Nat
  rights : Nat
  an : Nat
  deriving DecidableEq, Repr

/-- The management bus: secure associations, the next packet number of each (by its place in the list),
the latest time pair (TAI, wheel count), CSMA/CD in use. -/
structure Mgmt where
  peers : List Peer
  seen : Tab Nat
  time : Option (Nat × Nat)
  csma : Bool
  deriving DecidableEq, Repr

/-- A live nonce (R379): the destination it was issued to, its value, its decapsulation key. -/
structure Nonce where
  dest : Nat
  value : Nat
  dk : Nat
  deriving DecidableEq, Repr

/-- A copy of the keys region (R393): KEYS_VER, which identity key it holds (how many rotations have
made it, R387), owner and auditor keys, management keys. -/
structure Keys where
  ver : Nat
  idKey : Nat
  owner : Bytes
  auditor : Bytes
  mgmt : List Peer
  deriving DecidableEq, Repr

/-- A firmware copy (R373, R375). -/
structure FwCopy where
  valid : Bool
  version : Nat
  digest : Nat
  deriving DecidableEq, Repr

/-- Keys, signatures and firmware (spec/14). -/
structure Sec where
  nonces : List Nonce
  keys : Keys
  oldKeys : Keys
  fw : List FwCopy
  fwBytes : List Bytes
  running : Nat
  queue : List SignItem
  rotation : Bytes
  deriving DecidableEq, Repr

/-- A valid cell of a persistent register slot (Table 14.7). -/
structure Cell where
  value : Nat
  count : Nat
  deriving DecidableEq, Repr

/-- The persistent registers (R388-R392): cells by 2 × (4r + slot) + cell, and the rate bucket of each
register (writes left, wheel count of the last refill). -/
structure Prs where
  cells : Tab (Option Cell)
  tokens : Tab (Nat × Nat)
  deriving DecidableEq, Repr

/-- One record of the batch in progress (R405-R408), energies in nJ; `first` and `last` are the bounds of the
windows in which it drew energy. -/
structure ERec where
  kind : Nat
  fseq : Nat
  account : Nat
  ctag : Nat
  graph : Nat
  queue : Nat
  attempts : Nat
  code : Nat
  flags : Nat
  unc : Nat
  eKiln : Nat
  eMem : Nat
  ePort : Nat
  eShared : Nat
  first : Nat
  last : Nat
  deriving DecidableEq, Repr

/-- A sealed batch in staging (R409-R411). -/
structure Staged where
  seq : Nat
  header : Bytes
  records : List Bytes
  signature : Option Bytes
  ein : Nat
  flags : Nat
  deriving DecidableEq, Repr

/-- The meter (spec/15): copies of the calibration and of the rule table, the window and batch in
progress, staging, running totals per firing in µJ, the digest of the newest header. `calNow` and
`rulesNow` are the tables in force (R403); an empty table stands for the factory's. `failedIn` that the
input chain has failed in this window, `pfClosed` that the power-fail sequence has closed its window. -/
structure Meter where
  cal : List Bytes
  rules : List Bytes
  calNow : Bytes
  rulesNow : Bytes
  inputOk : Bool
  winStart : Nat
  batchStart : Nat
  windows : Nat
  ein : Nat
  resid : Int
  uncMax : Nat
  flags : Nat
  recs : List ERec
  ended : List (Nat × Nat)
  sealAsked : Bool
  closeFailPosted : Bool
  winLog2 : Nat
  staging : List Staged
  prevDigest : Nat
  totals : Tab Nat
  gap : Bool
  failedIn : Bool
  pfClosed : Bool
  deriving DecidableEq, Repr

/-- A repair event (R423): kind, unit, wheel count, turn. -/
structure RepEvent where
  kind : Nat
  unit : Nat
  count : Nat
  turn : Nat
  deriving DecidableEq, Repr

/-- The repair map beside the register fields that show it (R154, R167, R394, R424, R426), and the
work flagged for the next rest point (Table 16.4). -/
structure Repair where
  outShelves : List (Nat × Nat)
  outTiles : List (Nat × Nat × Nat)
  narrowTiles : List (Nat × Nat × Nat)
  lostKilns : List Nat
  lostStacks : List Nat
  chanFailed : Tab Nat
  dqFlagged : List (Nat × Nat)
  rowsFlagged : List (Nat × Nat)
  rowsUsed : Tab Nat
  colsFlagged : List (TileId × Nat)
  exhausted : List (Nat × Nat)
  events : List RepEvent
  commits : Nat
  coresRetired : List Nat
  deriving DecidableEq, Repr

/-- Where the module stands (R417): off, in normal service, in recovery (R374), stopped with a restart by
Table 16.2 to come, or in a warm reset whose rest point is to come (R419); `code` is the F- code of the
firings that had not ended (R268), 0 while it is not yet settled. -/
inductive Phase
  | off (code : Nat) | service | recovery (code : Nat) | down (code : Nat) | warm
  deriving DecidableEq, Repr

/-- One of the two copies of the repair map in the non-volatile array (R41, R394): the register fields and
the lists that it keeps. -/
structure MapCopy where
  regs : Tab Nat
  rep : Repair
  deriving DecidableEq, Repr

/-- Start-up and service (spec/16): the phase, the cause of the restart to come, whether a rest point waits for
firings, and the turn of the last one. -/
structure Service where
  phase : Phase
  causeNext : Nat
  resting : Bool
  lastRestTurn : Nat
  deriving DecidableEq, Repr

/-- The state of the module. `pending` is the queue of commands, `fresh` counts free values, `regs`
holds the register fields by `Fld.key`; a field not listed holds its reset value. `maps` holds the copies
of the repair map, `cells` the cells of the tiles by `State.cellKey`. -/
structure State where
  pending : List Instr
  fresh : Nat
  regs : Tab Nat
  power : Power
  mem : Spaces
  passes : List Pass
  nextPass : Nat
  cells : Tab ArrayCell
  engines : Tab Engine
  flue : Flue
  fe : FrontEnd
  wheel : Wheel
  dampers : Tab Damper
  fab : Fabric
  grx : Grx
  pci : Pci
  sit : Sitter
  mgmt : Mgmt
  sec : Sec
  prs : Prs
  meter : Meter
  rep : Repair
  maps : List MapCopy
  svc : Service
  deriving DecidableEq, Repr

/-- Why a step stops with a fault. -/
inductive Fault
  /-- The command names a unit or an address that the manual does not give the module (an engine
  above 135, a queue above 63, a stack address above 2^40 - 1). Raised by the range check of the
  meanings that name a unit. Safe: no claim about an existing unit meets it. -/
  | noSuchUnit
  deriving DecidableEq, Repr

/-- Why a step is refused. -/
inductive Refusal
  /-- No meaning is written for the command. Raised only by an arm of `exec`. Safe. -/
  | notModelled (mnemonic : String)
  deriving DecidableEq, Repr

def Memory.empty : Memory := ⟨[], []⟩

def Arith.empty : Arith := ⟨0, [], []⟩

def noReq : MbReq := ⟨0, 0, 0, false, 0⟩

def Repair.empty : Repair := ⟨[], [], [], [], [], [], [], [], [], [], [], [], 0, []⟩

/-- The module as it leaves the factory with no input power: every register at its reset value, the
non-volatile array never written. POWER_UP brings it into service. Log 3 and log 7. -/
def State.reset : State where
  pending := []
  fresh := 0
  regs := []
  power := ⟨false, none, false, false, true, true, true, false, 0, 0, 0, 0, [], none, [], none⟩
  mem := ⟨.empty, .empty, .empty, .empty, .empty, [], [], [], []⟩
  passes := []
  nextPass := 0
  cells := []
  engines := []
  flue := ⟨[], [], [], [], []⟩
  fe := ⟨[], [], [], [], [], [], [], 0, [], 0, none, 0, [], [], 0, [], [], []⟩
  wheel := ⟨false, 0, [], none, 0, none, none, false, [], []⟩
  dampers := []
  fab := ⟨[], [], [], [], [], [], [], [], [], [], [], 0⟩
  grx := ⟨[], [], []⟩
  pci := ⟨[⟨false, false⟩, ⟨false, false⟩, ⟨false, false⟩], [], [], 0, [], [], []⟩
  sit := ⟨[], [], [], [], [], 0, [], [], []⟩
  mgmt := ⟨[], [], none, false⟩
  sec := ⟨[], ⟨0, 0, [], [], []⟩, ⟨0, 0, [], [], []⟩, [⟨true, 0, 0⟩, ⟨false, 0, 0⟩], [[], []], 0, [], []⟩
  prs := ⟨[], []⟩
  meter := ⟨[[], []], [[], []], [], [], true, 0, 0, 0, 0, 0, 0, 0, [], [], false, false, 12, [], 0, [],
    false, false, false⟩
  rep := .empty
  maps := [⟨[], .empty⟩, ⟨[], .empty⟩]
  svc := ⟨.off 162, 0, false, 0⟩

end Sys2Proof.Machine
end

