-- ==== Sys2Proof/Machine/Ops.lean ====
section
/-! DEFINITION. Machine/Ops.lean: the named operations over numbers, tables, memories, registers,
events and firings that the meanings are built from. -/

namespace Sys2Proof.Machine

/-- What one command answers. -/
abbrev Out := Host.Outcome State Fault Refusal

/-- A command that names a unit acts only when the unit exists. -/
def onUnit (exists? : Bool) (k : Out) : Out := if exists? then k else .fault .noSuchUnit

/-! ### Numbers -/

/-- Bits lo to lo + w - 1 of x. -/
def bits (x lo w : Nat) : Nat := x / 2 ^ lo % 2 ^ w

/-- Bit i of x. -/
def bit (x i : Nat) : Bool := x / 2 ^ i % 2 == 1

def b2n (b : Bool) : Nat := if b then 1 else 0

/-- A w-bit two's complement number. -/
def signed (w x : Nat) : Int := if x % 2 ^ w < 2 ^ (w - 1) then (x % 2 ^ w : Nat) else (x % 2 ^ w : Nat) - (2 ^ w : Nat)

def unsigned (w : Nat) (x : Int) : Nat := (x % (2 ^ w : Nat)).toNat

def ceilDiv (a b : Nat) : Nat := (a + b - 1) / b

/-- A byte string as a little-endian number (R14). -/
def leNat : Bytes → Nat
  | [] => 0
  | b :: r => b.toNat + 256 * leNat r

/-- A number as n little-endian bytes (R14). -/
def natLe : Nat → Nat → Bytes
  | 0, _ => []
  | n + 1, v => BitVec.ofNat 8 v :: natLe n (v / 256)

/-- A number as n big-endian bytes. -/
def natBe (n v : Nat) : Bytes := (natLe n v).reverse

/-- Bytes off to off + n - 1 of a byte string, as a number. -/
def field (b : Bytes) (off n : Nat) : Nat := leNat ((b.drop off).take n)

/-! ### Tables -/

/-- The value at key k, or the default. -/
def tget {α : Type} (d : α) : Tab α → Nat → α
  | [], _ => d
  | p :: r, k => if p.1 = k then p.2 else tget d r k

/-- Put a pair into a table in key order, replacing the key's pair. -/
def tput {α : Type} : Tab α → Nat → α → Tab α
  | [], k, v => [(k, v)]
  | p :: r, k, v => if k < p.1 then (k, v) :: p :: r else if k = p.1 then (k, v) :: r else p :: tput r k v

/-- Take a key out of a table. -/
def tdel {α : Type} (t : Tab α) (k : Nat) : Tab α := t.filter fun p => decide (p.1 ≠ k)

/-- Set the value at key k; the default is not listed. -/
def tset {α : Type} [DecidableEq α] (d : α) (t : Tab α) (k : Nat) (v : α) : Tab α :=
  if v = d then tdel t k else tput t k v

/-- Keys strictly rise. -/
def tsorted {α : Type} : Tab α → Bool
  | [] => true
  | [_] => true
  | p :: q :: r => decide (p.1 < q.1) && tsorted (q :: r)

/-- The first element that a predicate accepts is replaced. -/
def updFirst {α : Type} (p : α → Bool) (f : α → α) : List α → List α
  | [] => []
  | x :: r => if p x then f x :: r else x :: updFirst p f r

/-- List membership test for numbers. -/
def has (l : List Nat) (n : Nat) : Bool := l.any (· == n)

/-- Add a number to a list without repeats. -/
def addNew (l : List Nat) (n : Nat) : List Nat := if has l n then l else l ++ [n]

/-! ### Memory -/

def Extent.covers (e : Extent) (a : Nat) : Bool := decide (e.start ≤ a) && decide (a < e.start + e.len)

/-- What an unlisted address reads as: a free byte inside an undefined extent, else 0 (log 4, log 5). -/
def mbackground (m : Memory) (a : Nat) : Byte :=
  match m.undef.find? (·.covers a) with
  | some e => Config.freeByte e.stamp a
  | none => 0

def mundef (m : Memory) (a : Nat) : Bool := m.undef.any (·.covers a)

def mlookup : List Host.Cell → Nat → Option Byte
  | [], _ => none
  | p :: r, a => if p.1 = a then some p.2 else mlookup r a

/-- Read one byte. -/
def mread (m : Memory) (a : Nat) : Byte := (mlookup m.cells a).getD (mbackground m a)

/-- Write one byte; outside undefined extents a 0 is not listed. -/
def mwrite (m : Memory) (a : Nat) (b : Byte) : Memory :=
  { m with cells := if b = 0 ∧ mundef m a = false then tdel m.cells a else tput m.cells a b }

def mreadN (m : Memory) (a : Nat) : Nat → Bytes
  | 0 => []
  | n + 1 => mread m a :: mreadN m (a + 1) n

def mwriteN (m : Memory) (a : Nat) : Bytes → Memory
  | [] => m
  | b :: r => mwriteN (mwrite m a b) (a + 1) r

/-- Make a run of bytes undefined, with a new stamp. -/
def mforget (m : Memory) (start len stamp : Nat) : Memory :=
  { cells := m.cells.filter fun p => !(Extent.mk start len stamp).covers p.1
    undef := ⟨start, len, stamp⟩ ::
      m.undef.filter fun e => !(decide (start ≤ e.start) && decide (e.start + e.len ≤ start + len)) }

/-- Make a run of bytes read as 0. -/
def mclear (m : Memory) (start len : Nat) : Memory :=
  { cells := m.cells.filter fun p => !(Extent.mk start len 0).covers p.1
    undef := m.undef.flatMap fun e =>
      (if e.start < start then [⟨e.start, min e.len (start - e.start), e.stamp⟩] else []) ++
      (if start + len < e.start + e.len then
        [⟨max e.start (start + len), e.start + e.len - max e.start (start + len), e.stamp⟩] else []) }

/-- The canonical form: keys strictly rise, and a listed 0 lies in an undefined extent. -/
def Memory.wf (m : Memory) : Bool :=
  tsorted m.cells && m.cells.all fun p => decide (p.2 ≠ 0) || mundef m p.1

/-! ### Registers -/

/-- The value of a stored register field. -/
def State.rd (s : State) (f : Fld) (i : Nat) : Nat := tget f.reset s.regs (f.key i)

/-- Write a register field, cut to its width. -/
def State.wr (s : State) (f : Fld) (i v : Nat) : State :=
  { s with regs := tset f.reset s.regs (f.key i) (v % 2 ^ f.width) }

/-- Add to a counter that saturates. -/
def State.satAdd (s : State) (f : Fld) (i n : Nat) : State :=
  s.wr f i (min (s.rd f i + n) (2 ^ f.width - 1))

/-- Add to a counter that wraps. -/
def State.wrapAdd (s : State) (f : Fld) (i n : Nat) : State := s.wr f i (s.rd f i + n)

/-- Set a one-bit field. -/
def State.setBit (s : State) (f : Fld) (i : Nat) : State := s.wr f i 1

def State.on (s : State) (f : Fld) (i : Nat) : Bool := s.rd f i == 1

/-- Every field of a register back to its reset value. -/
def State.resetReg (s : State) (r : Reg) (i : Nat) : State :=
  { s with regs := r.fields.foldl (fun t f => tdel t (f.key i)) s.regs }

/-- Every entry of every register of a block back to its reset value. -/
def State.resetBlocks (s : State) (p : Block → Bool) : State :=
  { s with regs := s.regs.filter fun q =>
      match blockOf (keyBlock q.1) with
      | some b => !p b
      | none => true }

/-! ### Free values -/

/-- A fresh free value, and the state that has used it. -/
def State.free (s : State) : Nat × State := (Config.freeNat s.fresh, { s with fresh := s.fresh + 1 })

/-- A fresh stamp for undefined bytes. -/
def State.stamp (s : State) : Nat × State := (s.fresh, { s with fresh := s.fresh + 1 })

/-! ### The wheel count -/

def State.now (s : State) : Nat := s.rd whlCountCount 0

/-- An event that the manual places at a count brings the count to it (log 12). -/
def State.advanceTo (s : State) (t : Nat) : State := if s.now < t then s.wr whlCountCount 0 t else s

/-- The count of the event at an angle of the present turn (R272). -/
def State.angleCount (s : State) (a : Nat) : Nat :=
  s.rd whlTurnStartT0 0 + ceilDiv (a * s.rd whlTurnLenLen 0) 65536

/-- The angle now (R271). -/
def State.angle (s : State) : Nat :=
  65536 * (s.now - s.rd whlTurnStartT0 0) / s.rd whlTurnLenLen 0 % 65536

/-- One tick of WHEEL_REF: the count rises while the wheel counts (R2, R15, R270). -/
def State.tick (s : State) : State :=
  if s.power.input ∧ s.wheel.running then s.wrapAdd whlCountCount 0 1 else s

/-! ### Where the module stands -/

def State.powered (s : State) : Bool := match s.svc.phase with | .off _ => false | _ => true

def State.inService (s : State) : Bool := s.svc.phase = .service

/-- The module serves commands of its agents only while in normal service (R210, R417). -/
def ifService (s : State) (k : State → State) : State := if s.inService then k s else s

/-! ### Events (R361) -/

/-- The destinations of Table 13.8 among the functions; every event but S-313 also goes to the bus peers.
Codes the table does not name go to F0 (log 13). -/
def eventFns : Code → List Nat
  | .s 320 => []
  | .s 321 => []
  | .s 310 => [1]
  | .s 312 => [1]
  | .s 346 => [0, 2]
  | .s n => if 330 ≤ n ∧ n ≤ 353 then [2] else [0]
  | .f 196 => [2]
  | _ => [0]

/-- Add an event to one destination's list: a pending code only counts. -/
def addEvent (l : List PEvent) (c : Code) (ps : List Nat) : List PEvent :=
  if l.any (fun e => decide (e.code = c)) then
    updFirst (fun e => decide (e.code = c)) (fun e => { e with count := e.count + 1 }) l
  else l ++ [⟨c, 1, ps⟩]

/-- Raise a vector of a function; D3hot stops MSI-X (Table 13.1). -/
def State.raise (s : State) (fn n : Nat) : State :=
  match s.pci.fns[fn]? with
  | some f => if f.d3hot then s else { s with sit := { s.sit with vectors := s.sit.vectors ++ [(fn, n)] } }
  | none => s

/-- What has a rate limit: vector 0 of function 0 to 2, once per 100 us (R361), and vector 9 of F0, once per us
(Table 13.2); its function, vector and period. -/
def rateOf (k : Nat) : Nat × Nat × Nat := if k < 3 then (k, 0, 100000) else (0, 9, 1000)

/-- Raise a vector that has a rate limit; within its period it is owed. -/
def State.raiseRated (s : State) (k : Nat) : State :=
  let r := rateOf k
  if s.now < tget 0 s.sit.nextAt k then { s with sit := { s.sit with owed := addNew s.sit.owed k } }
  else
    let s := { s with sit := { s.sit with
      nextAt := tset 0 s.sit.nextAt k (s.now + r.2.2), owed := s.sit.owed.filter (· != k) } }
    s.raise r.1 r.2.1

/-- Vectors that are owed are raised once their period is over. -/
def State.raiseOwed (s : State) : State := s.sit.owed.foldl State.raiseRated s

/-- Make an event pending at one destination. -/
def State.postTo (s : State) (d : Nat) (c : Code) (ps : List Nat) : State :=
  let l := tget [] s.sit.events d
  let s := { s with sit := { s.sit with events := tset [] s.sit.events d (addEvent l c ps) } }
  if d < 3 ∧ !(l.any fun e => decide (e.code = c)) then s.raiseRated d else s

/-- The SCIs of the authenticated bus peers. -/
def State.busPeers (s : State) : List Nat := (s.mgmt.peers.map (·.sci)).eraseDups

/-- Post an event to the destinations of Table 13.8. -/
def State.post (s : State) (c : Code) (ps : List Nat) : State :=
  let ds := eventFns c ++ s.busPeers.map (· + 3)
  ds.foldl (fun s d => s.postTo d c ps) s

/-! ### Firings -/

def State.firing? (s : State) (q : Nat) : Option Firing := s.fe.firings.find? fun f => f.fseq == q

def State.updFiring (s : State) (q : Nat) (g : Firing → Firing) : State :=
  { s with fe := { s.fe with firings := updFirst (fun f => f.fseq == q) g s.fe.firings } }

def State.graph? (s : State) (g : Nat) : Option Graph :=
  (s.fe.graphs.find? fun p => p.1 == g).map (·.2)

/-- A firing that is launched and not switched out, faulted or ending. -/
def Firing.running (f : Firing) : Bool := f.st = .running

/-- A firing launched and not ended: it holds its LOCAL signals, barrier groups and region holds
(Table 9.1). -/
def Firing.launched (f : Firing) : Bool := f.snap.isSome

/-- The claim of a firing's graph (Table 9.5). -/
def State.claimOf (s : State) (f : Firing) : Nat := ((s.graph? f.graph).map (·.claim)).getD 0

/-- The firings whose claim is granted. -/
def State.holders (s : State) : List Firing := s.fe.firings.filter (·.claimHeld)

/-! ### Observers (Table 8.1) -/

/-- The bit of a claim for an observer: shelves 0-1,279, kiln engines 1,280-1,407; the front end's own
list belongs to every claim. -/
def claimHas (claim observer : Nat) : Bool :=
  if observer < 1408 then bit claim observer else observer == 1416

/-- The firing that runs on an observer now. -/
def State.onObserver (s : State) (o : Nat) : Option Firing :=
  s.fe.firings.find? fun f => f.running && f.claimHeld && claimHas (s.claimOf f) o

/-- Set the state of slot i of an observer's work list. -/
def setItem (l : List (Nat × ItemSt)) (i : Nat) (st : ItemSt) : List (Nat × ItemSt) :=
  l.modify i fun p => (p.1, st)

def Firing.setItem (f : Firing) (o i : Nat) (st : ItemSt) : Firing :=
  { f with work := f.work.map fun p => if p.1 = o then (p.1, Machine.setItem p.2 i st) else p }

def Firing.items (f : Firing) (o : Nat) : List (Nat × ItemSt) :=
  ((f.work.find? fun p => p.1 == o).map (·.2)).getD []

/-- The first slot of an observer's work list that still waits to start, with its index. -/
def firstWaiting : List (Nat × ItemSt) → Nat → Option (Nat × Nat)
  | [], _ => none
  | (w, st) :: r, i => if st = .waiting then some (i, w) else firstWaiting r (i + 1)

def Firing.next (f : Firing) (o : Nat) : Option (Nat × Nat) := firstWaiting (f.items o) 0

/-- Every earlier slot of an observer's list has completed (R202). -/
def Firing.earlierDone (f : Firing) (o i : Nat) : Bool := ((f.items o).take i).all fun p => p.2 = .done

/-- Every slot of every work list has completed (R260 step 1). -/
def Firing.allDone (f : Firing) : Bool := f.work.all fun p => p.2.all fun q => q.2 = .done

/-! ### Mailboxes (R358, R359) -/

/-- The number of a mailbox: function mailboxes 8 × function + number, bus peers from 24 + SCI. -/
def boxNo : Origin → Nat
  | .box fn m => 8 * fn + m
  | .bus p => 24 + p

def idleBox : Box := ⟨0, noReq, none, [], false⟩

def State.box (s : State) (o : Origin) : Box := tget idleBox s.sit.boxes (boxNo o)

def State.setBox (s : State) (o : Origin) (b : Box) : State :=
  { s with sit := { s.sit with boxes := tset idleBox s.sit.boxes (boxNo o) b } }

/-- A reply is signalled: the mailbox's vector, or a frame on the bus while the module transmits there
(Table 13.14). -/
def State.signalReply (s : State) (o : Origin) (payload : List Nat) : State :=
  match o with
  | .box fn m => s.raise fn (m + 1)
  | .bus p =>
    if s.on sitMgmtCfgTxEn 0 then { s with sit := { s.sit with busOut := s.sit.busOut ++ [(p, payload)] } } else s

/-- Write the reply of the command an origin waits for, set DONE and raise its vector (R359). A reply
to a bus peer goes out on the bus. -/
def State.reply (s : State) (o : Origin) (st : Code) (restarted : Bool) (payload : List Nat) : State :=
  let b := s.box o
  let r : Reply := ⟨b.req.seq, b.req.tag, st, restarted || b.crossed, payload⟩
  (s.setBox o { b with st := 2, reply := some r, crossed := false }).signalReply o payload

/-- A command done (S-000). -/
def State.done (s : State) (o : Origin) (payload : List Nat) : State := s.reply o (.s 0) false payload

/-- A command refused. -/
def State.refuse (s : State) (o : Origin) (c : Code) : State := s.reply o c false []

/-- The functions and the bus on which a command of Table 13.7 is allowed. -/
def cmdAllowed (cmd : Nat) : Option (List Nat × Bool) :=
  if cmd = 0x0001 ∨ cmd = 0x0002 then some ([0, 1, 2], true)
  else if cmd = 0x0003 ∨ cmd = 0x0010 then some ([0], true)
  else if cmd = 0x0011 then some ([0], false)
  else if has [0x0100, 0x0101, 0x0110, 0x0111, 0x0112, 0x0113, 0x0114, 0x0115, 0x0120, 0x0130, 0x0131,
      0x0132, 0x0133, 0x0150, 0x0151, 0x0152, 0x0160, 0x0161] cmd then some ([0], false)
  else if has [0x0140, 0x0141, 0x0142, 0x0170, 0x0500, 0x0501] cmd then some ([0], true)
  else if has [0x0200, 0x0201, 0x0202, 0x0203] cmd then some ([1], true)
  else if has [0x0300, 0x0301, 0x0400, 0x0401, 0x0402, 0x0403] cmd then some ([2], true)
  else none

/-- A bus peer, named by its SCI, is served only with the COMMAND right (R366). -/
def State.peerCommands (s : State) (p : Nat) : Bool :=
  s.mgmt.peers.any fun e => e.sci == p && bit e.rights 0

/-- Recovery (R374): entered from service, at power-up, or within a warm reset. -/
def State.recovering (s : State) : Bool :=
  match s.svc.phase with
  | .recovery _ => true
  | .warm => s.on secStateRecovery 0
  | _ => false

/-- The refusal a command meets before it runs: S-300 and S-301 (R362), S-342 in recovery (R374),
S-362 outside normal service (R417). -/
def State.gate (s : State) (o : Origin) (cmd : Nat) : Option Code :=
  match cmdAllowed cmd with
  | none => some (.s 300)
  | some (fns, busOk) =>
    let here := match o with
      | .box fn _ => has fns fn
      | .bus p => busOk && s.peerCommands p
    if !here then some (.s 301)
    else if s.recovering then
      (if has [0x0001, 0x0002, 0x0400, 0x0402, 0x0403, 0x0501] cmd then none else some (.s 342))
    else match s.svc.phase with
      | .service => none
      | _ =>
        if has [0x0001, 0x0002, 0x0170, 0x0400, 0x0402, 0x0403, 0x0500, 0x0501] cmd then none
        else some (.s 362)

/-- The Sitter runs, so that it can take commands (R356). -/
def State.sitterUp (s : State) : Bool := s.powered && !s.on sitCoreRestarting 0

/-- A mailbox command: nothing while the Sitter is down or restarting, a refusal when the gate
refuses, else its own effect. -/
def State.command (s : State) (o : Origin) (cmd : Nat) (k : State → State) : State :=
  if s.sitterUp then
    match s.gate o cmd with
    | some c => s.refuse o c
    | none => k s
  else s

end Sys2Proof.Machine
end

