-- ==== Sys2Proof/Machine/Hash.lean ====
section
/-! DEFINITION. Machine/Hash.lean: SHAKE256 (FIPS 202), which R70, R123, R368 and the fingerprints of
the manual name, and the two CRCs of Table 7.6. -/

namespace Sys2Proof.Machine

/-! ### The permutation of FIPS 202, on 25 lanes of 64 bits with lane (x, y) in place 5y + x -/

def laneAt (a : List Nat) (x y : Nat) : Nat := a[5 * (y % 5) + x % 5]?.getD 0

def turnLeft (n v : Nat) : Nat := v * 2 ^ n % 2 ^ 64 + v / 2 ^ (64 - n)

/-- A list of lanes by their coordinates. -/
def lanesBy (f : Nat → Nat → Nat) : List Nat := (List.range 25).map fun i => f (i % 5) (i / 5)

/-- Theta: every lane takes the parity of the column before it and, turned by one, of the column after it. -/
def theta (a : List Nat) : List Nat :=
  let parities := (List.range 5).map fun x => (List.range 5).foldl (fun p y => p ^^^ laneAt a x y) 0
  let mix := fun x => laneAt parities (x + 4) 0 ^^^ turnLeft 1 (laneAt parities (x + 1) 0)
  lanesBy fun x y => laneAt a x y ^^^ mix x

/-- Rho and pi together: from (1, 0) on, the lane at each place of the walk (x, y), (y, 2x + 3y) goes to the next
place, the lane of step t turned by the triangular number of t + 1. -/
def rhoPi (a : List Nat) : Nat → Nat → Nat → Nat → List Nat → List Nat
  | 0, _, _, _, out => out
  | n + 1, t, x, y, out =>
    let x' := y
    let y' := (2 * x + 3 * y) % 5
    rhoPi a n (t + 1) x' y' (out.set (5 * y' + x') (turnLeft ((t + 1) * (t + 2) / 2 % 64) (laneAt a x y)))

/-- Chi: a lane is flipped where the next one of its row is 0 and the one after is 1. -/
def chi (a : List Nat) : List Nat :=
  lanesBy fun x y => laneAt a x y ^^^ (laneAt a (x + 2) y - (laneAt a (x + 1) y &&& laneAt a (x + 2) y))

/-- The register of iota, a power of x modulo x^8 + x^6 + x^5 + x^4 + 1, one step on. -/
def iotaStep (r : Nat) : Nat := if r < 128 then 2 * r else 2 * r ^^^ 0x171

/-- Seven bits of the register, at places 2^j - 1 of the round's constant, and the register after them. -/
def iotaWord (r : Nat) : Nat × Nat :=
  (List.range 7).foldl (fun p j => (p.1 + p.2 % 2 * 2 ^ (2 ^ j - 1), iotaStep p.2)) (0, r)

/-- Rounds, with the register of iota. -/
def permute : Nat → Nat → List Nat → List Nat
  | 0, _, a => a
  | n + 1, r, a =>
    let b := theta a
    let c := chi (rhoPi b 24 0 1 0 b)
    let k := iotaWord r
    permute n k.2 (c.set 0 (laneAt c 0 0 ^^^ k.1))

/-- Blocks of 136 bytes go into the first 17 lanes, each followed by 24 rounds. -/
def sponge : Nat → List Nat → Bytes → List Nat
  | 0, a, _ => a
  | n + 1, a, m =>
    sponge n (permute 24 1 (a.mapIdx fun i v => if i < 17 then v ^^^ field m (8 * i) 8 else v)) (m.drop 136)

/-- The SHAKE padding: domain bits 1111, then 10*1. -/
def shakePad (m : Bytes) : Bytes :=
  let k := 136 - m.length % 136
  if k = 1 then m ++ [0x9F] else m ++ [0x1F] ++ List.replicate (k - 2) 0 ++ [0x80]

/-- The first n bytes of SHAKE256, n ≤ 136. -/
def shake256 (m : Bytes) (n : Nat) : Bytes :=
  let p := shakePad m
  let a := sponge (p.length / 136) (List.replicate 25 0) p
  ((a.take 17).flatMap (natLe 8)).take n

/-- The first 8 bytes of SHAKE256 as a little-endian seed; 0 becomes 1 (R70, R123). -/
def seedOf (m : Bytes) : Nat := if leNat (shake256 m 8) = 0 then 1 else leNat (shake256 m 8)

/-! ### CRCs (Table 7.6), reflected in and out -/

/-- Eight reflected steps with the reversed polynomial. -/
def crcByte (poly crc : Nat) (b : Byte) : Nat :=
  (List.range 8).foldl (fun c _ => if c % 2 = 1 then c / 2 ^^^ poly else c / 2) (crc ^^^ b.toNat)

def crcReflected (poly w : Nat) (m : Bytes) : Nat := m.foldl (crcByte poly) (2 ^ w - 1) ^^^ (2 ^ w - 1)

/-- CRC-32C; the polynomial 0x1EDC6F41 with its bits reversed. -/
def crc32c (m : Bytes) : Nat := crcReflected 0x82F63B78 32 m

/-- CRC-64; the polynomial 0xAD93D23594C93659 with its bits reversed. -/
def crc64 (m : Bytes) : Nat := crcReflected 0x9A6C9329AC4BC9B5 64 m

end Sys2Proof.Machine
end

