-- ==== Sys2Proof/Machine/Flags.lean ====
section
/-! DEFINITION. Machine/Flags.lean: the flag word (Table 4.3), coordinate records (Table 4.4) and the
arithmetic block (R128-R131). -/

namespace Sys2Proof.Machine

def flInexact : Nat := 1
def flUnderflow : Nat := 2
def flOverflow : Nat := 4
def flInvalid : Nat := 8
def flNanIn : Nat := 16
def flSat : Nat := 32
def flDivzero : Nat := 64
def flInfZero : Nat := 128
def flMetaBad : Nat := 256
def flLadderLate : Nat := 512

/-- The flags whose first occurrence is located, in the order of Table 4.2. -/
def coordFlags : List Nat := [flNanIn, flInvalid, flOverflow, flSat, flDivzero]

/-- K where no reduction position applies (Table 4.4). -/
def noK : Nat := 0xFFFFFFFF

/-- Does flag word `w` hold flag `f` (a power of two). -/
def hasFlag (w f : Nat) : Bool := w / f % 2 == 1

/-- Where and when something exceptional happened; `flags` says what. -/
structure Occ where
  flags : Nat
  op : Nat
  elem : Nat
  src : Nat
  k : Nat
  pass : Nat
  kiln : Nat
  shelf : Nat
  trow : Nat
  tcol : Nat
  col : Nat
  row : Nat
  deriving DecidableEq, Repr

def Occ.coord (o : Occ) (f : Nat) : Coord :=
  ⟨f, o.op, o.elem, o.src, o.k, o.pass, o.kiln, o.shelf, o.trow, o.tcol, o.col, o.row, 1⟩

/-- R129: lowest OP_INDEX, then ELEM, then K, then SRC. -/
def Coord.before (a b : Coord) : Bool :=
  a.op < b.op || (a.op == b.op && (a.elem < b.elem || (a.elem == b.elem &&
    (a.k < b.k || (a.k == b.k && a.src < b.src)))))

def satAdd32 (a b : Nat) : Nat := min (a + b) 0xFFFFFFFF

/-- Merge one coordinate record into a list that holds at most one record for each flag (R129, R131). -/
def addCoord (l : List Coord) (c : Coord) : List Coord :=
  match l.find? (·.flag == c.flag) with
  | none => l ++ [c]
  | some d =>
    let n := satAdd32 d.count c.count
    updFirst (·.flag == c.flag) (fun _ => { (if c.before d then c else d) with count := n }) l

/-- Report one occurrence. -/
def Arith.report (a : Arith) (o : Occ) : Arith :=
  if o.flags = 0 then a else
  { flags := a.flags ||| o.flags
    ops := if o.flags ||| flInexact = flInexact then a.ops else addNew a.ops o.op
    coords := (coordFlags.filter (hasFlag o.flags)).foldl (fun l f => addCoord l (o.coord f)) a.coords }

def Arith.reports (a : Arith) (l : List Occ) : Arith := l.foldl Arith.report a

/-- R131: flags by OR, counts by saturating addition, coordinate records by R129. -/
def Arith.merge (a b : Arith) : Arith :=
  { flags := a.flags ||| b.flags
    ops := b.ops.foldl addNew a.ops
    coords := b.coords.foldl addCoord a.coords }

/-- OPS_FLAGGED (Table 4.2). -/
def Arith.opsFlagged (a : Arith) : Nat := min a.ops.length 0xFFFFFFFF

/-- The 256 bits of Table 4.4. -/
def Coord.word (c : Coord) : Nat :=
  c.op % 2 ^ 32 + 2 ^ 32 * (c.elem % 2 ^ 40) + 2 ^ 72 * (c.src % 2 ^ 8) + 2 ^ 80 * (c.k % 2 ^ 32) +
  2 ^ 112 * (min c.pass 0xFFFF) + 2 ^ 128 * (c.kiln % 8) + 2 ^ 131 * (c.shelf % 256) +
  2 ^ 139 * (c.trow % 8) + 2 ^ 142 * (c.tcol % 8) + 2 ^ 145 * (c.col % 16) + 2 ^ 149 * (c.row % 16) +
  2 ^ 160 * c.count

/-- The arithmetic block of Table 4.2 as a number of 192 bytes; a clear flag's record is zero (R432). -/
def Arith.word (a : Arith) : Nat :=
  a.flags + 2 ^ 32 * a.opsFlagged +
  ((List.range 5).map fun i => 2 ^ (256 * (i + 1)) *
    ((a.coords.find? (·.flag == coordFlags[i]?.getD 0)).map Coord.word).getD 0).sum

end Sys2Proof.Machine
end

