-- ==== Sys2Proof/Machine/Num.lean ====
section
/-! DEFINITION. Machine/Num.lean: the ten formats, exact values, rounding, conversion, stochastic
rounding and gauges (spec/02), exact sums and products (R57-R59, R110-R114). -/

namespace Sys2Proof.Machine

def Val.zero : Val := .num false 0 0
def Val.negZero : Val := .num true 0 0

def Val.isNan : Val → Bool
  | .nan _ => true
  | _ => false

def Val.isSig : Val → Bool
  | .nan s => s
  | _ => false

def Val.isInf : Val → Bool
  | .inf _ => true
  | _ => false

def Val.isZero : Val → Bool
  | .num _ m _ => m == 0
  | _ => false

def Val.finite : Val → Bool
  | .num _ _ _ => true
  | _ => false

def Val.neg? : Val → Bool
  | .nan _ => false
  | .inf n => n
  | .num n _ _ => n

/-- Exact multiplication by 2^k (R62, R100). -/
def Val.scale : Val → Int → Val
  | .num n m e, k => .num n m (e + k)
  | v, _ => v

def Val.abs : Val → Val
  | .num _ m e => .num false m e
  | .inf _ => .inf false
  | v => v

def Val.flip : Val → Val
  | .num n m e => .num (!n) m e
  | .inf n => .inf (!n)
  | v => v

/-- Compare m1 × 2^e1 with m2 × 2^e2. -/
def cmpMag (m1 : Nat) (e1 : Int) (m2 : Nat) (e2 : Int) : Ordering :=
  if e1 ≤ e2 then compare m1 (m2 * 2 ^ (e2 - e1).toNat) else compare (m1 * 2 ^ (e1 - e2).toNat) m2

/-! ### Formats (Table 2.1) -/

/-- Exponent bits of a floating format code. -/
def fltExp (c : Nat) : Nat := if c = 0 then 11 else if c = 1 then 8 else if c = 3 then 8 else if c = 5 then 4 else 5

/-- Fraction bits of a floating format code. -/
def fltFrac (c : Nat) : Nat := if c = 0 then 52 else if c = 1 then 23 else if c = 2 then 10 else if c = 3 then 7
  else if c = 4 then 2 else 3

def fltBias (c : Nat) : Nat := 2 ^ (fltExp c - 1) - 1

/-- Exponent of the smallest normal. -/
def fltEmin (c : Nat) : Int := 1 - (fltBias c : Int)

/-- Bits of one element. -/
def fmtBits (c : Nat) : Nat := if c = 0 then 64 else if c = 1 ∨ c = 9 then 32 else if c = 2 ∨ c = 3 then 16
  else if c = 6 ∨ c = 8 then 4 else 8

def isInt (c : Nat) : Bool := c == 7 || c == 8 || c == 9

/-- The largest finite magnitude as (significand, exponent of its unit). -/
def fltMax (c : Nat) : Nat × Int :=
  if c = 5 then (14, 5) else (2 ^ (fltFrac c + 1) - 1, (fltBias c : Int) - fltFrac c)

def fltSign (c : Nat) (neg : Bool) : Nat := if neg then 2 ^ (fltExp c + fltFrac c) else 0

def fltInf (c : Nat) (neg : Bool) : Nat := fltSign c neg + (2 ^ fltExp c - 1) * 2 ^ fltFrac c

/-- Canonical NaNs (Table 2.2). -/
def fltNan (c : Nat) : Nat := if c = 5 then 0x7F else fltInf c false + 2 ^ (fltFrac c - 1)

/-- The value of a floating code (R46, R50, R51; NaN kinds R49). -/
def decodeFlt (c x : Nat) : Val :=
  let p := fltFrac c
  let neg := bit x (fltExp c + p)
  let e := bits x p (fltExp c)
  let f := bits x 0 p
  if e = 0 then .num neg f (fltEmin c - p)
  else if e = 2 ^ fltExp c - 1 ∧ c ≠ 5 then
    if f = 0 then .inf neg else .nan (!bit f (p - 1))
  else if e = 15 ∧ f = 7 ∧ c = 5 then .nan false
  else .num neg (2 ^ p + f) ((e : Int) - fltBias c - p)

/-- The value of a two's complement integer; integers have no −0. -/
def decodeInt (w x : Nat) : Val := .num (signed w x < 0) (signed w x).natAbs 0

/-- The value of an element of any format but Grog4. -/
def decode (c x : Nat) : Val := if isInt c then decodeInt (fmtBits c) x else decodeFlt c x

/-- A Grog4 block scale as (significand, exponent) (Table 2.5); none is NaN. -/
def grogScale (s : Nat) : Option (Nat × Int) :=
  if s = 0xFF then none
  else if s / 4 = 0 then some (s % 4, -32) else some (4 + s % 4, (s / 4 : Nat) - 33)

/-- A Grog4 element under its scale (R52-R54). -/
def decodeGrog (el s : Nat) : Val :=
  match grogScale s with
  | none => .nan false
  | some (sm, se) =>
    let e := bits el 1 2
    let m := if e = 0 then el % 2 else 2 + el % 2
    .num (bit el 3) (m * sm) (se + (if e = 0 then -1 else (e : Int) - 2))

/-! ### Stochastic rounding (R69) -/

/-- One step of the 64-bit generator. -/
def genStep (s : Nat) : Nat :=
  (2 * s + (bits s 63 1 + bits s 62 1 + bits s 60 1 + bits s 59 1) % 2) % 2 ^ 64

/-- Sixteen steps. -/
def genAdvance (s : Nat) : Nat := (List.range 16).foldl (fun t _ => genStep t) s

/-! ### Rounding (R63, R66) -/

/-- A rounded magnitude n × 2^q, whether anything was discarded, and the generator after it. -/
structure Rnd where
  n : Nat
  q : Int
  inexact : Bool
  gen : Nat
  deriving DecidableEq, Repr

/-- Round m × 2^e to a multiple of 2^q by the case on RND of R63:
0 RNE, 1 RTZ, 2 SR, 3 RUP, 4 RDN, 5 RNA. SR draws only when something is discarded (R70), so a
sum beyond the range that is a multiple of 2^q draws nothing. Log 114. -/
def roundAt (q : Int) (rnd gen : Nat) (neg : Bool) (m : Nat) (e : Int) : Rnd :=
  if q ≤ e then ⟨m * 2 ^ (e - q).toNat, q, false, gen⟩
  else
    let k := (q - e).toNat
    let n := m / 2 ^ k
    let r := m % 2 ^ k
    if r = 0 then ⟨n, q, false, gen⟩
    else if rnd = 2 then
      let g := genAdvance gen
      ⟨if r * 2 ^ 16 / 2 ^ k + g % 2 ^ 16 ≥ 2 ^ 16 then n + 1 else n, q, true, g⟩
    else
      let up := if rnd = 0 then decide (2 ^ k < 2 * r ∨ (2 * r = 2 ^ k ∧ n % 2 = 1))
        else if rnd = 3 then !neg
        else if rnd = 4 then neg
        else if rnd = 5 then decide (2 ^ k ≤ 2 * r)
        else false
      ⟨if up then n + 1 else n, q, true, gen⟩

/-- The unit in the last place for a target with p fraction bits (first line of R63). -/
def ulpExp (p : Nat) (emin : Int) (m : Nat) (e : Int) : Int := max ((Nat.log2 m : Int) + e) emin - p

/-- A conversion's result: bits, flags, the generator, and whether a nonzero finite input became ±0. -/
structure Cvt where
  bits : Nat
  flags : Nat
  gen : Nat
  zeroed : Bool
  deriving DecidableEq, Repr

/-- The code of n × 2^q in a floating format, q being the format's unit for the value. -/
def encodeFlt (c : Nat) (neg : Bool) (n : Nat) (q : Int) : Nat :=
  let p := fltFrac c
  fltSign c neg +
    (if n < 2 ^ p then n
    else if n = 2 ^ (p + 1) then (q + 1 + p + fltBias c).toNat * 2 ^ p
    else (q + p + fltBias c).toNat * 2 ^ p + (n - 2 ^ p))

def fltMaxCode (c : Nat) (neg : Bool) : Nat := fltSign c neg + (if c = 5 then 0x7E else fltInf c false - 1)

/-- Finite overflow (Table 2.11). A binary64 target follows IEEE 754 and sets no SAT (log 20). -/
def overflow (c rnd : Nat) (sat neg : Bool) (gen : Nat) : Cvt :=
  if c = 5 then
    if sat then ⟨fltMaxCode c neg, flOverflow + flInexact + flSat, gen, false⟩
    else ⟨fltNan c, flOverflow + flInexact + flInvalid, gen, false⟩
  else if (sat ∧ c ≠ 0) ∨ rnd = 1 ∨ (rnd = 3 ∧ neg) ∨ (rnd = 4 ∧ !neg) then
    ⟨fltMaxCode c neg, flOverflow + flInexact + (if c = 0 then 0 else flSat), gen, false⟩
  else ⟨fltInf c neg, flOverflow + flInexact, gen, false⟩

/-- Conversion of an already scaled value to a floating target (R63-R65, R71). -/
def cvtFlt (c rnd : Nat) (sat : Bool) (gen : Nat) : Val → Cvt
  | .nan sig => ⟨fltNan c, flNanIn + (if sig then flInvalid else 0), gen, false⟩
  | .inf neg =>
    if sat ∧ c ≠ 0 then ⟨fltMaxCode c neg, flSat, gen, false⟩
    else if c = 5 then ⟨fltNan c, flInvalid, gen, false⟩
    else ⟨fltInf c neg, 0, gen, false⟩
  | .num neg m e =>
    if m = 0 then ⟨fltSign c neg, 0, gen, false⟩
    else
      let r := roundAt (ulpExp (fltFrac c) (fltEmin c) m e) rnd gen neg m e
      if cmpMag r.n r.q (fltMax c).1 (fltMax c).2 = .gt then overflow c rnd sat neg r.gen
      else ⟨encodeFlt c neg r.n r.q,
        (if r.inexact then flInexact else 0) +
          (if r.inexact ∧ r.n < 2 ^ fltFrac c then flUnderflow else 0), r.gen, r.n == 0⟩

/-- Conversion of an already scaled value to an integer target (R66). INEXACT is set whenever the
result differs from a finite scaled input (R71; log 21). -/
def cvtInt (c rnd gen : Nat) : Val → Cvt
  | .nan _ => ⟨0, flNanIn + flInvalid, gen, false⟩
  | .inf neg => ⟨unsigned (fmtBits c) (if neg then -(2 ^ (fmtBits c - 1) - 1 : Int) else 2 ^ (fmtBits c - 1) - 1),
      flSat + flInvalid, gen, false⟩
  | .num neg m e =>
    let r := roundAt 0 rnd gen neg m e
    let top := 2 ^ (fmtBits c - 1) - 1
    let n := min r.n top
    ⟨unsigned (fmtBits c) (if neg then -(n : Int) else n),
      (if r.inexact ∨ top < r.n then flInexact else 0) + (if top < r.n then flSat + flOverflow else 0),
      r.gen, m ≠ 0 && n == 0⟩

/-- Conversion of one element, Grog4 apart: multiply by 2^SCX, then round once (R62). -/
def convert (c rnd : Nat) (sat : Bool) (scx : Int) (gen : Nat) (v : Val) : Cvt :=
  if isInt c then cvtInt c rnd gen (v.scale scx) else cvtFlt c rnd sat gen (v.scale scx)

/-! ### Grog4 blocks (R67) -/

/-- m × 2^e divided by a scale, with the rest kept as a last bit: exact to 2^-64, enough for R63. -/
def grogDiv (m : Nat) (e : Int) (sm : Nat) (se : Int) : Nat × Int :=
  let k := e - se + 64
  let num := if 0 ≤ k then m * 2 ^ k.toNat else m / 2 ^ (-k).toNat
  let lost := if 0 ≤ k then false else m % 2 ^ (-k).toNat != 0
  (2 * (num / sm) + (if lost || num % sm != 0 then 1 else 0), -65)

/-- The smallest scale code with 6 × scale ≥ a, or 0xFE. -/
def grogPick (m : Nat) (e : Int) : Nat :=
  (((List.range 0xFE).map (· + 1)).find? fun s =>
    match grogScale s with
    | some (sm, se) => cmpMag m e (6 * sm) se != .gt
    | none => false).getD 0xFE

/-- The code of a Grog4 element magnitude of n half units. -/
def grogCode (n : Nat) : Nat := if n ≤ 4 then n else if n = 6 then 5 else if n = 8 then 6 else 7

/-- One element against its scale: code, flags, generator, zeroed. R63 with p = 1, emin = 0. -/
def grogElem (rnd gen sm : Nat) (se : Int) : Val → Cvt
  | .nan _ => ⟨0, 0, gen, false⟩
  | .inf neg => ⟨8 * b2n neg + 7, flSat, gen, false⟩
  | .num neg m e =>
    if m = 0 then ⟨8 * b2n neg, 0, gen, false⟩
    else
      let d := grogDiv m e sm se
      let r := roundAt (ulpExp 1 0 d.1 d.2) rnd gen neg d.1 d.2
      if cmpMag r.n r.q 6 0 = .gt then ⟨8 * b2n neg + 7, flOverflow + flInexact + flSat, r.gen, false⟩
      else
        let half := r.n * 2 ^ (r.q + 1).toNat
        ⟨8 * b2n neg + grogCode half,
          (if r.inexact then flInexact else 0) + (if r.n = 0 then flUnderflow else 0), r.gen, r.n == 0⟩

/-- A converted scale block: scale code, the elements in order, the generator. A padding element is
`none` and becomes code 0 (R142); a block without a real element gets scale 0x00. -/
structure GrogBlock where
  scale : Nat
  els : List Cvt
  gen : Nat
  deriving DecidableEq, Repr

def Val.maxMag (a : Val) : Val → Val
  | .num n m e => match a with
    | .num _ m2 e2 => if cmpMag m2 e2 m e = .lt then .num n m e else a
    | _ => a
  | _ => a

def grogBlock (rnd : Nat) (scx : Int) (gen : Nat) (xs : List (Option Val)) : GrogBlock :=
  let real := xs.filterMap id
  if real.isEmpty then ⟨0, xs.map fun _ => ⟨0, 0, gen, false⟩, gen⟩
  else if real.any (·.isNan) then
    ⟨0xFF, xs.map fun x => ⟨0, (match x with
      | some (.nan sig) => flNanIn + (if sig then flInvalid else 0)
      | _ => 0), gen, false⟩, gen⟩
  else
    let s := match real.foldl Val.maxMag .zero with
      | .num _ m e => if m = 0 then 0x7C else grogPick m (e + scx)
      | _ => 0x7C
    let sc := (grogScale s).getD (0, 0)
    let r := xs.foldl (fun (acc : List Cvt × Nat) x =>
      match x with
      | none => (acc.1 ++ [⟨0, 0, acc.2, false⟩], acc.2)
      | some v =>
        let c := grogElem rnd acc.2 sc.1 sc.2 (v.scale scx)
        (acc.1 ++ [c], c.gen)) ([], gen)
    ⟨s, r.1, r.2⟩

/-! ### Gauges (R72, R73) -/

/-- |x| rounded toward +∞ into binary32. -/
def gaugeMag (v : Val) : Nat := (cvtFlt 1 3 false 0 v.abs).bits

/-- One input element of a conversion. -/
def Gauge.note (g : Gauge) (v : Val) (c : Cvt) : Gauge :=
  { amax := if v.isNan then g.amax else max g.amax (gaugeMag v)
    sat := if hasFlag c.flags flSat then satAdd32 g.sat 1 else g.sat
    nan := if v.isNan then satAdd32 g.nan 1 else g.nan
    zero := if c.zeroed then satAdd32 g.zero 1 else g.zero
    elem := min (g.elem + 1) (2 ^ 48 - 1) }

def Gauge.empty : Gauge := ⟨0, 0, 0, 0, 0⟩

def Gauge.merge (a b : Gauge) : Gauge :=
  ⟨max a.amax b.amax, satAdd32 a.sat b.sat, satAdd32 a.nan b.nan, satAdd32 a.zero b.zero,
    min (a.elem + b.elem) (2 ^ 48 - 1)⟩

def mergeGauges (a b : Tab Gauge) : Tab Gauge :=
  b.foldl (fun t p => tput t p.1 ((tget .empty t p.1).merge p.2)) a

/-! ### Products, sums, chunks -/

/-- Table 2.6. -/
def product : Val → Val → Val × Nat
  | .nan s, b => (.nan false, flNanIn + (if s || b.isSig then flInvalid else 0))
  | a, .nan s => (.nan false, flNanIn + (if s || a.isSig then flInvalid else 0))
  | .inf n, b => if b.isZero then (.nan false, flInvalid + flInfZero) else (.inf (n != b.neg?), 0)
  | a, .inf n => if a.isZero then (.nan false, flInvalid + flInfZero) else (.inf (n != a.neg?), 0)
  | .num n m e, .num n2 m2 e2 => (.num (n != n2) (m * m2) (e + e2), 0)

/-- The exact value of a finite number in units of 2^q, q no larger than its exponent. -/
def Val.units (q : Int) : Val → Int
  | .num n m e => let x : Int := (m * 2 ^ (e - q).toNat : Nat); if n then -x else x
  | _ => 0

def Val.exp : Val → Int
  | .num _ m e => if m = 0 then 1000000 else e
  | _ => 1000000

/-- Exact sum of finite values; `z` is the sign an exact zero takes. -/
def exactSum (z : Bool) (l : List Val) : Val :=
  let q := l.foldl (fun q v => min q v.exp) 1000000
  let t := (l.map (Val.units q)).sum
  if t = 0 then .num z 0 0 else .num (t < 0) t.natAbs q

/-- Table 2.7, exact, before the one rounding. -/
def addExact (rnd : Nat) : Val → Val → Val × Nat
  | .nan s, b => (.nan false, flNanIn + (if s || b.isSig then flInvalid else 0))
  | a, .nan s => (.nan false, flNanIn + (if s || a.isSig then flInvalid else 0))
  | .inf n, .inf n2 => if n = n2 then (.inf n, 0) else (.nan false, flInvalid)
  | .inf n, _ => (.inf n, 0)
  | _, .inf n => (.inf n, 0)
  | a, b => (exactSum (if a.isZero && b.isZero && a.neg? == b.neg? then a.neg? else rnd == 4) [a, b], 0)

/-- Round an exact result once into a format: a sum's overflow never sets SAT (Table 2.7, R71), and a
NaN that arrives here was reported where it arose. -/
def roundOp (c rnd gen : Nat) (v : Val) : Cvt :=
  match v with
  | .nan _ => ⟨fltNan c, 0, gen, false⟩
  | v =>
    let r := cvtFlt c rnd false gen v
    { r with flags := if hasFlag r.flags flSat then r.flags - flSat else r.flags }

/-- An addition inside an operation's own accumulation (R114): NaNs set no flag. -/
def accAdd (c rnd gen : Nat) (a b : Val) : Cvt :=
  let s := addExact rnd a b
  let r := roundOp c rnd gen s.1
  { r with flags := r.flags + (if a.isNan || b.isNan then 0 else s.2) }

/-- R111: the chunk of the products present, with its flags. -/
def chunk (ps : List Val) : Val × Nat :=
  let pInf := ps.any fun p => p.isInf && !p.neg?
  let nInf := ps.any fun p => p.isInf && p.neg?
  if ps.any (·.isNan) then (.nan false, 0)
  else if pInf && nInf then (.nan false, flInvalid)
  else if pInf || nInf then (.inf nInf, 0)
  else match exactSum (ps.all fun p => p.isZero && p.neg?) ps with
    | .num n m e =>
      let k := Nat.log2 m - 33
      if m % 2 ^ k = 0 then (.num n m e, 0)
      else (.num n (m / 2 ^ k + (1 - m / 2 ^ k % 2)) (e + k), flInexact)
    | v => (v, 0)

/-! ### Comparison (Table 2.8, R126) -/

/-- Strictly less in the order of Table 2.8, −0 below +0; NaNs are not compared. -/
def Val.lt : Val → Val → Bool
  | .inf n, .inf n2 => n && !n2
  | .inf n, _ => n
  | _, .inf n => !n
  | .num n m e, .num n2 m2 e2 =>
    if n && !n2 then true
    else if !n && n2 then false
    else if n then cmpMag m2 e2 m e = .lt
    else cmpMag m e m2 e2 = .lt
  | _, _ => false

/-- R126: the better of two records; a NaN wins, then the value, then the lower index. -/
def better (mx : Bool) (a b : Idx) : Idx :=
  if a.1.isNan || b.1.isNan then
    if a.1.isNan && b.1.isNan then (if b.2 < a.2 then b else a)
    else if a.1.isNan then a else b
  else if (if mx then a.1.lt b.1 else b.1.lt a.1) then b
  else if (if mx then b.1.lt a.1 else a.1.lt b.1) then a
  else if b.2 < a.2 then b else a

/-- The winner of a list of records. -/
def winner (mx : Bool) : List Idx → Option Idx
  | [] => none
  | a :: r => some (r.foldl (better mx) a)

/-- Every product of every array format is exact in binary64 (R108). -/
def toB64 (v : Val) : Nat := (cvtFlt 0 0 false 0 v).bits

end Sys2Proof.Machine
end

