-- ==== Sys2Proof/Machine/Operands.lean ====
section
/-! DEFINITION. Machine/Operands.lean: the fields of the structures that the manual keeps in memory and
in graph images, and where the elements of a blocked tensor lie (R140-R142). A field's name is its
table's prefix and the manual's name. -/

namespace Sys2Proof.Machine

/-! ### Operation descriptor (Table 3.9) -/

def opOpcode (w : Nat) : Nat := bits w 0 8
def opMode (w : Nat) : Nat := bits w 8 2
def opGang (w : Nat) : Nat := bits w 10 3
def opSparse (w : Nat) : Nat := bits w 13 1
def opTransM (w : Nat) : Nat := bits w 14 1
def opTransS (w : Nat) : Nat := bits w 15 1
def opFmtM (w : Nat) : Nat := bits w 16 4
def opFmtS (w : Nat) : Nat := bits w 20 4
def opPsumIn (w : Nat) : Nat := bits w 24 1
def opChain (w : Nat) : Nat := bits w 25 1
def opFinal (w : Nat) : Nat := bits w 26 1
def opAccSr (w : Nat) : Nat := bits w 27 1
def opKiln (w : Nat) : Nat := bits w 32 3
def opShelf (w : Nat) : Nat := bits w 36 8
def opTrow (w : Nat) : Nat := bits w 44 3
def opTcol (w : Nat) : Nat := bits w 47 3
def opVecM1 (w : Nat) : Nat := bits w 64 16
def opRowsM1 (w : Nat) : Nat := bits w 80 12
def opColsM1 (w : Nat) : Nat := bits w 96 12
def opSAddr (w : Nat) : Nat := bits w 128 32
def opMAddr (w : Nat) : Nat := bits w 160 32
def opPAddr (w : Nat) : Nat := bits w 192 32
def opOAddr (w : Nat) : Nat := bits w 224 32
def opSLd (w : Nat) : Nat := bits w 256 16
def opMLd (w : Nat) : Nat := bits w 272 16
def opPLd (w : Nat) : Nat := bits w 288 16
def opOLd (w : Nat) : Nat := bits w 304 16
def opMetaAddr (w : Nat) : Nat := bits w 320 32
def opCvt (w : Nat) : Nat := bits w 352 32
def opScl (w : Nat) : Nat := bits w 384 8
def opSpill (w : Nat) : Nat := bits w 392 9
def opSagAddr (w : Nat) : Nat := bits w 416 32
def opOpIndex (w : Nat) : Nat := bits w 448 32
def opIdxBase (w : Nat) : Nat := bits w 480 32

/-! ### CVT word (Table 2.9) -/

def cvtTgt (w : Nat) : Nat := bits w 0 4
def cvtRnd (w : Nat) : Nat := bits w 4 3
def cvtSat (w : Nat) : Nat := bits w 7 1
def cvtScx (w : Nat) : Nat := bits w 8 8
def cvtGaugeId (w : Nat) : Nat := bits w 16 12
def cvtGaugeEn (w : Nat) : Nat := bits w 28 1

/-! ### DMA descriptor (Table 7.5) -/

def dmaOp (w : Nat) : Nat := bits w 0 8
def dmaSrcSpace (w : Nat) : Nat := bits w 8 4
def dmaDstSpace (w : Nat) : Nat := bits w 12 4
def dmaIdxSpace (w : Nat) : Nat := bits w 16 4
def dmaIdx (w : Nat) : Nat := bits w 20 2
def dmaIdxUnit (w : Nat) : Nat := bits w 22 1
def dmaCvtEn (w : Nat) : Nat := bits w 23 1
def dmaCrc (w : Nat) : Nat := bits w 24 2
def dmaAccFmt (w : Nat) : Nat := bits w 26 2
def dmaFence (w : Nat) : Nat := bits w 28 1
def dmaSigEn (w : Nat) : Nat := bits w 29 1
def dmaSigRemote (w : Nat) : Nat := bits w 30 1
def dmaLen (w : Nat) : Nat := bits w 32 32
def dmaSrcAddr (w : Nat) : Nat := bits w 64 64
def dmaDstAddr (w : Nat) : Nat := bits w 128 64
def dmaIdxAddr (w : Nat) : Nat := bits w 192 64
def dmaIdxCntM1 (w : Nat) : Nat := bits w 256 20
def dmaElemM1 (w : Nat) : Nat := bits w 276 12
def dmaCvt (w : Nat) : Nat := bits w 288 32
def dmaSrcFmt (w : Nat) : Nat := bits w 320 4
def dmaSig (w : Nat) : Nat := bits w 336 13
def dmaWaitSig (w : Nat) : Nat := bits w 352 13
def dmaWaitVal (w : Nat) : Nat := bits w 368 32
def dmaFslot (w : Nat) : Nat := bits w 400 16
def dmaOpIndex (w : Nat) : Nat := bits w 416 32
def dmaOwn (w : Nat) : Nat := bits w 511 1

/-! ### Sync operation (Table 8.4) -/

def synOp (w : Nat) : Nat := bits w 0 8
def synSig (w : Nat) : Nat := bits w 8 13
def synBar (w : Nat) : Nat := bits w 24 8
def synValue (w : Nat) : Nat := bits w 32 32
def synTimeout (w : Nat) : Nat := bits w 64 20
def synOpIndex (w : Nat) : Nat := bits w 96 32

/-! ### Ladder rule (Table 2.13) -/

def ruleMask (w : Nat) : Nat := bits w 0 4
def ruleInitFmt (w : Nat) : Nat := bits w 4 3
def ruleJoin (w : Nat) : Nat := bits w 7 1
def ruleInitScx (w : Nat) : Nat := bits w 8 8
def ruleHead (w : Nat) : Nat := bits w 16 4
def ruleNanAct (w : Nat) : Nat := bits w 20 2
def ruleHold (w : Nat) : Nat := bits w 24 8
def ruleSatLim (w : Nat) : Nat := bits w 32 16
def ruleZeroLim (w : Nat) : Nat := bits w 48 16
def ruleScxMin (w : Nat) : Nat := bits w 64 8
def ruleScxMax (w : Nat) : Nat := bits w 72 8

/-! ### Ladder state (Table 2.14) -/

def ladFmt (w : Nat) : Nat := bits w 0 3
def ladScx (w : Nat) : Nat := bits w 8 8
def ladHoldLeft (w : Nat) : Nat := bits w 16 8

/-! ### Ladder binding entry (Table 5.6) -/

def bindOpIndex (w : Nat) : Nat := bits w 0 32
def bindSlotM (w : Nat) : Nat := bits w 32 12
def bindBindM (w : Nat) : Nat := bits w 44 1
def bindSlotS (w : Nat) : Nat := bits w 48 12
def bindBindS (w : Nat) : Nat := bits w 60 1

/-! ### Parameter table entry (Table 5.8) -/

def parId (w : Nat) : Nat := bits w 0 32
def parBase (w : Nat) : Nat := bits w 32 40
def parBytes (w : Nat) : Nat := bits w 72 40
def parGradUses (w : Nat) : Nat := bits w 112 16
def parGradOp (w : Nat) : Nat := bits w 128 32

/-! ### Bucket table entry (Table 12.2) -/

def bktParamId (w : Nat) : Nat := bits w 0 32

/-! ### Layout entry (Table 5.10) -/

def layRegionId (w : Nat) : Nat := bits w 0 32
def layLd (w : Nat) : Nat := bits w 32 16
def layTrows (w : Nat) : Nat := bits w 64 40
def layTcols (w : Nat) : Nat := bits w 104 40
def layRow0 (w : Nat) : Nat := bits w 144 40
def layCol0 (w : Nat) : Nat := bits w 184 40

/-! ### Signal table entry (Table 8.3) -/

def sigSig (w : Nat) : Nat := bits w 0 13
def sigCls (w : Nat) : Nat := bits w 13 1
def sigInit (w : Nat) : Nat := bits w 32 32

/-! ### Barrier table entry (Table 8.6) -/

def barGroup (w : Nat) : Nat := bits w 0 8
def barMask (w : Nat) : Nat := bits w 512 1536

/-! ### Graph image header (Table 9.2) -/

def imgMagic (w : Nat) : Nat := bits w 0 32
def imgVersion (w : Nat) : Nat := bits w 32 16
def imgLadderEval (w : Nat) : Nat := bits w 48 1
def imgPersistent (w : Nat) : Nat := bits w 49 1
def imgFabric (w : Nat) : Nat := bits w 50 1
def imgImageBytes (w : Nat) : Nat := bits w 64 32
def imgGeomId (w : Nat) : Nat := bits w 96 32
def imgPblockBytes (w : Nat) : Nat := bits w 128 32
def imgImageCrc (w : Nat) : Nat := bits w 192 64

/-! ### WORK entry (Table 9.3) -/

def wrkObserver (w : Nat) : Nat := bits w 0 11
def wrkOffset (w : Nat) : Nat := bits w 32 32
def wrkCount (w : Nat) : Nat := bits w 64 32

/-! ### Region entry (Table 9.4) -/

def regId (w : Nat) : Nat := bits w 0 32
def regKind (w : Nat) : Nat := bits w 32 2
def regSpace (w : Nat) : Nat := bits w 34 4
def regShared (w : Nat) : Nat := bits w 38 1
def regCarry (w : Nat) : Nat := bits w 39 1
def regWritten (w : Nat) : Nat := bits w 40 1
def regBase (w : Nat) : Nat := bits w 64 64
def regBytes (w : Nat) : Nat := bits w 128 40

/-! ### Claim (Table 9.5) -/

def clmShelves (w : Nat) : Nat := bits w 0 1280
def clmEngines (w : Nat) : Nat := bits w 1280 128
def clmCommons (w : Nat) : Nat := bits w 1408 8
def clmConst (w : Nat) : Nat := bits w 1416 8
def clmCtxBase (w : Nat) : Nat := bits w 1424 40
def clmCtxBytes (w : Nat) : Nat := bits w 1464 40
def clmPorts (w : Nat) : Nat := bits w 1504 14

/-! ### RULES entry (Table 9.3) -/

def rulSlot (w : Nat) : Nat := bits w 0 12
def rulRule (w : Nat) : Nat := bits w 128 128

/-! ### Submission slot (Table 9.8) -/

def subGraph (w : Nat) : Nat := bits w 0 10
def subWaitPrev (w : Nat) : Nat := bits w 10 1
def subCplAbandon (w : Nat) : Nat := bits w 11 1
def subInlineLen (w : Nat) : Nat := bits w 16 5
def subInlineOff (w : Nat) : Nat := bits w 32 16
def subCplKind (w : Nat) : Nat := bits w 48 2
def subCplMod (w : Nat) : Nat := bits w 50 14
def subCplSig (w : Nat) : Nat := bits w 64 13
def subCplVal (w : Nat) : Nat := bits w 96 32
def subCplAddr (w : Nat) : Nat := bits w 128 64
def subAccount (w : Nat) : Nat := bits w 192 64
def subCtag (w : Nat) : Nat := bits w 256 64
def subInline (w : Nat) : Nat := bits w 320 128
def subStatus (w : Nat) : Nat := bits w 496 8
def subOwn (w : Nat) : Nat := bits w 511 1

/-! ### Blocked layout (R140-R142) -/

/-- Block sizes of Table 5.1 by element: format codes, 16 for the 16-byte compare record and 17 for the
8-byte one. -/
def blockBytes (c : Nat) : Nat :=
  if c = 16 then 4096 else if c = 17 then 2048 else 32 * fmtBits c

/-- The byte address of the element part of a block: q = bi × LD + bj (R140, R141). -/
def blockAddr (c base ld bi bj : Nat) : Nat :=
  let q := bi * ld + bj
  if c = 6 then base + 1152 * (q / 8) + 128 * (q % 8) else base + q * blockBytes c

/-- The address of the scale of stored block row i of a Grog4 block (R141). -/
def scaleAddr (base ld bi bj i : Nat) : Nat :=
  let q := bi * ld + bj
  base + 1152 * (q / 8) + 1024 + 16 * (q % 8) + i

/-- The address of the byte that holds stored element (row, col), and the element's bytes. -/
def elemAddr (c base ld row col : Nat) : Nat :=
  let b := blockAddr c base ld (row / 16) (col / 16)
  let i := row % 16
  let j := col % 16
  if c = 6 ∨ c = 8 then b + 8 * i + j / 2
  else b + (16 * i + j) * (blockBytes c / 256)

/-- Read stored element (row, col). -/
def readElem (m : Memory) (c base ld row col : Nat) : Val :=
  let a := elemAddr c base ld row col
  if c = 6 then
    decodeGrog (bits (mread m a).toNat (4 * (col % 2)) 4)
      (mread m (scaleAddr base ld (row / 16) (col / 16) (row % 16))).toNat
  else if c = 8 then decodeInt 4 (bits (mread m a).toNat (4 * (col % 2)) 4)
  else decode c (leNat (mreadN m a (fmtBits c / 8)))

/-- The least bytes of a tensor of whole blocks: rows × cols stored elements (R140, R141). -/
def tensorBytes (c ld rows cols : Nat) : Nat :=
  if rows = 0 ∨ cols = 0 then 0
  else
    let q := ((rows - 1) / 16) * ld + (cols - 1) / 16
    if c = 6 then 1152 * (q / 8 + 1) else (q + 1) * blockBytes c

/-- A ladder index as a format code: Grog4, Slip8e4, Slip8e5, Glaze16. -/
def ladderCode (i : Nat) : Nat := if i = 0 then 6 else if i = 1 then 5 else if i = 2 then 4 else 3

/-- Two runs of bytes share a byte. -/
def overlaps (a n b m : Nat) : Bool := decide (a < b + m) && decide (b < a + n)

/-- A run of bytes lies inside another. -/
def inside (a n b m : Nat) : Bool := decide (b ≤ a) && decide (a + n ≤ b + m)

end Sys2Proof.Machine
end

