-- ==== Sys2Proof/Machine/Array.lean ====
section
/-! DEFINITION. Machine/Array.lean: what one pass computes and its drain writes (spec/03, spec/04,
spec/05; the witness's exceptions R159). Everything here is a function of the bound descriptor and of
the scratchpad; Machine/Passes.lean places it in the state. -/

namespace Sys2Proof.Machine

/-! ### Gangs (Tables 3.2 and 3.5, R86) -/

def gangRows (g : Nat) : Nat :=
  if g = 0 then 16 else if g = 1 then 32 else if g ≤ 3 then 128 else if g = 4 then 1280 else 2560

def gangCols (g : Nat) : Nat := if g = 0 then 16 else if g = 1 then 32 else if g = 2 then 128 else 2048

def opRows (w : Nat) : Nat := opRowsM1 w + 1
def opCols (w : Nat) : Nat := opColsM1 w + 1
def opVecs (w : Nat) : Nat := opVecM1 w + 1
def opOs (w : Nat) : Bool := opMode w == 1
def opSparse? (w : Nat) : Bool := opSparse w == 1
def opMac (w : Nat) : Bool := opOpcode w == 1
def opFinal? (w : Nat) : Bool := opFinal w == 1
def opInt (w : Nat) : Bool := isInt (opFmtM w)

/-- Logical reduction positions of one chunk (R90, R107). -/
def opUnit (w : Nat) : Nat := if opSparse? w then 32 else 16

/-- Reduction length of the pass (R92). -/
def opLen (w : Nat) : Nat := if opOs w then opVecs w else if opSparse? w then 2 * opRows w else opRows w

def opChunks (w : Nat) : Nat := ceilDiv (if opOs w then opVecs w else opRows w) 16

/-- Index within the operation of the pass's first chunk (R117). -/
def opChunk0 (w : Nat) : Nat := opIdxBase w / opUnit w

/-- The logical kiln and shelf of gang cell (r, c) (R86). -/
def opShelfAt (w r c : Nat) : Nat × Nat :=
  (opKiln w + r / 1280, opShelf w + 16 * (r % 1280 / 128) + c / 128)

/-- Tile row and column of gang cell (r, c) within its shelf. -/
def opTileAt (w r c : Nat) : Nat × Nat :=
  let o := if opGang w ≤ 1 then (opTrow w, opTcol w) else (0, 0)
  (o.1 + r % 128 / 16, o.2 + c % 128 / 16)

/-- The shelves of a gang, as 160 × kiln + shelf. -/
def opShelves (w : Nat) : List Nat :=
  let o := 160 * opKiln w + opShelf w
  if opGang w ≤ 2 then [o] else if opGang w = 3 then (List.range 16).map (o + ·)
  else (List.range (if opGang w = 4 then 160 else 320)).map (160 * opKiln w + ·)

/-- The logical tiles of a gang, as 64 × (160 × kiln + shelf) + 8 × row + column. -/
def opTiles (w : Nat) : List Nat :=
  if opGang w ≤ 1 then
    let n := opGang w + 1
    (List.range n).flatMap fun i => (List.range n).map fun j =>
      64 * (160 * opKiln w + opShelf w) + 8 * (opTrow w + i) + (opTcol w + j)
  else (opShelves w).flatMap fun s => (List.range 64).map (64 * s + ·)

/-- Two gangs share a tile. -/
def tilesMeet (w v : Nat) : Bool := (opTiles w).any (has (opTiles v))

/-- A shelf-view address as a module-view address; the commons ignore the shelf (Table 7.2). -/
def shelfView (ks : Nat × Nat) (a : Nat) : Nat :=
  ks.1 * 2 ^ 33 + (if bit a 24 then 2 ^ 24 else ks.2 * 2 ^ 25) + a % 2 ^ 24

/-- A module-view address with the shelf of a commons address ignored (Table 7.2). -/
def scratchKey (a : Nat) : Nat := if bit a 24 then a - bits a 25 8 * 2 ^ 25 else a

/-- Half cycles of one vector or step: the slower format of the pair (Table 3.1). -/
def halfCycles (w : Nat) : Nat :=
  let h := fun c => if c = 6 ∨ c = 8 then 1 else if c = 1 then 16 else if c = 2 ∨ c = 3 then 4 else 2
  max (h (opFmtM w)) (h (opFmtS w))

/-! ### Operands (Table 5.3, R429) -/

def swapIf (b : Bool) (p : Nat × Nat) : Nat × Nat := if b then (p.2, p.1) else p

/-- Stationary element of cell (r, c) in WS and IS. -/
def statAt (m : Memory) (w r c : Nat) : Val :=
  let p := swapIf ((opMode w == 2) != (opTransS w == 1)) (r % 128, c % 128)
  readElem m (opFmtS w) (shelfView (opShelfAt w r c) (opSAddr w)) (opSLd w) p.1 p.2

/-- North element of step k and column c in OS. -/
def northAt (m : Memory) (w k c : Nat) : Val :=
  let p := swapIf (opTransS w == 1) (k, c % 128)
  readElem m (opFmtS w) (shelfView (opShelfAt w 0 c) (opSAddr w)) (opSLd w) p.1 p.2

/-- Metadata nibble of cell column c and the group of cell row r (R105). -/
def nibbleAt (m : Memory) (w r c : Nat) : Nat :=
  let p := swapIf ((opMode w == 2) != (opTransS w == 1)) (r % 128 / 16, c % 128 / 16)
  let b := shelfView (opShelfAt w r c) (opMetaAddr w) + 64 * (p.1 * opSLd w + p.2)
  let g := r % 16 / 2
  bits (mread m (b + 4 * (c % 16) + g / 2)).toNat (4 * (g % 2)) 4

/-- The six valid nibbles (R105). -/
def nibbleOk (n : Nat) : Bool := has [0x4, 0x8, 0xC, 0x9, 0xD, 0xE] n

/-- West element that meets cell row r in vector or step t; `i` picks the element of a two-of-four
group (R104). -/
def westAt (m : Memory) (w r t i : Nat) : Val :=
  let n := if bit (opMAddr w) 24 then 1280 else 128
  let row := if opSparse? w then 4 * (r % n / 2) + i else r % n
  let p := swapIf ((opMode w != 0) != (opTransM w == 1)) (t, row)
  readElem m (opFmtM w) (shelfView (opShelfAt w r 0) (opMAddr w)) (opMLd w) p.1 p.2

/-! ### Outputs: (a, c) is vector a and column c in WS and IS, cell (a, c) in OS -/

/-- Number of rows of outputs. -/
def outCount (w : Nat) : Nat := if opOs w then opRows w else opVecs w

/-- Where an output's partial sum is read (R429). -/
def psumShelf (w a c : Nat) : Nat × Nat := opShelfAt w (if opOs w then a else 0) c

/-- The shelf an output's results and saggar entries go to (R429). -/
def outShelf (w a c : Nat) : Nat × Nat := opShelfAt w (if opOs w then a else gangRows (opGang w) - 1) c

/-- An output's stored coordinates within its part (R144). -/
def outCoord (w a c : Nat) : Nat × Nat :=
  if opOs w then (a % 128, c % 128) else swapIf (opMode w == 2) (a, c % 128)

/-- The cell where an output leaves the array (R432), and the cell of a chunk's addition (Table 4.4). -/
def leaveRow (w a : Nat) : Nat := if opOs w then a else opRowsM1 w
def chunkRow (w a j : Nat) : Nat := if opOs w then a else 16 * j + 15

/-- The accumulator's format, the format the drain writes (R101, R116, R108). -/
def accFmt (w : Nat) : Nat := if opMac w then (if opInt w then 9 else 1) else 16

/-- Target format and scale exponent of a CVT word under a firing's ladder snapshot (R60, R148). -/
def cvtTarget (ladder : Tab Nat) (cvt : Nat) : Nat × Int :=
  if cvtTgt cvt = 0xF then
    let st := tget 0 ladder (cvtGaugeId cvt)
    (ladderCode (ladFmt st), signed 8 (ladScx st))
  else (cvtTgt cvt, signed 8 (cvtScx cvt))

def outFmt (ladder : Tab Nat) (w : Nat) : Nat :=
  if opMac w then (if opFinal? w then (cvtTarget ladder (opCvt w)).1 else accFmt w)
  else if opFinal? w then 17 else 16

/-- One part of the output area: its shelf, the first gang row and column it serves, and its stored
rows and columns. -/
structure Part where
  shelf : Nat × Nat
  row0 : Nat
  col0 : Nat
  rows : Nat
  cols : Nat
  deriving DecidableEq, Repr

def outParts (w : Nat) : List Part :=
  (List.range (if opOs w then ceilDiv (opRows w) 128 else 1)).flatMap fun i =>
    (List.range (ceilDiv (opCols w) 128)).map fun j =>
      let nc := min 128 (opCols w - 128 * j)
      let nr := min 128 (opRows w - 128 * i)
      let d := if opOs w then (nr, nc) else swapIf (opMode w == 2) (opVecs w, nc)
      ⟨outShelf w (128 * i) (128 * j), 128 * i, 128 * j, d.1, d.2⟩

/-- The output at stored (x, y) of a part. -/
def Part.output (p : Part) (w x y : Nat) : Nat × Nat :=
  if opOs w then (p.row0 + x, p.col0 + y) else if opMode w = 2 then (y, p.col0 + x) else (x, p.col0 + y)

/-! ### Logical positions (R430) -/

/-- Where an address of a space is kept: the commons ignore the shelf. -/
def spaceKey (sp a : Nat) : Nat := if sp = 1 then scratchKey a else a

/-- A run of bytes lies in copy 0 of a region. -/
def regHolds (r space a n : Nat) : Bool :=
  regSpace r == space && inside (spaceKey space a) n (spaceKey space (regBase r)) (regBytes r)

/-- The region entry, in a space, whose copy 0 holds an address. -/
def regionAt (regions : List Nat) (space a : Nat) : Option Nat := regions.find? fun r => regHolds r space a 1

/-- Bytes from a region's base to an address in it. -/
def regOff (r a : Nat) : Nat := spaceKey (regSpace r) a - spaceKey (regSpace r) (regBase r)

def layoutOf (layouts : List Nat) (r : Nat) : Option Nat := layouts.find? fun l => layRegionId l == regId r

/-- The number of the block that lies `off` bytes from a region's base (R140, R141). -/
def blockNo (c off : Nat) : Nat := if c = 6 then 8 * (off / 1152) + off % 1152 / 128 else off / blockBytes c

/-- Logical row, logical column and TCOLS of element (i, j) of block q of a region. -/
def logicalAt (l q i j : Nat) : Nat × Nat × Nat :=
  (layRow0 l + 16 * (q / layLd l) + i, layCol0 l + 16 * (q % layLd l) + j, layTcols l)

/-- The same for an element that is not padding (R430). -/
def logicalPos (l q i j : Nat) : Option (Nat × Nat × Nat) :=
  let p := logicalAt l q i j
  if p.1 < layTrows l ∧ p.2.1 < layTcols l then some p else none

/-- The logical position of stored (x, y) of a tensor with block rows of `ld` blocks at an address: its block
is found from where it lies. A region without a layout entry counts its own window row by row. -/
def storedPos (regions layouts : List Nat) (c a ld x y : Nat) : Option (Nat × Nat × Nat) :=
  match (regionAt regions 1 a).bind fun r => (layoutOf layouts r).map fun l => (r, l) with
  | some (r, l) => logicalPos l (blockNo c (regOff r a) + x / 16 * ld + y / 16) (x % 16) (y % 16)
  | none => some (x, y, 16 * ld)

/-- R430: element index and block index of a logical position. -/
def elemIndex (p : Nat × Nat × Nat) : Nat := p.1 * p.2.2 + p.2.1
def blockIndex (p : Nat × Nat × Nat) : Nat := p.1 / 16 * ceilDiv p.2.2 16 + p.2.1 / 16

/-! ### The pass -/

/-- What a pass reads besides its descriptor: the stationary elements and the starting accumulators that its
cells hold (by 2,048 × gang row + column), the scratchpad, the graph's tables, the graph seed, the firing,
its ladder snapshot, the passes of the operation before it, a free value's number, and what goes wrong. -/
structure PassIn where
  w : Nat
  stat : Tab (Val × Nat)
  starts : Tab Idx
  mem : Memory
  regions : List Nat
  layouts : List Nat
  seed : Nat
  fseq : Nat
  ladder : Tab Nat
  passNo : Nat
  fresh : Nat
  errs : List PassErr
  deriving DecidableEq, Repr

/-- Logical position of stored (x, y) of an output part. -/
def PassIn.pos (p : PassIn) (pt : Part) (x y : Nat) : Option (Nat × Nat × Nat) :=
  storedPos p.regions p.layouts (outFmt p.ladder p.w) (shelfView pt.shelf (opOAddr p.w)) (opOLd p.w) x y

/-- The part that an output goes to. -/
def partOf (w a c : Nat) : Part :=
  ⟨outShelf w a c, if opOs w then 128 * (a / 128) else 0, 128 * (c / 128), 0, 0⟩

/-- Element index of an output; padding outputs report nothing. -/
def PassIn.elem (p : PassIn) (a c : Nat) : Option Nat :=
  let xy := outCoord p.w a c
  (p.pos (partOf p.w a c) xy.1 xy.2).map elemIndex

/-- An occurrence at gang cell (r, c) for output (a, c). -/
def PassIn.occ (p : PassIn) (flags src k a c r : Nat) : List Occ :=
  if flags = 0 then [] else
  match p.elem a c with
  | none => []
  | some e =>
    let ks := opShelfAt p.w r c
    let t := opTileAt p.w r c
    [⟨flags, opOpIndex p.w, e, src, k, p.passNo, ks.1, ks.2, t.1, t.2, c % 16, r % 16⟩]

/-- One present term of a chunk: its product, reduction position within the pass, cell row, flags and
the flags of the group's metadata. -/
structure Term where
  v : Val
  k : Nat
  r : Nat
  flags : Nat
  metaFlags : Nat
  deriving DecidableEq, Repr

/-- A product; a zero of an integer product has no sign. -/
def opProduct (w : Nat) (x y : Val) : Val × Nat :=
  let p := product x y
  if opInt w && p.1.isZero then (.zero, p.2) else p

/-- The stationary element and nibble of gang cell (r, c). -/
def PassIn.held (p : PassIn) (r c : Nat) : Val × Nat := tget (Val.zero, 0) p.stat (2048 * r + c)

/-- R104-R106: the term of physical row r, column c, vector a under two-of-four form. -/
def PassIn.sparseTerm (p : PassIn) (a c r : Nat) : Term :=
  let h := p.held r c
  let n := h.2
  if nibbleOk n then
    let i := if r % 2 = 0 then n % 4 else n / 4
    let q := opProduct p.w (westAt p.mem p.w r a i) h.1
    ⟨q.1, 4 * (r / 2) + i, r, q.2, 0⟩
  else ⟨if opInt p.w then .zero else .nan false, 4 * (r / 2), r, 0,
    if r % 2 = 0 then flInvalid + flMetaBad else 0⟩

/-- The terms of chunk j of output (a, c) in increasing k (R90, R91). -/
def PassIn.terms (p : PassIn) (a c j : Nat) : List Term :=
  let n := if opOs p.w then opVecs p.w else opRows p.w
  (List.range (min 16 (n - 16 * j))).map fun i =>
    let k := 16 * j + i
    if opOs p.w then
      let q := opProduct p.w (westAt p.mem p.w a k 0) (northAt p.mem p.w k c)
      ⟨q.1, k, a, q.2, 0⟩
    else if opSparse? p.w then p.sparseTerm a c k
    else
      let q := opProduct p.w (westAt p.mem p.w k a 0) (p.held k c).1
      ⟨q.1, k, k, q.2, 0⟩

/-- What the checksum column sees of one chunk of a share (R156): the output, the chunk, the value that
enters and the value that leaves. -/
structure Tap where
  share : Nat
  a : Nat
  c : Nat
  j : Nat
  enter : Idx
  leave : Idx
  deriving DecidableEq, Repr

/-- What a pass accumulates: running values by 2048 × a + c, generators by tile, occurrences, shares
not checked by value, exact predicted sums by share, ±0 × ±∞ products and INT32 saturations by shelf, the
last chunk and index by gang cell, the shares that did not compute correctly, and the taps of the shares
that an error names. -/
structure PassAcc where
  accs : Tab Idx
  gens : Tab Nat
  occs : List Occ
  skips : List Nat
  preds : Tab Val
  infZero : Tab Nat
  intSat : Tab Nat
  lasts : Tab Idx
  wrong : List Nat
  taps : List Tap
  deriving DecidableEq, Repr

/-- The share of chunk j of output (a, c) (R156): its tile, and the moving vector in WS and IS. -/
def shareKey (w a c j : Nat) : Nat :=
  let r := chunkRow w a j
  let ks := opShelfAt w r c
  let t := opTileAt w r c
  65536 * (64 * (160 * ks.1 + ks.2) + 8 * t.1 + t.2) + (if opOs w then 0 else a)

def shelfNo (ks : Nat × Nat) : Nat := 160 * ks.1 + ks.2

/-- Seed of the generator of the tile of gang cell (r, c) under ACC_SR (R123). -/
def PassIn.tileSeed (p : PassIn) (r c : Nat) : Nat :=
  let ks := opShelfAt p.w r c
  let t := opTileAt p.w r c
  seedOf (natLe 8 p.seed ++ natLe 8 p.fseq ++ natLe 4 (opOpIndex p.w) ++ natLe 4 (opIdxBase p.w) ++
    natLe 1 ks.1 ++ natLe 1 ks.2 ++ natLe 1 t.1 ++ natLe 1 t.2)

/-- A record's value; a NaN takes part as the canonical one (R126). -/
def recordVal (x : Nat) : Val := match decodeFlt 0 x with
  | .nan _ => .nan false
  | v => v

/-- The value an output starts from, as the scratchpad has it (R113, R116). -/
def psumAt (m : Memory) (w a c : Nat) : Idx :=
  if opPsumIn w = 1 then
    let xy := outCoord w a c
    let b := shelfView (psumShelf w a c) (opPAddr w)
    if opMac w then (readElem m (accFmt w) b (opPLd w) xy.1 xy.2, 0)
    else
      let e := mreadN m (elemAddr 16 b (opPLd w) xy.1 xy.2) 16
      (recordVal (field e 0 8), field e 8 4)
  else (if opInt w then .zero else .negZero, 0)

/-- The value an output starts from: it enters from the north in WS and IS, and is preloaded in OS (R89). -/
def PassIn.start (p : PassIn) (a c : Nat) : Idx :=
  if opOs p.w then tget (Val.negZero, 0) p.starts (2048 * a + c) else psumAt p.mem p.w a c

/-- The running value after chunk j of output (a, c), where the right one is `v` (R158). -/
def PassIn.formed (p : PassIn) (a c j : Nat) (v : Idx) : Idx :=
  match p.errs.find? fun e => e.a == a && e.c == c && e.j == j with
  | none => v
  | some e =>
    if opMac p.w then (if opInt p.w then decodeInt 32 (e.code % 2 ^ 32) else decodeFlt 1 e.code, 0)
    else (recordVal e.code, e.idx)

/-- An error names the share. -/
def PassIn.tapped (p : PassIn) (share : Nat) : Bool := p.errs.any fun e => shareKey p.w e.a e.c e.j == share

/-- Equal values, −0 and +0 unequal. -/
def Val.same (a b : Val) : Bool := a == b || (a.finite && b.finite && !a.lt b && !b.lt a)

/-- A chunk has been added: the new running value, what the taps saw and what the cell holds. -/
def PassAcc.step (p : PassIn) (s : PassAcc) (a c j : Nat) (right : Idx) (ch : Val) : PassAcc :=
  let w := p.w
  let key := 2048 * a + c
  let share := shareKey w a c j
  let old := tget (Val.zero, 0) s.accs key
  let v := p.formed a c j right
  let ok := v.1.same right.1 && v.2 == right.2
  { s with
    accs := tput s.accs key v
    lasts := tput s.lasts (2048 * chunkRow w a j + c) (ch, v.2)
    wrong := if ok then s.wrong else addNew s.wrong share
    taps := if p.tapped share then s.taps ++ [⟨share, a, c, j, old, v⟩] else s.taps
    skips := if old.1.finite && v.1.finite then s.skips else addNew s.skips share }

def clampInt (x : Int) : Int := max (-(2 ^ 31 - 1)) (min (2 ^ 31 - 1) x)

/-- The INT32 value of an integer accumulator or chunk. -/
def Val.toInt (v : Val) : Int := v.units 0

/-- Chunk j joins output (a, c) (R112, R122, R125). -/
def PassIn.addChunk (p : PassIn) (s : PassAcc) (a c j : Nat) : PassAcc :=
  let w := p.w
  let key := 2048 * a + c
  let ts := p.terms a c j
  let r := chunkRow w a j
  let k0 := opIdxBase w + opUnit w * j
  let share := shareKey w a c j
  let prodOccs := ts.flatMap fun t =>
    p.occ t.flags 1 (opIdxBase w + t.k) a c t.r ++ p.occ t.metaFlags 7 (opIdxBase w + t.k) a c t.r
  let infZero := ts.foldl (fun tb t =>
    if hasFlag t.flags flInfZero then
      let sh := shelfNo (opShelfAt w t.r c)
      tput tb sh (tget 0 tb sh + 1)
    else tb) s.infZero
  let old := (tget (Val.zero, 0) s.accs key).1
  let finiteTerms := ts.all (·.v.finite)
  let preds := if finiteTerms then
      tput s.preds share (exactSum false (tget .zero s.preds share :: ts.map (·.v)))
    else s.preds
  let ch := chunk (ts.map (·.v))
  let chv := ch.1.scale (signed 8 (opScl w))
  if opInt w then
    let x := old.toInt + chv.toInt
    let y := clampInt x
    let sat := x ≠ y
    { s.step p a c j (.num (y < 0) y.natAbs 0, 0) ch.1 with
      occs := s.occs ++ prodOccs ++ p.occ (if sat then flSat + flOverflow else 0) 2 k0 a c r
      skips := if sat then addNew s.skips share else s.skips
      preds := preds
      infZero := infZero
      intSat := if sat then
          let sh := shelfNo (opShelfAt w r c)
          tput s.intSat sh (tget 0 s.intSat sh + 1)
        else s.intSat }
  else
    let sr := opAccSr w == 1
    let tile := share / 65536
    let g := if sr then tget (p.tileSeed r c) s.gens tile else 0
    let x := accAdd 1 (if sr then 2 else 0) g old chv
    let y := decodeFlt 1 x.bits
    let t := s.step p a c j (y, 0) ch.1
    { t with
      gens := if sr then tput s.gens tile x.gen else s.gens
      occs := s.occs ++ prodOccs ++ p.occ (ch.2 ||| x.flags) 2 k0 a c r
      skips := if finiteTerms then t.skips else addNew t.skips share
      preds := preds
      infZero := infZero }

/-- The products that chunk j of a comparison compares, with their indices. -/
def PassIn.cands (p : PassIn) (a c j : Nat) : List Idx :=
  (p.terms a c j).map fun t => (t.v.scale (signed 8 (opScl p.w)), opIdxBase p.w + t.k)

/-- A value comes into chunk j of a comparison from above or before: an output without a record read in
holds none until its first product. -/
def PassIn.enters (p : PassIn) (j : Nat) : Bool := j != 0 || opPsumIn p.w == 1

/-- Chunk j of a comparison (R126, R127). -/
def PassIn.cmpChunk (p : PassIn) (s : PassAcc) (a c j : Nat) : PassAcc :=
  let w := p.w
  let ts := p.terms a c j
  let old := tget (Val.zero, noK + 1) s.accs (2048 * a + c)
  let cands := p.cands a c j
  let win := (winner (opOpcode w == 2) (if p.enters j then old :: cands else cands)).getD old
  let t := s.step p a c j win .zero
  { t with
    occs := s.occs ++ ts.flatMap fun t => p.occ t.flags 1 (opIdxBase w + t.k) a c t.r
    skips := if cands.all (·.1.finite) then t.skips else addNew t.skips (shareKey w a c j)
    infZero := ts.foldl (fun tb t =>
      if hasFlag t.flags flInfZero then
        let sh := shelfNo (opShelfAt w t.r c)
        tput tb sh (tget 0 tb sh + 1)
      else tb) s.infZero }

/-- An addition in time: cycle, cell row, cell column, output row, chunk (R123). -/
abbrev Ev := Nat × Nat × Nat × Nat × Nat

/-- The order of additions in time. Of two sum lanes of one cell in one cycle the lower vector draws first. Log 114. -/
def evBefore (x y : Ev) : Bool :=
  x.1 < y.1 || (x.1 == y.1 && (x.2.1 < y.2.1 || (x.2.1 == y.2.1 && (x.2.2.1 < y.2.2.1 ||
    (x.2.2.1 == y.2.2.1 && x.2.2.2.1 < y.2.2.2.1)))))

def insertEv (e : Ev) : List Ev → List Ev
  | [] => [e]
  | x :: r => if evBefore e x then e :: x :: r else x :: insertEv e r

/-- All additions of a pass as (a, c, j); in the time order of R123 when the tile generators draw. -/
def passEvents (w : Nat) : List (Nat × Nat × Nat) :=
  let l := (List.range (opChunks w)).flatMap fun j => (List.range (outCount w)).flatMap fun a =>
    (List.range (opCols w)).map fun c => (a, c, j)
  if opAccSr w = 1 then
    let ev := l.map fun (a, c, j) =>
      let step := if opOs w then min (16 * j + 15) (opVecM1 w) else a
      let r := chunkRow w a j
      ((step * halfCycles w / 2 + r + c, r, c, a, j) : Ev)
    (ev.foldr insertEv []).map fun e => (e.2.2.2.1, e.2.2.1, e.2.2.2.2)
  else l

/-- Accumulate a whole pass. -/
def PassIn.run (p : PassIn) : PassAcc :=
  let accs := (List.range (outCount p.w)).flatMap fun a => (List.range (opCols p.w)).map fun c =>
    (2048 * a + c, p.start a c)
  (passEvents p.w).foldl (fun s e =>
    if opMac p.w then p.addChunk s e.1 e.2.1 e.2.2 else p.cmpChunk s e.1 e.2.1 e.2.2)
    ⟨accs, [], [], [], [], [], [], [], [], []⟩

/-- The shares not checked by value (R159), a share being a tile with a moving vector in WS and IS: those
met in the run and those whose predicted magnitude exceeds 2^128. -/
def PassIn.skipped (p : PassIn) (s : PassAcc) : List Nat :=
  let big := (s.preds.filter fun q => match q.2.scale (signed 8 (opScl p.w)) with
    | .num _ m e => cmpMag m e 1 128 == .gt
    | _ => false).map (·.1)
  big.foldl addNew s.skips

/-! ### The witness (R156-R158) -/

/-- Exact |a − b| of sums. -/
def sumGap (a b : List Val) : Val := (exactSum false (a ++ b.map Val.flip)).abs

def Val.atMost (a b : Val) : Bool := !b.lt a

/-- An exact multiple of a value. -/
def Val.times (n : Nat) : Val → Val
  | .num s m e => .num s (n * m) e
  | v => v

/-- Roundings per output and outputs of a share: n and g of Tables 6.1 and 6.2. Log 115. -/
def roundings (w : Nat) : Nat := if opOs w then ceilDiv (opVecs w) 16 else 1
def shareOutputs (w : Nat) : Nat := if opOs w then 256 else 16

/-- The products of a tap, with 2^SCL. -/
def PassIn.tapTerms (p : PassIn) (t : Tap) : List Val := (p.cands t.a t.c t.j).map (·.1)

/-- Predicted and actual sum of a share differ by this (Table 6.1). In OS the values between the first
chunk and the last cancel. -/
def PassIn.witGap (p : PassIn) (ts : List Tap) : Val :=
  sumGap (ts.flatMap p.tapTerms) (ts.map (·.leave.1) ++ ts.map (·.enter.1.flip))

/-- The magnitude B of a share. -/
def PassIn.witMag (p : PassIn) (ts : List Tap) : Val :=
  exactSum false ((((ts.filter fun t => !opOs p.w || t.j == 0).map (·.enter.1)) ++ ts.flatMap p.tapTerms).map Val.abs)

/-- The floating test of Table 6.2. R156 lets the cones' sums lie within 2^-45 × B of the exact ones: a gap
that passes whatever they are passes, one beyond the bound fails (R158), and between the two the verdict
is free. Log 115. -/
def PassIn.fltPasses (p : PassIn) (share : Nat) (ts : List Tap) : Bool :=
  let n := roundings p.w
  let b := p.witMag ts
  let d := p.witGap ts
  let rounding := [(b.times n).scale (if opAccSr p.w = 1 then -23 else -24), .num false (shareOutputs p.w * n) (-149)]
  if d.atMost (exactSum false rounding) then true
  else if (exactSum false (b.scale (-44) :: rounding)).lt d then false
  else Config.witness p.fresh share

/-- The compare test of Table 6.2: the best value among the winners is the best of the products and of the
values that came in, and every winner's value is the product at its index. One that came in, with its
own value and index, is checked by value only. Log 115. -/
def PassIn.cmpPasses (p : PassIn) (ts : List Tap) : Bool :=
  let mx := opOpcode p.w == 2
  let first := ts.filter fun t => (!opOs p.w || t.j == 0) && p.enters t.j
  let last := ts.filter fun t => !opOs p.w || t.j + 1 == opChunks p.w
  let best := fun (l : List Idx) => (winner mx l).map (·.1)
  let asked := best (first.map (·.enter) ++ ts.flatMap fun t => p.cands t.a t.c t.j)
  let given := best (last.map (·.leave))
  let valueOk := match asked, given with
    | some x, some y => x.same y
    | _, _ => true
  valueOk && last.all fun t =>
    let own := ts.filter fun u => u.a == t.a && u.c == t.c
    (first.any fun u => u.a == t.a && u.c == t.c && u.enter.2 == t.leave.2 && u.enter.1.same t.leave.1) ||
      (own.flatMap fun u => p.cands u.a u.c u.j).any fun q => q.2 == t.leave.2 && q.1.same t.leave.1

/-- A share that did not compute correctly is tested; one that did passes (R158). -/
def PassIn.sharePasses (p : PassIn) (s : PassAcc) (share : Nat) : Bool :=
  let ts := s.taps.filter fun t => t.share == share
  if !opMac p.w then p.cmpPasses ts
  else if opInt p.w then (p.witGap ts).isZero
  else p.fltPasses share ts

/-- The tiles with a failing share, each once, in rising order: 64 × shelf number + 8 × row + column. -/
def PassIn.failing (p : PassIn) (s : PassAcc) : List Nat :=
  let skip := p.skipped s
  let bad := (s.wrong.filter fun k => !has skip k && !p.sharePasses s k).map (· / 65536)
  (opTiles p.w).filter (has bad)

/-! ### The drain (R101, R112, R119, R142, R430) -/

/-- Bytes of a block from its 256 element codes in row order. -/
def blockData (c : Nat) (els : List Nat) : Bytes :=
  if c = 6 ∨ c = 8 then
    (List.range 128).map fun i => BitVec.ofNat 8 (els[2 * i]?.getD 0 % 16 + 16 * (els[2 * i + 1]?.getD 0 % 16))
  else els.flatMap (natLe (blockBytes c / 256))

/-- Cut a list into n runs of 16. -/
def rows16 {α : Type} : Nat → List α → List (List α)
  | 0, _ => []
  | n + 1, l => l.take 16 :: rows16 n (l.drop 16)

/-- One converted block: element codes in row order, scales (Grog4), what each element did. -/
structure CvtBlock where
  codes : List Nat
  scales : List Nat
  results : List (Option Cvt)
  deriving DecidableEq, Repr

/-- Convert the 256 elements of a block in row order; `none` is padding (R67, R70, R142). -/
def convertBlock (tgt rnd : Nat) (sat : Bool) (scx : Int) (gen : Nat) (xs : List (Option Val)) : CvtBlock :=
  if tgt = 6 then
    let r := (rows16 16 xs).foldl (fun (acc : List Nat × List Nat × List (Option Cvt) × Nat) row =>
      let g := grogBlock rnd scx acc.2.2.2 row
      (acc.1 ++ g.els.map (·.bits), acc.2.1 ++ [g.scale],
        acc.2.2.1 ++ (row.zip g.els).map (fun q => q.1.map fun _ => q.2), g.gen)) ([], [], [], gen)
    ⟨r.1, r.2.1, r.2.2.1⟩
  else
    let r := xs.foldl (fun (acc : List Nat × List (Option Cvt) × Nat) x =>
      match x with
      | none => (acc.1 ++ [0], acc.2.1 ++ [none], acc.2.2)
      | some v =>
        let q := convert tgt rnd sat scx acc.2.2 v
        (acc.1 ++ [q.bits], acc.2.1 ++ [some q], q.gen)) ([], [], gen)
    ⟨r.1, [], r.2.1⟩

/-- The seed of an output block under SR (R70). -/
def blockSeed (seed fseq op idx : Nat) : Nat :=
  seedOf (natLe 8 seed ++ natLe 8 fseq ++ natLe 4 op ++ natLe 4 idx)

/-- What a drain leaves: bytes to write, occurrences, gauges. -/
structure Drained where
  writes : List (Nat × Bytes)
  occs : List Occ
  gauges : Tab Gauge
  deriving DecidableEq, Repr

def Drained.empty : Drained := ⟨[], [], []⟩

def Drained.join (a b : Drained) : Drained := ⟨a.writes ++ b.writes, a.occs ++ b.occs, mergeGauges a.gauges b.gauges⟩

/-- The (i, j) of a block in row order. -/
def cells256 : List (Nat × Nat) := (List.range 16).flatMap fun i => (List.range 16).map fun j => (i, j)

def partBlocks (pt : Part) : List (Nat × Nat) :=
  (List.range (ceilDiv pt.rows 16)).flatMap fun bi => (List.range (ceilDiv pt.cols 16)).map fun bj => (bi, bj)

/-- Write one block of a part unconverted: `f` gives each output's code, padding is 0. -/
def PassIn.rawBlock (p : PassIn) (c addr : Nat) (pt : Part) (padded : Bool) (f : Nat → Nat → Nat)
    (b : Nat × Nat) : Nat × Bytes :=
  (blockAddr c (shelfView pt.shelf addr) (opOLd p.w) b.1 b.2,
    blockData c (cells256.map fun (i, j) =>
      let x := 16 * b.1 + i
      let y := 16 * b.2 + j
      if pt.rows ≤ x ∨ pt.cols ≤ y ∨ (padded ∧ p.pos pt x y = none) then 0
      else let o := pt.output p.w x y; f o.1 o.2))

def PassIn.raw (p : PassIn) (c addr : Nat) (padded : Bool) (f : Nat → Nat → Nat) : List (Nat × Bytes) :=
  (outParts p.w).flatMap fun pt => (partBlocks pt).map (p.rawBlock c addr pt padded f)

/-- Convert and write one block of the output area (R101). In compare mode the code goes into the low
bits of an 8-byte record with the index above (R108). -/
def PassIn.cvtOutBlock (p : PassIn) (val : Nat → Nat → Idx) (pt : Part) (b : Nat × Nat) : Drained :=
  let w := p.w
  let cv := opCvt w
  let t := cvtTarget p.ladder cv
  let c := outFmt p.ladder w
  let base := shelfView pt.shelf (opOAddr w)
  let at_ := cells256.map fun (i, j) =>
    let x := 16 * b.1 + i
    let y := 16 * b.2 + j
    if pt.rows ≤ x ∨ pt.cols ≤ y then none
    else (p.pos pt x y).map fun q => (q, pt.output w x y)
  let xs := at_.map fun q => q.map fun z => (val z.2.1 z.2.2).1
  let gen := match at_.filterMap id with
    | q :: _ => if cvtRnd cv = 2 then blockSeed p.seed p.fseq (opOpIndex w) (blockIndex q.1) else 0
    | [] => 0
  let k := convertBlock t.1 (cvtRnd cv) (cvtSat cv == 1) t.2 gen xs
  -- a Grog4 element without its scale is not defined in an 8-byte record (log 22)
  let codes := if opMac w then k.codes else (k.codes.zip at_).map fun (code, q) => match q with
    | some z => (if t.1 = 6 then Config.freeNat p.fresh % 2 ^ 32 else code) + 2 ^ 32 * (val z.2.1 z.2.2).2
    | none => 0
  let data := (blockAddr c base (opOLd w) b.1 b.2, blockData c codes)
  let scales := if c = 6 then [(scaleAddr base (opOLd w) b.1 b.2 0, k.scales.map (BitVec.ofNat 8))] else []
  let done := (at_.zip (xs.zip k.results)).filterMap fun (q, x, r) =>
    match q, x, r with
    | some q, some x, some r => some (q, x, r)
    | _, _, _ => none
  { writes := data :: scales
    occs := done.flatMap fun (q, _, r) => p.occ r.flags 4 noK q.2.1 q.2.2 (leaveRow w q.2.1)
    gauges := if cvtGaugeEn cv = 1 then
        [(cvtGaugeId cv, done.foldl (fun g (_, x, r) => g.note x r) .empty)] else [] }

def PassIn.cvtOut (p : PassIn) (val : Nat → Nat → Idx) : Drained :=
  ((outParts p.w).flatMap fun pt => (partBlocks pt).map (p.cvtOutBlock val pt)).foldl Drained.join .empty

/-- The pass ends on a spill position (R118). -/
def spillsHere (w : Nat) : Bool :=
  opSpill w != 0 && ((opChunk0 w + opChunks w) % opSpill w == 0 || opFinal? w)

/-- The first spill of the operation writes its entry (R119). -/
def firstSpill (w : Nat) : Bool := opChunk0 w + opChunks w ≤ opSpill w

/-- The saggar entry of output (a, c) after the drain, with flags (R120, R121). A sum of opposite
infinities is INVALID here too. Log 114. -/
def PassIn.sagAdd (p : PassIn) (acc : Val) (a c : Nat) : Cvt :=
  if firstSpill p.w then roundOp 0 0 0 acc
  else
    let xy := outCoord p.w a c
    let old := readElem p.mem 0 (shelfView (outShelf p.w a c) (opSagAddr p.w)) (opOLd p.w) xy.1 xy.2
    accAdd 0 0 0 old acc

/-- The drain of a pass whose shares all passed. -/
def PassIn.drain (p : PassIn) (s : PassAcc) : Drained :=
  let w := p.w
  let acc := fun a c => tget (Val.zero, 0) s.accs (2048 * a + c)
  let code := fun (v : Val) => if opInt w then unsigned 32 v.toInt else (roundOp 1 0 0 v).bits
  if !opMac w then
    if opFinal? w then p.cvtOut acc
    else
      ⟨p.raw 16 (opOAddr w) true fun a c => (roundOp 0 0 0 (acc a c).1).bits + 2 ^ 64 * (acc a c).2, [], []⟩
  else if spillsHere w then
    let outs := (List.range (outCount w)).flatMap fun a => (List.range (opCols w)).map fun c =>
      (a, c, p.sagAdd (acc a c).1 a c)
    let sags : Tab Cvt := outs.map fun (a, c, r) => (2048 * a + c, r)
    let sag := fun a c => tget (⟨0, 0, 0, false⟩ : Cvt) sags (2048 * a + c)
    let kLast := opIdxBase w + opUnit w * (opChunks w - 1)
    let d : Drained :=
      { writes := p.raw 0 (opSagAddr w) false fun a c => (sag a c).bits
        occs := outs.flatMap fun (a, c, r) => p.occ r.flags 3 kLast a c (leaveRow w a)
        gauges := [] }
    if opFinal? w then d.join (p.cvtOut fun a c => (decodeFlt 0 (sag a c).bits, 0))
    else
      let outs := p.raw (accFmt w) (opOAddr w) true fun _ _ => if opInt w then 0 else 0x80000000
      { d with writes := d.writes ++ outs }
  else if opFinal? w then p.cvtOut acc
  else ⟨p.raw (accFmt w) (opOAddr w) true fun a c => code (acc a c).1, [], []⟩

/-- The drain window: module-view address and bytes of every block that the drain writes, with its scales
(R97). Blocks between two block-rows of the window are none of it. -/
def outExtents (ladder : Tab Nat) (w : Nat) : List (Nat × Nat) :=
  let c := outFmt ladder w
  (outParts w).flatMap fun pt => (partBlocks pt).flatMap fun b =>
    let a := shelfView pt.shelf (opOAddr w)
    (blockAddr c a (opOLd w) b.1 b.2, blockBytes c) ::
      if c = 6 then [(scaleAddr a (opOLd w) b.1 b.2 0, 16)] else []

end Sys2Proof.Machine
end

