-- ==== Sys2Proof/Machine/Mem.lean ====
section
/-! DEFINITION. Machine/Mem.lean: the address spaces (Table 7.1, Table 7.2, Table 7.3), the copies a
firing sees (R258), what lines of the stacks can be read (R178, R180), and the extents of DMA
descriptors (Table 7.5). -/

namespace Sys2Proof.Machine

/-! ### Spaces -/

def sliceBytes : Nat := 0x180000

/-- The hold area: the top 128 MiB of every stack (R317). -/
def holdBytes : Nat := 2 ^ 27

/-- A run of bytes lies within a space and crosses none of its inner bounds (L-052). -/
def spaceOk (sp a n : Nat) : Bool :=
  if sp = 1 then
    decide (a < 2 ^ 36) &&
      (if bit a 24 then inside (a % 2 ^ 24) n 0 (2 ^ 24)
       else decide (bits a 25 8 < 160) && inside (a % 2 ^ 24) n 0 sliceBytes)
  else if sp = 2 then decide (a < 2 ^ 26) && inside (a % 2 ^ 23) n 0 (2 ^ 23)
  else if sp = 3 then decide (a < 2 ^ 40) && inside (a % 2 ^ 36) n 0 (2 ^ 36 - holdBytes)
  else if sp = 4 then decide (a < 2 ^ 54) && inside (a % 2 ^ 36) n 0 (2 ^ 36 - holdBytes)
  else if sp = 5 then decide (a + n ≤ 2 ^ 64)
  else false

/-- The tile-register address of a logical tile's byte (Table 7.1). -/
def tileAddr (kiln shelf row col off : Nat) : Nat :=
  (((kiln * 160 + shelf) * 8 + row) * 8 + col) * 4096 + off % 4096

def State.spaceMem (s : State) (sp : Nat) : Memory :=
  if sp = 0 then s.mem.tile else if sp = 1 then s.mem.scratch else if sp = 2 then s.mem.const
  else if sp = 3 then s.mem.stack else s.mem.host

def State.setSpaceMem (s : State) (sp : Nat) (m : Memory) : State :=
  { s with mem :=
      if sp = 0 then { s.mem with tile := m } else if sp = 1 then { s.mem with scratch := m }
      else if sp = 2 then { s.mem with const := m } else if sp = 3 then { s.mem with stack := m }
      else { s.mem with host := m } }

/-- Read n bytes of a space. Host memory answers with what the host holds: free bytes (log 5). -/
def State.readSpace (s : State) (sp a n : Nat) : Bytes :=
  if sp = 5 then (List.range n).map fun i => Config.hostByte s.fresh (a + i)
  else mreadN (s.spaceMem sp) (spaceKey sp a) n

def State.writeSpace (s : State) (sp a : Nat) (b : Bytes) : State :=
  s.setSpaceMem sp (mwriteN (s.spaceMem sp) (spaceKey sp a) b)

def State.writesSpace (s : State) (sp : Nat) (l : List (Nat × Bytes)) : State :=
  l.foldl (fun s p => s.writeSpace sp p.1 p.2) s

/-- The bytes of a run become undefined. -/
def State.forget (s : State) (sp a n : Nat) : State :=
  if n = 0 then s else
  let t := s.setSpaceMem sp (mforget (s.spaceMem sp) (spaceKey sp a) n s.fresh)
  { t with fresh := t.fresh + 1 }

def State.forgets (s : State) (sp : Nat) (l : List (Nat × Nat)) : State :=
  l.foldl (fun s p => s.forget sp p.1 p.2) s

/-- Module number: the fabric plan position (R41). -/
def State.self (s : State) : Nat := s.rd modCradlePlanPos 0

/-! ### Copies of regions and parameters (R258) -/

/-- The stride from copy 0 to copy 1. -/
def copyStride (bytes : Nat) : Nat := ceilDiv bytes 1024 * 1024

/-- CUR keys: region numbers below 2^32, parameters as 2^32 × (graph + 1) + PARAM_ID. -/
def parKey (graph id : Nat) : Nat := 2 ^ 32 * (graph + 1) + id

/-- The parameter belongs to one of the graph's buckets. -/
def Graph.hasBucket (g : Graph) (p : Nat) : Bool := g.buckets.any fun b => bktParamId b == parId p

/-- Some DMA descriptor of the graph's kiln engines writes a copy of the parameter. -/
def Graph.writesParam (g : Graph) (p : Nat) : Bool :=
  (g.work.filter fun l => decide (1280 ≤ l.1) && decide (l.1 < 1408)).any fun l => l.2.any fun w =>
    has [1, 2, 3] (dmaOp w) && dmaDstSpace w == 3 &&
      inside (dmaDstAddr w) 1 (parBase p) (copyStride (parBytes p) + parBytes p)

/-- The copied things of a graph: key, base, bytes, written (R258). A bucket's parameter is written by
every exchange (R334), another one by the DMA descriptors that name it. -/
def copied (g : Graph) (no : Nat) : List (Nat × Nat × Nat × Bool) :=
  ((g.regions.filter fun r => regKind r == 1).map fun r => (regId r, regBase r, regBytes r, regWritten r == 1)) ++
  g.params.map fun p => (parKey no (parId p), parBase p, parBytes p, g.hasBucket p || g.writesParam p)

/-- The copied things whose descriptors name copy 0: all but the parameters of buckets, whose copies the
image names itself (log 33). -/
def translated (g : Graph) (no : Nat) : List (Nat × Nat × Nat × Bool) :=
  ((g.regions.filter fun r => regKind r == 1).map fun r => (regId r, regBase r, regBytes r, regWritten r == 1)) ++
  (g.params.filter fun p => !g.hasBucket p).map fun p => (parKey no (parId p), parBase p, parBytes p, g.writesParam p)

/-- Where a firing's access to a stack address goes: reads take the copy current at its snapshot,
writes the other one. -/
def stackXlate (g : Graph) (no : Nat) (cur : Tab Nat) (write : Bool) (a : Nat) : Nat :=
  match (translated g no).find? fun c => inside a 1 c.2.1 c.2.2.1 with
  | none => a
  | some c =>
    let copy := if write then 1 - tget 0 cur c.1 else tget 0 cur c.1
    a + copy * copyStride c.2.2.1

def State.xlate (s : State) (f : Firing) (sp : Nat) (write : Bool) (a : Nat) : Nat :=
  if sp = 3 then
    match s.graph? f.graph, f.snap with
    | some g, some sn => stackXlate g f.graph sn.cur write a
    | _, _ => a
  else a

/-! ### Lines of the stacks (R174, R175, R178, R180) -/

def stackOf (a : Nat) : Nat := bits a 36 4
def stripeOf (a : Nat) : Nat := bits a 10 26
def chanOf (a : Nat) : Nat := bits a 6 4
def lineOf (a : Nat) : Nat := a / 64 * 64
def stripeBase (a : Nat) : Nat := a / 1024 * 1024

/-- The lines of a run of bytes. -/
def linesOf (a n : Nat) : List Nat :=
  if n = 0 then [] else (List.range ((a + n - 1) / 64 - a / 64 + 1)).map fun i => 64 * (a / 64 + i)

/-- The lines of a line's stripe. -/
def stripeLines (a : Nat) : List Nat := (List.range 16).map fun i => stripeBase a + 64 * i

/-- The stripe's failed line is in channel 16: the rebuild has passed it, or a write has put it there (R180). -/
def State.stripeRebuilt (s : State) (n stripe : Nat) : Bool :=
  decide (stripe < tget 0 s.mem.reached n) || has (tget [] s.mem.rebuilt n) stripe

/-- The line lies in a failed channel whose stripe is not yet in channel 16 (R180 step 3). A read of it leaves it
there: only a write counts its stripe as rebuilt. Log 121. -/
def State.lineGone (s : State) (line : Nat) : Bool :=
  s.on stkStatusRebuilding (stackOf line) && s.rd stkStatusFailedCh (stackOf line) == chanOf line &&
    !s.stripeRebuilt (stackOf line) (stripeOf line)

/-- The channel's code, or a failed channel, gives no data for the line. -/
def State.lineBad (s : State) (line : Nat) : Bool := has s.mem.badLines line || s.lineGone line

/-- The stripe still has its parity line in channel 16. -/
def State.hasParity (s : State) (line : Nat) : Bool :=
  let n := stackOf line
  !s.on stkStatusNoParity n && !has s.mem.staleParity (stripeBase line) &&
    (!s.on stkStatusRebuilding n || !s.stripeRebuilt n (stripeOf line))

/-- The line can be rebuilt from the stripe's other lines and its parity (R178 step 1). -/
def State.canRebuild (s : State) (line : Nat) : Bool :=
  s.hasParity line && (stripeLines line).all fun l => l == line || !s.lineBad l

/-- The line's read is uncorrectable (R178 step 2). -/
def State.unreadable (s : State) (line : Nat) : Bool := s.lineBad line && !s.canRebuild line

/-- The first uncorrectable line among those of a run. -/
def State.badIn (s : State) (a n : Nat) : Option Nat := (linesOf a n).find? s.unreadable

/-- A line that the channel's code could not correct has been rebuilt and written back. -/
def State.lineRebuilt (s : State) (line : Nat) : State :=
  let s := { s with mem := { s.mem with badLines := s.mem.badLines.filter (· != line) } }
  s.satAdd stkUeRecon (stackOf line) 1

/-- A line is written whole: it reads correctly from then on (R178 step 4, R179); in a rebuilding stack
its stripe counts as rebuilt (R180 step 3). -/
def State.lineWritten (s : State) (line : Nat) : State :=
  let n := stackOf line
  let stale := s.unreadable line && !s.on stkStatusNoParity n && !s.lineGone line
  { s with mem := { s.mem with
      badLines := s.mem.badLines.filter (· != line)
      staleParity := if stale then addNew s.mem.staleParity (stripeBase line) else s.mem.staleParity
      rebuilt := if s.lineGone line then tput s.mem.rebuilt n (addNew (tget [] s.mem.rebuilt n) (stripeOf line))
        else s.mem.rebuilt } }

/-- The lines that a run of bytes covers only in part. -/
def partLines (a n : Nat) : List Nat := (linesOf a n).filter fun l => !inside l 64 a n

/-- A read that no stack can serve: its line's address is recorded and counted (R178 step 2). -/
def State.lineLost (s : State) (line : Nat) : State :=
  (s.satAdd stkUeUe (stackOf line) 1).wr stkUeAddrAddr (stackOf line) line

/-- Lines of a run that the channel's code cannot correct are rebuilt and written back (R178 step 1). -/
def State.rebuildIn (s : State) (a n : Nat) : State := ((linesOf a n).filter s.lineBad).foldl State.lineRebuilt s

/-- A partial write needs the old contents of its lines (R178 step 3). -/
def State.writeBlocked (s : State) (a n : Nat) : Option Nat := (partLines a n).find? s.unreadable

/-- The lines that a run covers in part are read before they are written (R178 step 3). -/
def State.partsRead (s : State) (a n : Nat) : State := ((partLines a n).filter s.lineBad).foldl State.lineRebuilt s

/-- The stripes that a run covers whole: the parity lines come from the new data (R175). -/
def wholeStripes (a n : Nat) : List Nat := (linesOf a n).filter fun l => l % 1024 == 0 && inside l 1024 a n

/-- Write a run of bytes of stack memory; the caller has read the lines written in part. -/
def State.stackWrite (s : State) (a : Nat) (b : Bytes) : State :=
  let s := ((linesOf a b.length).filter fun l => inside l 64 a b.length || s.lineGone l).foldl State.lineWritten s
  let fresh := wholeStripes a b.length
  let s := { s with mem := { s.mem with staleParity := s.mem.staleParity.filter fun x => !has fresh x } }
  s.writeSpace 3 a b

/-- Write a run of bytes of stack memory: no part of it when the old contents it needs are uncorrectable (R178
step 3). -/
def State.store (s : State) (a : Nat) (b : Bytes) : State :=
  match s.writeBlocked a b.length with
  | some l => s.lineLost l
  | none => (s.partsRead a b.length).stackWrite a b

/-- Write a run of bytes of any space. -/
def State.put (s : State) (sp a : Nat) (b : Bytes) : State :=
  if sp = 3 then s.store a b else s.writeSpace sp a b

/-! ### DMA descriptors -/

def dmaElems (w : Nat) : Nat := dmaIdxCntM1 w + 1
def dmaElemBytes (w : Nat) : Nat := dmaElemM1 w + 1

/-- Bytes of n blocks of a format (R140, R141). -/
def blocksBytes (c n : Nat) : Nat := if c = 6 then 1152 * (n / 8) else n * blockBytes c

/-- Bytes read at the source side: the indexed side is counted by the index table (R193). -/
def dmaSrcBytes (w : Nat) : Nat :=
  if dmaOp w = 4 then 0
  else if dmaIdx w != 0 then dmaElems w * dmaElemBytes w
  else if dmaCvtEn w = 1 then blocksBytes (dmaSrcFmt w) (dmaLen w) else dmaLen w

def crcBytes (w : Nat) : Nat := if dmaCrc w = 1 then 4 else if dmaCrc w = 2 then 8 else 0

/-- Bytes written at the destination before the CRC. -/
def dmaDstBytes (ladder : Tab Nat) (w : Nat) : Nat :=
  if dmaOp w = 4 then 0
  else if dmaIdx w != 0 then dmaElems w * dmaElemBytes w
  else if dmaCvtEn w = 1 then blocksBytes (cvtTarget ladder (dmaCvt w)).1 (dmaLen w) else dmaLen w

/-- Element bytes of ACC_FMT and its format code. -/
def accElemBytes (f : Nat) : Nat := if f = 1 then 2 else if f = 2 then 8 else 4
def accCode (f : Nat) : Nat := if f = 1 then 3 else if f = 2 then 0 else 1

/-- A DMA descriptor in a work list, a sync operation, an operation descriptor (R216, R187). -/
def slotIsSync (w : Nat) : Bool := bits w 0 8 / 16 == 1

/-! ### Extents of an operation descriptor's parts (R429) -/

def statParts (w : Nat) : List Part :=
  if opOs w then (List.range (ceilDiv (opCols w) 128)).map fun j =>
    let d := swapIf (opTransS w == 1) (opVecs w, min 128 (opCols w - 128 * j))
    ⟨opShelfAt w 0 (128 * j), 0, 128 * j, d.1, d.2⟩
  else (List.range (ceilDiv (opRows w) 128)).flatMap fun i => (List.range (ceilDiv (opCols w) 128)).map fun j =>
    let d := swapIf ((opMode w == 2) != (opTransS w == 1)) (min 128 (opRows w - 128 * i), min 128 (opCols w - 128 * j))
    ⟨opShelfAt w (128 * i) (128 * j), 128 * i, 128 * j, d.1, d.2⟩

def westParts (w : Nat) : List Part :=
  let n := if bit (opMAddr w) 24 then 1280 else 128
  let x := if opSparse? w then 2 else 1
  (List.range (ceilDiv (opRows w) n)).map fun i =>
    let d := swapIf ((opMode w != 0) != (opTransM w == 1)) (opVecs w, x * min n (opRows w - n * i))
    ⟨opShelfAt w (n * i) 0, n * i, 0, d.1, d.2⟩

def psumParts (w : Nat) : List Part :=
  (outParts w).map fun p => { p with shelf := psumShelf w p.row0 p.col0 }

/-- An operand's extents in the module view: kind, address, bytes. -/
def partExt (c ld addr : Nat) (l : List Part) : List (Nat × Nat) :=
  l.map fun p => (shelfView p.shelf addr, tensorBytes c ld p.rows p.cols)

def metaExt (w : Nat) : List (Nat × Nat) :=
  (statParts w).map fun p => (shelfView p.shelf (opMetaAddr w),
    64 * (((p.rows - 1) / 16) * opSLd w + (p.cols - 1) / 16 + 1))

/-- Every extent a pass reads, the saggar entries included; `fm` and `fs` are the operand formats. -/
def passReads (fm fs w : Nat) : List (Nat × Nat) :=
  partExt fs (opSLd w) (opSAddr w) (statParts w) ++ partExt fm (opMLd w) (opMAddr w) (westParts w) ++
  (if opPsumIn w = 1 then partExt (accFmt w) (opPLd w) (opPAddr w) (psumParts w) else []) ++
  (if opSparse? w then metaExt w else []) ++
  (if opSpill w = 0 then [] else partExt 0 (opOLd w) (opSagAddr w) (outParts w))

def sagExtents (w : Nat) : List (Nat × Nat) :=
  if opSpill w = 0 then [] else partExt 0 (opOLd w) (opSagAddr w) (outParts w)

def extentsMeet (a b : List (Nat × Nat)) : Bool := a.any fun x => b.any fun y => overlaps x.1 x.2 y.1 y.2

end Sys2Proof.Machine
end

