-- ==== Sys2Proof/Machine/Work.lean ====
section
/-! DEFINITION. Machine/Work.lean: firings as units of work: stopping, replay and abandonment (R10,
R199, R256, R261), the acceptance log and the ledger (R262-R265), and the physical parts that serve
logical positions (R139, R164). -/

namespace Sys2Proof.Machine

/-! ### Logical positions and physical parts (R164) -/

/-- The position, use and failure fields of spare shelf i (0-3) of a kiln (Table 6.12). -/
def shelfSpare (i : Nat) : Fld × Fld × Fld :=
  if i = 0 then (klnSpareMap0Pos, klnSpareMap0Use, klnSpareMap0Failed)
  else if i = 1 then (klnSpareMap0NextPos, klnSpareMap0NextUse, klnSpareMap0NextFailed)
  else if i = 2 then (klnSpareMap1Pos, klnSpareMap1Use, klnSpareMap1Failed)
  else (klnSpareMap1NextPos, klnSpareMap1NextUse, klnSpareMap1NextFailed)

/-- The same fields of spare tile i of a shelf (Table 6.11). -/
def tileSpare (i : Nat) : Fld × Fld × Fld :=
  if i = 0 then (shfSpareMapS0Pos, shfSpareMapS0Use, shfSpareMapS0Failed)
  else if i = 1 then (shfSpareMapS1Pos, shfSpareMapS1Use, shfSpareMapS1Failed)
  else if i = 2 then (shfSpareMapS2Pos, shfSpareMapS2Use, shfSpareMapS2Failed)
  else (shfSpareMapS3Pos, shfSpareMapS3Use, shfSpareMapS3Failed)

/-- The built shelf, 0-163, that serves a logical shelf. -/
def State.builtShelf (s : State) (kiln shelf : Nat) : Nat :=
  match (List.range 4).find? fun i =>
      s.on (shelfSpare i).2.1 kiln && s.rd (shelfSpare i).1 kiln == shelf with
  | some i => 160 + i
  | none => shelf

/-- Where a built shelf's registers are kept: 164 × kiln + built shelf (log 11). -/
def builtNo (kiln built : Nat) : Nat := 164 * kiln + built

/-- Where the registers of the shelf serving a logical shelf number (160 × kiln + shelf) are kept. -/
def State.shfInst (s : State) (n : Nat) : Nat := builtNo (n / 160) (s.builtShelf (n / 160) (n % 160))

/-- The built tile that serves a logical tile. -/
def State.builtTile (s : State) (kiln shelf row col : Nat) : TileId :=
  let b := s.builtShelf kiln shelf
  match (List.range 4).find? fun i =>
      s.on (tileSpare i).2.1 (builtNo kiln b) && s.rd (tileSpare i).1 (builtNo kiln b) == 8 * row + col with
  | some i => ⟨kiln, b, 8, i⟩
  | none => ⟨kiln, b, row, col⟩

/-! ### Cells (R84, R152) -/

/-- The physical column of logical column l of a tile: the columns that TILE_COLMAP names are skipped. A
narrowed tile has no logical column 15 (R152). -/
def State.physCol (s : State) (t : TileId) (l : Nat) : Option Nat :=
  ((List.range 17).filter fun p =>
    p != s.rd tileColmapBypass1 (tileInst t) && p != s.rd tileColmapBypass2 (tileInst t))[l]?

/-- Where the cell that serves gang cell (r, c) of a descriptor is kept: the built tile, the row in it and the
physical column; 17 stands for a column that does not exist. -/
def State.cellKey (s : State) (w r c : Nat) : Nat :=
  let ks := opShelfAt w r c
  let p := opTileAt w r c
  let t := s.builtTile ks.1 ks.2 p.1 p.2
  512 * tileInst t + 32 * (r % 16) + (s.physCol t (c % 16)).getD 17

/-- A cell before anything has been loaded. Log 116. -/
def emptyCell : ArrayCell := ⟨(.zero, 0), (.zero, 0), (.zero, 0), (.zero, 0), .zero, 0⟩

def State.cellAt (s : State) (w r c : Nat) : ArrayCell := tget emptyCell s.cells (s.cellKey w r c)

/-- The gang cells that a descriptor uses. -/
def opCells (w : Nat) : List (Nat × Nat) :=
  (List.range (opRows w)).flatMap fun r => (List.range (opCols w)).map fun c => (r, c)

/-- Change the cells of a gang that a descriptor uses. -/
def State.updCells (s : State) (w : Nat) (g : Nat → Nat → ArrayCell → ArrayCell) : State :=
  { s with cells := (opCells w).foldl (fun t p =>
      let k := s.cellKey w p.1 p.2
      tput t k (g p.1 p.2 (tget emptyCell t k))) s.cells }

/-- What a gang's cells hold, by 2,048 × gang row + column. -/
def State.cellTab {α : Type} (s : State) (w : Nat) (g : ArrayCell → α) : Tab α :=
  (opCells w).map fun p => (2048 * p.1 + p.2, g (s.cellAt w p.1 p.2))

/-! ### Passes -/

/-- The passes of an operation before slot i of a work list (Table 4.4, PASS). -/
def passesBefore (items : List (Nat × ItemSt)) (i op : Nat) : Nat :=
  ((items.take i).filter fun p => !slotIsSync p.1 && opOpIndex p.1 == op).length

/-- A later pass of the chain already streams behind a pass on the same tiles (R96). -/
def State.followed (s : State) (p : Pass) : Bool :=
  s.passes.any fun q =>
    !q.stopped && q.fseq == p.fseq && q.observer == p.observer && decide (p.index < q.index) && tilesMeet q.word p.word

/-- What a pass computes from. Its stationary elements are those of the active registers, or those its vectors
have met; in OS its accumulators are the active ones until a later pass fills them (R96). -/
def State.passIn (s : State) (f : Firing) (p : Pass) (errs : List PassErr) : PassIn :=
  let g := s.graph? f.graph
  { w := p.word
    stat := if p.met.isEmpty then s.cellTab p.word (·.active) else p.met
    starts := if s.followed p then s.cellTab p.word (·.draining) else s.cellTab p.word (·.acc)
    errs := errs
    mem := s.mem.scratch
    regions := (g.map (·.regions)).getD []
    layouts := (g.map (·.layouts)).getD []
    seed := (f.snap.map fun sn => field sn.pblock 0 8).getD 0
    fseq := f.fseq
    ladder := (f.snap.map (·.ladder)).getD []
    passNo := passesBefore (f.items p.observer) p.index (opOpIndex p.word)
    fresh := s.fresh }

/-- The drain window of a pass (R97). -/
def State.windowOf (s : State) (p : Pass) : List (Nat × Nat) :=
  outExtents ((((s.firing? p.fseq).bind (·.snap)).map (·.ladder)).getD []) p.word

/-- A run of bytes of a space lies in the window of a pass that is not sealed: no other operation reads or writes
it (R97). -/
def State.windowBusy (s : State) (sp a n : Nat) : Bool :=
  sp == 1 && s.passes.any fun p => (s.windowOf p).any fun e => overlaps (scratchKey a) n (scratchKey e.1) e.2

/-- Add to a shelf counter for a list of logical shelf numbers with amounts. -/
def State.shfAdds (s : State) (fl : Fld) (l : Tab Nat) : State :=
  l.foldl (fun s p => s.satAdd fl (s.shfInst p.1) p.2) s

/-- A time-dependent amount is added to a shelf counter: free, at most `top` (R109, R170). -/
def State.shfAddFree (s : State) (fl : Fld) (n top : Nat) : State :=
  let x := Config.freeNat s.fresh % (top + 1)
  { (s.satAdd fl (s.shfInst n) x) with fresh := s.fresh + 1 }

/-- Feed stalls of a run of a pass: how many depends on time the model does not show (R109). -/
def State.feedStall (s : State) (w : Nat) : State :=
  (opShelves w).foldl (fun s n => s.shfAddFree shfFeedStallStall n (2 ^ 32 - 1)) s

/-- What a pass stopped before its drain leaves (R170, Table 6.4): its window undefined in WS and IS and in OS
as it was, for nothing is written there before the drain; ABANDONED counted, and the arithmetic counters
raised by what it had formed, which is free up to a whole run. -/
def State.passStopped (s : State) (p : Pass) : State :=
  let s := (opShelves p.word).foldl (fun s n => s.satAdd shfAbandonAbandoned (s.shfInst n) 1) s
  match s.firing? p.fseq with
  | none => s
  | some f =>
    let a := (s.passIn f p []).run
    let s := a.infZero.foldl (fun s q => s.shfAddFree shfInfZeroInfZero q.1 q.2) s
    let s := a.intSat.foldl (fun s q => s.shfAddFree shfIntSatIntSat q.1 q.2) s
    let s := s.feedStall p.word
    if opOs p.word then s.writesSpace 1 p.under
    else s.forgets 1 (outExtents ((f.snap.map (·.ladder)).getD []) p.word)

/-- Take passes out of flight for good. -/
def State.dropPasses (s : State) (q : Pass → Bool) : State :=
  let s := (s.passes.filter fun p => q p && !p.stopped).foldl State.passStopped s
  { s with passes := s.passes.filter fun p => !q p }

/-- Stop passes that are re-run from their start (R168, R161). -/
def State.haltPasses (s : State) (q : Pass → Bool) : State :=
  let s := (s.passes.filter fun p => q p && !p.stopped).foldl State.passStopped s
  { s with passes := s.passes.map fun p => if q p then { p with stopped := true } else p }

/-! ### Dampers -/

def idleDamper : Damper := ⟨[], none, 0, none, 0, 0, [], []⟩

def State.damper (s : State) (d : Nat) : Damper := tget idleDamper s.dampers d

def State.setDamper (s : State) (d : Nat) (x : Damper) : State := { s with dampers := tset idleDamper s.dampers d x }

/-! ### DMA engines -/

def idleEngine : Engine := ⟨[], false, false, 0⟩

def State.engine (s : State) (e : Nat) : Engine := tget idleEngine s.engines e

def State.setEngine (s : State) (e : Nat) (x : Engine) : State :=
  { s with engines := tset idleEngine s.engines e x }

def clampLog2 (x : Nat) : Nat := max 4 (min 16 x)

/-- The slots of an engine's ring in memory (Table 7.9). -/
def State.ringSlots (s : State) (e : Nat) : Nat := 2 ^ clampLog2 (s.rd dmaRingCtlLog2Size e)

/-- The observer number of an engine, 0-127 in the kilns, 128-135 in the port dies (Table 8.1). -/
def engineObserver (e : Nat) : Nat := 1280 + e

/-- An observer number of a DMA engine. -/
def isEngineObs (o : Nat) : Bool := decide (1280 ≤ o) && decide (o < 1416)

/-- The extent a descriptor writes in one of this module's spaces (space, address, bytes): the whole
region a scatter may reach, else the destination with its CRC. -/
def State.dmaDst (s : State) (f : Option Firing) (w : Nat) : Nat × Nat × Nat :=
  let ladder := ((f.bind (·.snap)).map (·.ladder)).getD []
  let sp := dmaDstSpace w
  let xl := fun a => match f with
    | some f => s.xlate f sp true a
    | none => a
  let g := f.bind fun f => s.graph? f.graph
  if dmaIdx w = 2 then
    match g.bind fun g => regionAt g.regions sp (dmaDstAddr w) with
    | some r => (sp, xl (regBase r), regBytes r)
    | none => (sp, xl (dmaDstAddr w), dmaElemBytes w)
  else (sp, xl (dmaDstAddr w), dmaDstBytes ladder w + crcBytes w)

/-- The address that a firing's access reaches (R258). -/
def State.addr (s : State) (f : Option Firing) (sp : Nat) (write : Bool) (a : Nat) : Nat :=
  match f with
  | some f => s.xlate f sp write a
  | none => a

/-- The runs that a descriptor writes once it has its offsets: space, address, bytes, as the spaces hold them. An
address of this module in space 0x4 is its stack address. -/
def State.dmaDsts (s : State) (f : Option Firing) (w : Nat) (offs : List Nat) : List (Nat × Nat × Nat) :=
  let sp := dmaDstSpace w
  let ladder := ((f.bind (·.snap)).map (·.ladder)).getD []
  let run := fun (a n : Nat) =>
    if sp = 4 then (if bits a 40 14 = s.self then (3, bits a 0 40, n) else (4, a, n)) else (sp, s.addr f sp true a, n)
  if dmaOp w = 4 then []
  else if dmaIdx w = 2 then offs.map fun o => run (dmaDstAddr w + o) (dmaElemBytes w)
  else [run (dmaDstAddr w) (dmaDstBytes ladder w + crcBytes w)]

/-- A descriptor abandoned after it started: what it has written, any of its bytes, counts as undefined (R197,
R199). -/
def State.dmaUndone (s : State) (h : HeldDesc) : State :=
  if h.started && !h.placed then
    (s.dmaDsts (h.fseq.bind s.firing?) h.word h.offs).foldl (fun s d => if d.1 = 4 then s else s.forget d.1 d.2.1 d.2.2) s
  else s

/-- Transfers of an observer's pieces of work leave the dampers; a packet that has its number still goes (R199). -/
def State.leaveDampers (s : State) (o : Nat) (ids : List Nat) : State :=
  let mine := fun (q : Waiting) => q.t.req == o && has ids q.t.id && (q.pkt.isNone || !q.numbered)
  let ds := s.dampers.map fun d => (d.1, { d.2 with
    waiting := d.2.waiting.filter fun q => !mine q, holder := d.2.holder.filter fun h => !mine h.1 })
  { s with dampers := ds }

/-- Withdraw the held descriptors that a test picks, and the waits of those that wait on a signal. -/
def State.dropDescs (s : State) (q : HeldDesc → Bool) : State :=
  let s := (s.engines.map (·.1)).foldl (fun s e =>
    let x := s.engine e
    let gone := x.held.filter q
    let s := gone.foldl State.dmaUndone s
    (s.setEngine e { x with held := x.held.filter fun h => !q h }).leaveDampers (engineObserver e) (gone.map (·.serial))) s
  let stays := fun (w : Wait) =>
    !isEngineObs w.observer || (s.engine (w.observer - 1280)).held.any (·.waiting)
  { s with flue := { s.flue with waits := s.flue.waits.filter stays } }

/-! ### Stopping, replaying, abandoning -/

/-- Stop every unit that works for a firing (R199, R256): passes before their drain, descriptors in
progress, registered waits, transfers at the dampers. -/
def State.stopUnits (s : State) (q : Nat) : State :=
  let s := (s.dropPasses fun p => p.fseq == q).dropDescs fun h => h.fseq == some q
  { s with flue := { s.flue with waits := s.flue.waits.filter fun w => w.fseq != some q } }

/-- Every attempt-local part of a firing back to an attempt's start (R73, R130, R215). -/
def Firing.fresh (f : Firing) : Firing :=
  { f with
    work := f.work.map fun p => (p.1, p.2.map fun x => (x.1, .waiting))
    granted := []
    arith := .empty
    gauges := []
    issued := []
    joinSent := 0
    ctx := none }

def idleTurn : QTurn := ⟨0, 0, 0, []⟩

/-- A claim is released; the round robin of R250 goes on from the queue that released it. -/
def State.noteRelease (s : State) (f : Firing) : State :=
  if f.claimHeld then
    let t := tget idleTurn s.fe.turns f.queue
    let turns := tput s.fe.turns f.queue { t with claim := s.claimOf f, release := s.fe.releases + 1, leaving := t.leaving.filter (· != f.fseq) }
    { s with fe := { s.fe with turns := turns, releases := s.fe.releases + 1 } }
  else s

/-- A firing that has begun to write its end record, or whose operations cannot be replayed any more. -/
def Firing.ending (f : Firing) : Bool := f.st = .committing || f.st = .abandoning

/-- Stop a firing and replay it from its snapshot (R10, R261). One not yet launched has nothing to
replay. -/
def State.replay (s : State) (q : Nat) : State :=
  match s.firing? q with
  | none => s
  | some f =>
    if f.ending || !f.launched then s
    else (s.stopUnits q).updFiring q fun f => { f.fresh with st := .faulted, claimHeld := false }

/-- Stop a firing and abandon it with a code; its ABANDON record follows (R261). -/
def State.abandon (s : State) (q code : Nat) : State :=
  match s.firing? q with
  | none => s
  | some f =>
    if f.ending then s
    else ((s.stopUnits q).noteRelease f).updFiring q fun f =>
      { f.fresh with st := .abandoning, code := code, claimHeld := false, tickEnd := s.now }

/-- How often a firing may meet an F- code before it is abandoned with it; 0 means at once. -/
def replayLimit (code : Nat) : Option Nat :=
  if code = 144 ∨ code = 152 then some 1
  else if code = 150 ∨ code = 172 then some 3
  else if has [143, 145, 151, 160, 161, 162, 163, 164, 170, 171, 180, 181] code then some 0
  else none

/-- A firing meets a fault: replay or abandonment as the fault's rule says (R10, R198, R211, R222). -/
def State.fault (s : State) (q code : Nat) : State :=
  match s.firing? q with
  | none => s
  | some f =>
    let n := tget 0 f.counts code
    match replayLimit code with
    | none => s.replay q
    | some m =>
      if m ≤ n then s.abandon q code
      else
        let s := s.replay q
        s.updFiring q fun f =>
          if f.ending then f
          else { f with
            counts := tput f.counts code (n + 1)
            notBefore := if code = 150 ∨ code = 172 then some (s.rd whlPosTurnNo 0 + 1) else f.notBefore }

/-- F-140 at a line: a second one at a line that has faulted the firing before abandons (R10, R179). -/
def State.faultLine (s : State) (q line : Nat) : State :=
  match s.firing? q with
  | none => s
  | some f =>
    if has f.lines line then s.abandon q 140
    else (s.replay q).updFiring q fun f => if f.ending then f else { f with lines := f.lines ++ [line] }

/-- The firings that hold a shelf in their claim, launched and not switched out (R163 step 2, R251). -/
def State.claimants (s : State) (shelf : Nat) : List Nat :=
  (s.fe.firings.filter fun f => f.claimHeld && f.launched && claimHas (s.claimOf f) shelf).map (·.fseq)

/-! ### Log and ledger -/

def logSize : Nat := 786432

/-- A log record of a firing's event, at the next position. -/
def State.logRec (s : State) (kind : Nat) (f : Firing) (lseq result attempts : Nat) : LogRec :=
  { pos := s.fe.nextPos, kind := kind, fslot := f.fslot, fseq := f.fseq, graph := f.graph, queue := f.queue
    lseq := lseq, account := 0, result := result, attempts := attempts, tick := s.now, ctag := 0
    cplKind := 0, cplAbandon := false, cplSig := 0, cplMod := 0, cplVal := 0, cplAddr := 0, acked := false }

/-- Begin to write a record. -/
def State.logBegin (s : State) (r : LogRec) : State :=
  { s with fe := { s.fe with
      writing := s.fe.writing ++ [{ r with pos := s.fe.nextPos }]
      nextPos := (s.fe.nextPos + 1) % logSize } }

/-- A record lands on its position of the ring. -/
def logPut (l : List LogRec) (r : LogRec) : List LogRec := (l.filter fun x => x.pos != r.pos) ++ [r]

/-- The record of a kind and firing that is being written lands in the log. -/
def State.logLand (s : State) (kind q : Nat) : State :=
  match s.fe.writing.find? fun r => r.kind == kind && r.fseq == q with
  | none => s
  | some r => { s with fe := { s.fe with
      writing := s.fe.writing.filter fun x => !(x.kind == kind && x.fseq == q)
      log := logPut s.fe.log r } }

/-- Write a record whole: it lands before the event goes on. -/
def State.logNow (s : State) (r : LogRec) : State :=
  { s with fe := { s.fe with
      log := logPut s.fe.log { r with pos := s.fe.nextPos }
      nextPos := (s.fe.nextPos + 1) % logSize } }

/-- The ACCEPT record of a firing, in the log or being written. -/
def State.acceptRec (s : State) (q : Nat) : Option LogRec :=
  (s.fe.log ++ s.fe.writing).find? fun r => r.kind == 1 && r.fseq == q

def LogRec.isEnd (r : LogRec) : Bool := r.kind == 2 || r.kind == 3

/-- The highest LSEQ given out so far, plus one, as the log shows it (R263). -/
def State.nextLseqFromLog (s : State) : Nat :=
  (s.fe.log.filter LogRec.isEnd).foldl (fun n r => max n (r.lseq + 1)) 0

/-- The LSEQ of the oldest completion record not yet taken by the host ring. -/
def State.oldestLseq (s : State) : Nat :=
  let l := (s.fe.ledger ++ s.fe.rebuilt).map (·.lseq) ++ (s.fe.writing.filter LogRec.isEnd).map (·.lseq)
  l.foldl min s.fe.nextLseq

/-- A CURSOR or POWER_MARK record: every record below `lseq` has been taken (Table 9.10). -/
def State.markRec (s : State) (kind : Nat) : LogRec :=
  { pos := 0, kind := kind, fslot := 0, fseq := 0, graph := 0, queue := 0, lseq := s.oldestLseq
    account := 0, result := 0, attempts := 0, tick := s.now, ctag := 0, cplKind := 0, cplAbandon := false
    cplSig := 0, cplMod := 0, cplVal := 0, cplAddr := 0, acked := false }

/-- Every firing of the queue accepted before this one has ended (R239). Acceptance order is FSEQ
order. -/
def State.predecessorsEnded (s : State) (f : Firing) : Bool :=
  s.fe.firings.all fun g => !(g.queue == f.queue && decide (g.fseq < f.fseq))

/-- Completion records reserved or waiting (R265). -/
def State.ledgerUsed (s : State) : Nat := s.fe.firings.length + s.fe.ledger.length + s.fe.rebuilt.length

end Sys2Proof.Machine
end

