-- ==== Sys2Proof/Machine/Ports.lean ====
section
/-! DEFINITION. Machine/Ports.lean: lanes and widths (R296, R299), packets and flits on a link, its replay buffer
(R297, R298, R300, R313, R314), and the numbers and copies of sequenced packets (R315-R317). -/

namespace Sys2Proof.Machine

/-- Circular order of w-bit sequence numbers: a is at or before b (log 27). -/
def seqLe (w a b : Nat) : Bool := (b % 2 ^ w + 2 ^ w - a % 2 ^ w) % 2 ^ w < 2 ^ (w - 1)

/-- Host memory can be reached: F0 has Bus Master Enable, is in D0 and not in reset (R345). -/
def State.hostReady (s : State) : Bool :=
  match s.pci.fns[0]? with
  | some f => f.bme && !f.d3hot && !has s.pci.inReset 0
  | none => false

/-! ### Lanes (R296, R299) -/

def idlePort : Port := ⟨[], 0, false, none, false, false, false, 0, 0, 2 ^ 20 - 1, [], []⟩

def State.port (s : State) (d : Nat) : Port := tget idlePort s.fab.ports d

def State.setPort (s : State) (d : Nat) (p : Port) : State :=
  { s with fab := { s.fab with ports := tset idlePort s.fab.ports d p } }

def portLanes (d : Nat) : Nat := if d < 8 then 16 else 8

/-- Groups of eight lanes, each with a spare: the spare of group g is lane portLanes + g. -/
def portGroups (d : Nat) : Nat := portLanes d / 8

/-- Link widths, widest first (Table 11.3). -/
def portWidths (d : Nat) : List Nat := if d < 8 then [16, 12, 8, 4] else [8, 6, 4, 2]

/-- Lanes of a group that have failed, its spare aside. -/
def groupFailed (d : Nat) (p : Port) (g : Nat) : Nat :=
  (p.failed.filter fun l => decide (l < portLanes d) && l / 8 == g).length

/-- The spare of a group works. -/
def spareGood (d : Nat) (p : Port) (g : Nat) : Bool := !has p.failed (portLanes d + g)

/-- Lanes that carry data once each group has used its spare (R299). -/
def goodLanes (d : Nat) (p : Port) : Nat :=
  ((List.range (portGroups d)).map fun g => 8 - (groupFailed d p g - b2n (spareGood d p g))).sum

def sparesLeft (d : Nat) (p : Port) : Nat :=
  ((List.range (portGroups d)).filter fun g => groupFailed d p g == 0 && spareGood d p g).length

/-- The width in use, or none below the narrowest (R299, R301). -/
def portWidth (d : Nat) (p : Port) : Option Nat := (portWidths d).find? fun w => w ≤ goodLanes d p

/-- The state of port d, Table 11.15. -/
def State.portSt (s : State) (d : Nat) : Nat := s.rd fabPortStatusState d

/-- A link carries flits: it is up and does not retrain (R300). -/
def State.linkRuns (s : State) (d : Nat) : Bool := s.portSt d == 2 && !(s.port d).retraining

/-! ### Packets and flits (Tables 11.2 and 11.7) -/

/-- The header of a packet, then its payload. -/
def packetBytes (p : Packet) : Bytes :=
  let route := (p.route.zipIdx.map fun r => r.1 * 2 ^ (48 + 4 * r.2)).sum
  natLe 32 (p.typ + 2 ^ 4 * p.accFmt + 2 ^ 6 * b2n p.sched + 2 ^ 7 * b2n p.sync + 2 ^ 8 * p.src + 2 ^ 22 * p.dst +
    2 ^ 36 * p.hop + 2 ^ 41 * p.route.length + route + 2 ^ 120 * p.tag + 2 ^ 136 * p.seq +
    2 ^ 168 * (p.data.length - 1) + 2 ^ 180 * p.reason + 2 ^ 184 * p.addr + 2 ^ 224 * p.inc) ++ p.data

/-- Flits of a packet: 244 bytes each of its 32-byte header and payload. -/
def flitsOf (p : Packet) : Nat := ceilDiv (32 + p.data.length) 244

/-- A flit with its CRC. -/
def flitBytes (seq ack kind vl : Nat) (nak : Bool) (pay : Bytes) : Bytes :=
  let b := natLe 8 (seq % 2 ^ 20 + 2 ^ 20 * ack + 2 ^ 40 * b2n nak + 2 ^ 41 * kind + 2 ^ 43 * vl) ++
    (pay ++ List.replicate (244 - pay.length) 0)
  b ++ natLe 4 (crc32c b)

/-- The virtual lane of what a replay buffer holds; an idle flit has none. -/
def Sent.lane : Sent → Option Nat
  | .packet h => some h.p.vl
  | .cut h => some h.p.vl
  | .abort vl => some vl
  | .idle => none

/-- Flit i of what a replay buffer holds. -/
def Sent.flit (x : Sent) (seq ack i : Nat) : Bytes :=
  let part := fun (p : Packet) =>
    flitBytes (seq + i) ack (if i = 0 then 1 else 2) p.vl false (((packetBytes p).drop (244 * i)).take 244)
  match x with
  | .packet h => part h.p
  | .cut h => part h.p
  | .idle => flitBytes (seq + i) ack 0 0 true []
  | .abort vl => flitBytes (seq + i) ack 3 vl false []

/-- The last good flit received. -/
def Port.ack (x : Port) : Nat := (x.rxSeq + 2 ^ 20 - 1) % 2 ^ 20

/-- The flits of a replay buffer after the last one acknowledged, in order. -/
def Port.unacked (x : Port) : List Bytes :=
  x.buffer.flatMap fun b =>
    ((List.range b.2.1).filter fun i => !seqLe 20 (b.1 + i) x.acked).map fun i => b.2.2.flit b.1 x.ack i

def State.output (s : State) (d : Nat) (l : List Bytes) : State :=
  { s with fab := { s.fab with sent := s.fab.sent ++ l.map fun b => (d, b) } }

/-- Put n flits on a link and in its replay buffer; a link that retrains sends them after it (R300). -/
def State.putFlits (s : State) (d n : Nat) (what : Sent) : State :=
  let x := s.port d
  let s := s.setPort d { x with buffer := x.buffer ++ [(x.txSeq, n, what)], txSeq := (x.txSeq + n) % 2 ^ 20 }
  if x.retraining then s else s.output d ((List.range n).map fun i => what.flit x.txSeq x.ack i)

/-- A packet that has taken this hop goes onto port d's link whole. -/
def State.putOnLink (s : State) (d : Nat) (h : HeldPkt) : State := s.putFlits d (flitsOf h.p) (.packet h)

/-- A packet cut short after n flits: an abort flit follows (R298). -/
def State.cutShort (s : State) (d n : Nat) (h : HeldPkt) : State :=
  if n = 0 then s else (s.putFlits d n (.cut h)).putFlits d 1 (.abort h.p.vl)

def replayBytes (d : Nat) : Nat := if d < 8 then 2 ^ 20 else 2 ^ 19

/-- Bytes of a virtual lane in the replay buffer; each lane has a buffer of its own (R313, log 125). -/
def Port.buffered (x : Port) (vl : Nat) : Nat :=
  ((x.buffer.filter fun b => b.2.2.lane == some vl).map fun b => 256 * b.2.1).sum

/-- The link takes a packet now. -/
def State.linkReady (s : State) (d : Nat) (p : Packet) : Bool :=
  s.linkRuns d && decide ((s.port d).buffered p.vl + 256 * flitsOf p ≤ replayBytes d)

/-- Every flit not acknowledged is sent again on the link (R297, R300). -/
def State.replayLink (s : State) (d : Nat) : State :=
  let l := (s.port d).unacked
  if l.isEmpty then s else (s.satAdd fabPortCntReplays d 1).output d l

/-- Flits up to `ack` are acknowledged; what has no flit left leaves the replay buffer (R297). -/
def State.ackFlits (s : State) (d ack : Nat) : State :=
  let x := s.port d
  s.setPort d { x with acked := ack, buffer := x.buffer.filter fun b => !seqLe 20 (b.1 + b.2.1 - 1) ack }

/-! ### Numbers and copies of sequenced packets (R315-R317) -/

def idleSrc : SrcSeq := ⟨0, [], 0⟩

def State.srcSeq (s : State) (dst : Nat) : SrcSeq := tget idleSrc s.fab.src dst

def State.setSrc (s : State) (dst : Nat) (x : SrcSeq) : State :=
  { s with fab := { s.fab with src := tset idleSrc s.fab.src dst x } }

/-- Bytes in the hold area: header and payload of every held packet (log 29). -/
def State.holdUsed (s : State) : Nat :=
  (s.fab.src.map fun p => (p.2.held.map fun h => 32 + h.p.data.length).sum).sum

/-- The hold area has room for a packet with this payload (R317). -/
def State.holdRoom (s : State) (data : Bytes) : Bool := decide (s.holdUsed + 32 + data.length ≤ 2 ^ 31)

def State.heldPkts (s : State) (f : HeldPkt → Bool) : List HeldPkt := s.fab.src.flatMap fun p => p.2.held.filter f

/-- A packet takes the next number toward its destination, and a copy of it stays in the hold area. -/
def State.number (s : State) (h : HeldPkt) : State × HeldPkt :=
  let dst := h.p.dst
  let x := s.srcSeq dst
  let h := { h with p := { h.p with sync := x.next == 0, seq := x.next % 2 ^ 32 } }
  let s := s.setSrc dst ⟨x.next + 1, x.held ++ [{ h with p := { h.p with hop := 0, vl := 0 } }], if x.held.isEmpty then s.now else x.since⟩
  (s.wr fabHoldPeakKib 0 (max (s.rd fabHoldPeakKib 0) (ceilDiv s.holdUsed 1024)), h)

end Sys2Proof.Machine
end

