-- ==== Sys2Proof/Machine/Damper.lean ====
section
/-! DEFINITION. Machine/Damper.lean: windows, scheduled and loose transfers, grants, hints, stops and counters of the
dampers (R282-R294). Their commands are in Machine/Windows.lean. -/

namespace Sys2Proof.Machine

/-! ### Slot entries (Table 10.4) and windows (R272, R284, R286) -/

def slotDamper (w : Nat) : Nat := bits w 0 9
def slotStart (w : Nat) : Nat := bits w 16 16
def slotLen (w : Nat) : Nat := bits w 32 16
def slotReq (w : Nat) : Nat := bits w 48 16
def slotOpIndex (w : Nat) : Nat := bits w 64 32

/-- Ticks a window lasts under a turn length (R272). -/
def windowTicks (slot len : Nat) : Nat :=
  ceilDiv ((slotStart slot + slotLen slot) * len) 65536 - ceilDiv (slotStart slot * len) 65536

/-- The slot entries of a damper among the resident graphs, in graph order. -/
def State.windows (s : State) (d : Nat) : List Nat := s.fe.graphs.flatMap fun g => g.2.slots.filter fun w => slotDamper w == d

def State.openCount (s : State) (w : Nat) : Nat := s.angleCount (slotStart w)
def State.closeCount (s : State) (w : Nat) : Nat := s.angleCount (slotStart w + slotLen w)

/-- The length of the next turn. -/
def State.nextLen (s : State) : Nat :=
  match s.wheel.pendLen with
  | some (l, t) => if t = s.rd whlPosTurnNo 0 + 1 then l else s.rd whlTurnLenLen 0
  | none => s.rd whlTurnLenLen 0

/-- The count of the event at an angle of the next turn. -/
def State.nextTurnCount (s : State) (a : Nat) : Nat :=
  s.rd whlTurnStartT0 0 + s.rd whlTurnLenLen 0 + ceilDiv (a * s.nextLen) 65536

/-- The count at which a window opens next. -/
def State.nextOpen (s : State) (w : Nat) : Nat :=
  if s.now < s.openCount w then s.openCount w else s.nextTurnCount (slotStart w)

/-- The window of a damper that opens first from now on. -/
def State.nextWindow (s : State) (d : Nat) : Option Nat :=
  (s.windows d).foldl (fun b w =>
    match b with
    | some v => if s.nextOpen w < s.nextOpen v then some w else b
    | none => some w) none

/-- The transfer is scheduled in the window (R286). -/
def inWindow (w : Nat) (t : Transfer) : Bool :=
  slotReq w == t.req &&
    (if 0x8000 ≤ t.req then t.schedMark
     else slotOpIndex w == t.opIndex || slotOpIndex w == 0xFFFFFFFF && t.schedMark)

/-! ### Transfers (Table 10.3, R283) -/

/-- The units of a transfer of each damper, at most. -/
def maxUnits (d : Nat) : Nat := if d < 256 then 64 else if d < 270 then 34 else 8

/-- A requester of R283. -/
def requesterOk (r : Nat) : Bool := decide (r ≤ 1417) || (decide (0x8000 ≤ r) && decide (r < 0x8000 + 2 ^ 14))

/-- Ticks that n lines take at a channel's full rate (log 126). -/
def lineTicks (n : Nat) : Nat := ceilDiv (94 * n) 100

/-- The channel damper of a line of stack memory (Table 7.3, Table 10.3). -/
def channelOf (a : Nat) : Nat := 16 * stackOf a + a / 64 % 16

/-- The lines that an extent of stack memory has at each channel, by channel. -/
def channelLines (a n : Nat) : List (Nat × Nat) :=
  let lines := if n = 0 then [] else (List.range ((a + n - 1) / 64 - a / 64 + 1)).map fun i => channelOf (64 * (a / 64 + i))
  lines.eraseDups.map fun d => (d, (lines.filter (· == d)).length)

/-- The units that a transfer has finished at its first unit boundary from now on, and the count of that boundary. -/
def boundary (t : Transfer) (granted now : Nat) : Nat × Nat :=
  if t.ticks = 0 then (t.units, granted)
  else
    let k := min t.units (ceilDiv ((now - granted) * t.units) t.ticks)
    (k, granted + ceilDiv (k * t.ticks) t.units)

/-- What is left of a transfer after k units. -/
def Transfer.after (t : Transfer) (k : Nat) : Transfer :=
  { t with units := t.units - k, ticks := t.ticks - t.ticks * k / t.units }

/-! ### Counters (R293) -/

/-- The counter slot of a requester, taken when it is first served. -/
def State.reqSlot (s : State) (d r : Nat) : Nat × State :=
  let at_ := fun i => 65 * d + i
  match (List.range 64).find? fun i => s.rd dmpReqStatReq (at_ i) == r with
  | some i => (at_ i, s)
  | none =>
    match (List.range 64).find? fun i => s.rd dmpReqStatReq (at_ i) == 0xFFFF with
    | some i => (at_ i, s.wr dmpReqStatReq (at_ i) r)
    | none => (at_ 64, s.wr dmpReqStatReq (at_ 64) 0xFFFE)

/-- A transfer whose first grant comes after its arrival has waited. -/
def Waiting.late (q : Waiting) (start : Nat) : Bool := !q.granted && decide (q.since < start)

/-- A transfer is granted at a count: GRANTS, LONGEST, and WAITS for one that was not granted on arrival. -/
def State.countGrant (s : State) (d : Nat) (q : Waiting) (start : Nat) : State :=
  let p := s.reqSlot d q.t.req
  let s := p.2.satAdd dmpReqStatGrants p.1 1
  let s := if q.late start then s.satAdd dmpReqStatWaits p.1 1 else s
  s.wr dmpReqStatLongest p.1 (max (s.rd dmpReqStatLongest p.1) (min (start - q.since) (2 ^ 32 - 1)))

/-- A restart is counted; the first one takes the place of the transfer's wait on arrival (Table 10.5, log 127). -/
def State.countStop (s : State) (d : Nat) (q : Waiting) : State :=
  if q.counted then s else (s.reqSlot d q.t.req).2.satAdd dmpReqStatWaits (s.reqSlot d q.t.req).1 1

/-- HELD of every counter slot of the damper, and of DMP_CUT, from the held requesters. -/
def State.showHeld (s : State) (d : Nat) : State :=
  let held := (s.damper d).held
  let own := (List.range 64).map fun i => s.rd dmpReqStatReq (65 * d + i)
  let s := (List.range 64).foldl (fun s i =>
    s.wr dmpReqStatHeld (65 * d + i) (b2n (has held (s.rd dmpReqStatReq (65 * d + i))))) s
  let s := s.wr dmpReqStatHeld (65 * d + 64) (b2n (held.any fun r => !has own r))
  s.wr dmpCutHeld d held.length

/-! ### Packets at dampers (R282, R298) -/

/-- A packet whose transfer ends goes onto the link of its fabric port; one that a channel lets through reaches its
destination's stacks. -/
def State.depart (s : State) (d : Nat) (q : Waiting) : State :=
  match q.pkt with
  | some h => if d < 256 then { s with fab := { s.fab with inbox := s.fab.inbox ++ [(d, h.p)] } } else s.putOnLink (d - 256) h
  | none => s

/-- A transfer that stops after k units leaves an incomplete packet behind (R289, R298). -/
def State.cutAt (s : State) (d k : Nat) (q : Waiting) : State :=
  match q.pkt with
  | some h => if d < 256 then s else s.cutShort (d - 256) k h
  | none => s

/-- The holder's transfer has ended. -/
def State.endHolder (s : State) (d : Nat) : State :=
  let x := s.damper d
  match x.holder with
  | some (q, g) => if g + q.t.ticks ≤ s.now then (s.setDamper d { x with holder := none }).depart d q else s
  | none => s

/-- A transfer that could take its resource: its link takes the packet, and the hold area has room for a new one
(R317); the others need nothing more. -/
def State.canGo (s : State) (d : Nat) (q : Waiting) : Bool :=
  match q.pkt with
  | some h => d < 256 || s.linkReady (d - 256) h.p && (q.numbered || s.holdRoom h.p.data)
  | none => true

/-! ### Hints (R291) -/

/-- A scheduled transfer of the open window waits or runs at the damper. -/
def Damper.windowBusy (x : Damper) : Bool :=
  match x.window with
  | none => false
  | some w =>
    x.waiting.any (fun q => q.sched && inWindow w q.t) || x.holder.any fun h => h.1.sched && inWindow w h.1.t

/-- Hints of the open window are withdrawn while it is idle; expired hints go. -/
def State.withdraw (s : State) (d : Nat) : State :=
  let x := s.damper d
  let idle := fun (h : Nat × Nat × Nat) => x.window == some h.2.2 && !x.windowBusy
  s.setDamper d { x with hints := x.hints.filter fun h => decide (s.now < h.2.1) && !idle h }

/-- The requester has a hint that has not expired: its engine issues nothing loose to the damper. -/
def State.hinted (s : State) (d r : Nat) : Bool := (s.damper d).hints.any fun h => h.1 == r && decide (s.now < h.2.1)

/-- The window that keeps a loose transfer from being granted now (R290, R291). -/
def State.blockedBy (s : State) (d : Nat) (t : Transfer) : Option Nat :=
  let x := s.damper d
  match x.window with
  | some w => if x.windowBusy then some w else none
  | none =>
    match s.nextWindow d with
    | some w => if t.accum && decide (s.nextOpen w < s.now + t.ticks) then some w else none
    | none => none

/-- The count at which a blocking window closes: of its opening that is under way, or of the next one. -/
def State.hintCount (s : State) (d w : Nat) : Nat :=
  if (s.damper d).window = some w then (s.damper d).closes
  else if s.now < s.openCount w then s.closeCount w
  else s.nextTurnCount (slotStart w + slotLen w)

/-- A loose transfer that a window blocks gets its hint, in place of one for that window that has expired. -/
def State.hint (s : State) (d : Nat) (t : Transfer) : State :=
  match s.blockedBy d t with
  | none => s
  | some w =>
    let x := s.damper d
    let same := fun (k : Nat × Nat × Nat) => k.1 == t.req && k.2.2 == w
    if x.hints.any (fun k => same k && decide (s.now < k.2.1)) then s
    else s.setDamper d { x with hints := (x.hints.filter fun k => !same k) ++ [(t.req, s.hintCount d w, w)] }

/-- Every waiting loose transfer that a window blocks has its hint. -/
def State.hintAll (s : State) (d : Nat) : State :=
  ((s.damper d).waiting.filter fun q => !q.sched).foldl (fun s q => s.hint d q.t) s

/-! ### Grants (R288-R290) -/

/-- What keeps its issue order at a damper: a requester, and at a fabric port a virtual lane (R288, R313). -/
def Waiting.flow (q : Waiting) : Nat × Nat := (q.t.req, (q.pkt.map fun h => h.p.vl).getD 0)

/-- The first loose transfer that waits of each flow, in issue order. -/
def firstOfEach : List Waiting → List (Nat × Nat) → List Waiting
  | [], _ => []
  | q :: r, seen => if q.sched || seen.contains q.flow then firstOfEach r seen else q :: firstOfEach r (seen ++ [q.flow])

/-- The port H damper gives no grant while F0 has no bus master enable or is in D3hot (R345). -/
def State.damperHeld (s : State) (d : Nat) : Bool := d == 270 && !s.hostReady

/-- A loose transfer may be granted now. -/
def State.eligible (s : State) (d : Nat) (q : Waiting) : Bool :=
  !has (s.damper d).held q.t.req && s.canGo d q &&
    (!q.t.accum || (s.damper d).window.isNone && (s.blockedBy d q.t).isNone)

/-- The lowest stamp, then the lower requester (R288). -/
def olderOf (b : Option Waiting) (q : Waiting) : Option Waiting :=
  match b with
  | some p => if q.stamp < p.stamp ∨ (q.stamp = p.stamp ∧ q.t.req < p.t.req) then some q else b
  | none => some q

/-- The scheduled transfers that the open window serves. -/
def State.scheduled (s : State) (d : Nat) : List Waiting :=
  let x := s.damper d
  match x.window with
  | none => []
  | some w => x.waiting.filter fun q => q.sched && inWindow w q.t && !has x.held q.t.req && s.canGo d q

/-- The transfer that a damper grants: a scheduled one of the open window, else, while none of it waits, the oldest
eligible loose one (R288). -/
def State.pick (s : State) (d : Nat) : Option Waiting :=
  let x := s.damper d
  if x.holder.isSome || s.damperHeld d then none
  else
    match (s.scheduled d).foldl olderOf none with
    | some q => some q
    | none =>
      if x.windowBusy || decide (s.now < x.freeAt) then none
      else ((firstOfEach x.waiting []).filter (s.eligible d)).foldl olderOf none

/-- Grant a waiting transfer, from the end of a stopped unit on. A packet that has no number takes it as it leaves, and
is marked scheduled when it leaves in a window (R286). A packet for this module's own stacks passes at once. -/
def State.grant (s : State) (d : Nat) (q : Waiting) : State :=
  let start := max s.now (s.damper d).freeAt
  let s := s.setDamper d { s.damper d with waiting := (s.damper d).waiting.erase q }
  let r : State × Waiting := match q.pkt with
    | some h =>
      if q.numbered then (s, q)
      else
        let n := s.number { h with p := { h.p with sched := q.sched } }
        (n.1, { q with pkt := some n.2, numbered := true })
    | none => (s, q)
  let s := r.1.countGrant d q start
  let q' := { r.2 with granted := true, counted := q.late start || q.granted && q.counted }
  if d < 256 ∧ q.pkt.isSome then s.depart d q'
  else (s.setDamper d { s.damper d with holder := some (q', start) }).endHolder d

/-- A free resource goes to the transfer that the damper picks. -/
def State.arbitrate (s : State) (d : Nat) : State :=
  let s := s.withdraw d
  match s.pick d with
  | some q => s.grant d q
  | none => s

/-- The holder stops at its next unit boundary; what goes on later waits first among its requester's transfers. -/
def State.stopHolder (s : State) (d : Nat) (q : Waiting) (k freeAt : Nat) : State :=
  let s := s.cutAt d k q
  s.setDamper d { s.damper d with holder := none, freeAt := freeAt, waiting := q :: (s.damper d).waiting }

/-- A loose holder is stopped for a scheduled transfer, unless its last unit is under way; it keeps its stamp and
starts again later. An ACCUM is never stopped part way (R289, R290). -/
def State.preempt (s : State) (d : Nat) : State :=
  match s.scheduled d, (s.damper d).holder with
  | _ :: _, some (q, g) =>
    let b := boundary q.t g s.now
    if q.sched || q.t.accum || decide (q.t.units ≤ b.1) then s
    else ((s.countStop d q).stopHolder d { q with since := s.now, counted := false } b.1 b.2).hint d q.t
  | _, _ => s

/-! ### Windows opening and closing (R281, R287, R289) -/

/-- The open window closes at its count: a scheduled transfer still running finishes its unit, and the rest goes on as
loose traffic with the stamp of the opening (R287). -/
def State.shutWindow (s : State) (d : Nat) : State :=
  let x := s.damper d
  let t := s.setDamper d { x with window := none, opened := 0, closes := 0 }
  match x.window, x.holder with
  | some w, some (q, g) =>
    if q.sched && inWindow w q.t && decide (x.closes < g + q.t.ticks) then
      let b := boundary q.t g x.closes
      let rest := { q with t := q.t.after b.1, stamp := x.opened, since := x.closes, sched := false }
      (if q.t.units ≤ b.1 then t
        else if q.pkt.isSome then t.setDamper d { t.damper d with holder := some ({ q with sched := false, stamp := x.opened }, g) }
        else t.stopHolder d rest b.1 b.2).setBit dmpStatusLateSeen d
    else t
  | _, _ => t

/-- A window opens: its scheduled transfers take the resource (R289). -/
def State.startWindow (s : State) (d w : Nat) : State :=
  let s := s.setDamper d { s.damper d with window := some w, opened := s.openCount w, closes := s.closeCount w }
  let s := s.preempt d
  let s := if (s.scheduled d).isEmpty then s else s.arbitrate d
  s.hintAll d

/-- The transfer that has ended lets go, then a window that has reached its count closes, then one opens (R281). -/
def State.settleDamper (s : State) (d : Nat) : State :=
  let s := s.endHolder d
  if !s.wheel.running then s
  else
    let s := if (s.damper d).window.isSome && decide ((s.damper d).closes ≤ s.now) then s.shutWindow d else s
    if (s.damper d).window.isSome then s
    else
      match (s.windows d).find? fun w => decide (s.openCount w ≤ s.now) && decide (s.now < s.closeCount w) with
      | some w => s.startWindow d w
      | none => s

/-- A transfer reaches a damper (R283, R286, R289, R291). -/
def State.reach (s : State) (d : Nat) (t : Transfer) (pkt : Option HeldPkt) (numbered : Bool) : State :=
  let s := s.settleDamper d
  let q : Waiting := ⟨t, s.now, s.now, (s.windows d).any fun w => inWindow w t, false, false, pkt, numbered⟩
  let s := s.setDamper d { s.damper d with waiting := (s.damper d).waiting ++ [q] }
  let s := s.preempt d
  if (s.scheduled d).isEmpty then s.hint d t else s.arbitrate d

/-- A damper gives a grant. -/
def State.serveDamper (s : State) (d : Nat) : State := ((s.settleDamper d).arbitrate d).hintAll d

/-! ### Accesses granted as they arrive -/

/-- A transfer would be granted on its arrival. -/
def State.admits (s : State) (d : Nat) (q : Waiting) : Bool :=
  (s.setDamper d { s.damper d with waiting := (s.damper d).waiting ++ [q] }).pick d == some q

/-- The part of an access that one channel has. -/
def State.channelPart (s : State) (t : Transfer) (pkt : Option HeldPkt) (p : Nat × Nat) : Waiting :=
  let t := { t with units := p.2, ticks := lineTicks p.2 }
  ⟨t, s.now, s.now, (s.windows p.1).any fun w => inWindow w t, false, false, pkt, true⟩

def State.countParts (s : State) (t : Transfer) (l : List (Nat × Nat)) : State :=
  l.foldl (fun s p => s.countGrant p.1 (s.channelPart t none p) s.now) s

/-- An access of the stacks by a packet: the channels that it uses grant their parts in order, and the first that does
not keeps the packet waiting; true when all have granted (R282, R290). -/
def State.passChannels (s : State) (t : Transfer) (h : HeldPkt) (l : List (Nat × Nat)) : State × Bool :=
  let s := l.foldl (fun s p => s.settleDamper p.1) s
  let free := l.takeWhile fun p => s.admits p.1 (s.channelPart t (some h) p)
  let s := s.countParts t free
  match l.drop free.length with
  | [] => (s, true)
  | p :: _ => (s.reach p.1 (s.channelPart t (some h) p).t (some h) true, false)

/-- Every damper of an access grants its part now. -/
def State.passesAll (s : State) (t : Transfer) (l : List (Nat × Nat)) : Bool :=
  l.all fun p => (s.settleDamper p.1).admits p.1 (s.channelPart t none p)

/-- The front end's writes of host memory: the host ring and completion actions (R345). -/
def frontEndHost : Transfer := ⟨1416, 0, 2 ^ 32, false, false, false, 0, 0⟩

/-- Damper 270 grants a write of the front end as it arrives. -/
def State.hostGrants (s : State) : Bool := s.passesAll frontEndHost [(270, 1)]

def State.hostGrant (s : State) : State := s.countParts frontEndHost [(270, 1)]

end Sys2Proof.Machine
end

