-- ==== Sys2Proof/Machine/Flue.lean ====
section
/-! DEFINITION. Machine/Flue.lean: the signal file and the barrier groups (R213-R230), the sync
operations of shelf sequencers (Table 8.4) and the Sitter's signal commands (R225, R230). -/

namespace Sys2Proof.Machine

/-! ### Work-list slots of sync operations -/

/-- A sync slot that only has its effect later and holds back no later slot (R202). -/
def slotIsPost (w : Nat) : Bool := slotIsSync w && (synOp w == 0x10 || synOp w == 0x13)

/-- Mark the running wait or held arrival of an observer done. -/
def doneSync (l : List (Nat × ItemSt)) : List (Nat × ItemSt) :=
  updFirst (fun p => decide (p.2 = .running) && slotIsSync p.1) (fun p => (p.1, .done)) l

def Firing.syncDone (f : Firing) (o : Nat) : Firing :=
  { f with work := f.work.map fun p => if p.1 = o then (p.1, doneSync p.2) else p }

/-- The sync slot that an observer may issue next: the first slot that has not started. -/
def Firing.syncNext (f : Firing) (o op : Nat) : Option (Nat × Nat) :=
  match f.next o with
  | some (i, w) =>
    if slotIsSync w && synOp w == op && has f.granted (synOpIndex w) &&
      (f.items o).all (fun p => !(decide (p.2 = .running) && slotIsSync p.1)) then some (i, w) else none
  | none => none

/-- The firing that issues on an observer: running on its claim, in normal service (R210). -/
def State.issuer (s : State) (o q : Nat) : Option Firing :=
  match s.firing? q with
  | some f => if s.inService && f.running && f.claimHeld && claimHas (s.claimOf f) o then some f else none
  | none => none

/-! ### Signals -/

/-- The table entry of a signal among resident graphs (R214). -/
def State.sigEntry (s : State) (sig : Nat) : Option Nat :=
  s.fe.graphs.findSome? fun g => g.2.signals.find? fun e => sigSig e == sig

def State.sigFabric (s : State) (sig : Nat) : Bool :=
  match s.sigEntry sig with
  | some e => sigCls e == 1
  | none => false

/-- A graph's signal table names a signal with a class. -/
def Graph.declares (g : Graph) (sig cls : Nat) : Bool := g.signals.any fun e => sigSig e == sig && sigCls e == cls

/-- The firing that holds a LOCAL signal (R215). -/
def State.sigHolder (s : State) (sig : Nat) : Option Firing :=
  s.fe.firings.find? fun f => f.launched && ((s.graph? f.graph).map (·.declares sig 0)).getD false

/-- A firing in flight names a signal (R225). -/
def State.sigNamed (s : State) (sig : Nat) : Bool :=
  s.fe.firings.any fun f => ((s.graph? f.graph).map fun g => g.declares sig 0 || g.declares sig 1).getD false

def State.sigVal (s : State) (sig : Nat) : Nat := s.rd fluSigValueValue sig

/-- A wait is released: the slot of a sequencer is done, an engine's WAIT_COPY may go on (R219); a release in the
expiry cycle counts (R221). -/
def State.released (s : State) (w : Wait) : State :=
  let s :=
    if isEngineObs w.observer then
      let x := s.engine (w.observer - 1280)
      let met := fun (d : HeldDesc) => if d.waiting then { d with met := true } else d
      s.setEngine (w.observer - 1280) { x with held := x.held.map met }
    else
      match w.fseq with
      | some q => s.updFiring q fun f => f.syncDone w.observer
      | none => s
  if w.timeout ≠ 0 ∧ s.now = w.tick + 1024 * w.timeout then s.satAdd fluNearTimeoutNear 0 1 else s

/-- Serve the consuming waiters of a signal in registration order (R219, R220 step 3). -/
def serveCon (sig : Nat) : List Wait → State → State
  | [], s => s
  | w :: r, s =>
    if w.sig = sig ∧ w.consuming then
      if w.value ≤ s.sigVal sig then
        let s := s.wr fluSigValueValue sig (s.sigVal sig - w.value)
        let s := { s with flue := { s.flue with waits := s.flue.waits.filter fun x => decide (x ≠ w) } }
        serveCon sig r (s.released w)
      else s
    else serveCon sig r s

/-- Steps 2 and 3 of R220 for one signal. -/
def State.serve (s : State) (sig : Nat) : State :=
  let met := fun (w : Wait) => w.sig == sig && !w.consuming && decide (w.value ≤ s.sigVal sig)
  let go := s.flue.waits.filter met
  let s := { s with flue := { s.flue with waits := s.flue.waits.filter fun w => !met w } }
  let s := go.foldl State.released s
  serveCon sig s.flue.waits s

/-- The increments of a ctl cycle reach a signal that holds v, then the waiters (R217, R218, R220). When they take it
beyond 2^32 − 1, every firing that issued one of them is abandoned with F-151. -/
def State.landSig (s : State) (sig v : Nat) (o : Opening) : State :=
  let s := { s with flue := { s.flue with opened := tdel s.flue.opened sig } }
  if v + o.sum < 2 ^ 32 then (s.wr fluSigValueValue sig (v + o.sum)).serve sig
  else
    let s := ((s.wr fluSigValueValue sig (2 ^ 32 - 1)).setBit fluStatusSigOvfSeen 0).wr fluStatusLastSig 0 sig
    o.issuers.foldl (fun s q => s.fault q 151) (s.serve sig)

def noneOpen : Opening := ⟨0, []⟩

/-- The ctl cycle of a signal in which increments have gathered is over. -/
def State.closeSig (s : State) (sig : Nat) : State :=
  match s.flue.opened.find? fun p => p.1 == sig with
  | some p => s.landSig sig (s.sigVal sig) p.2
  | none => s

/-- Every open ctl cycle is over. -/
def State.closeCycle (s : State) : State := (s.flue.opened.map (·.1)).foldl State.closeSig s

def Opening.add (o : Opening) (n : Nat) (issuer : Option Nat) : Opening :=
  ⟨o.sum + n, match issuer with
    | some q => addNew o.issuers q
    | none => o.issuers⟩

/-- An increment of a signal (R217). With `more` another increment of the signal lands in the same ctl cycle: this
one only joins its sum. Log 43. -/
def State.incSignal (s : State) (sig n : Nat) (issuer : Option Nat) (more : Bool) : State :=
  let o := (tget noneOpen s.flue.opened sig).add n issuer
  if more then { s with flue := { s.flue with opened := tput s.flue.opened sig o } }
  else s.landSig sig (s.sigVal sig) o

/-! ### FABRIC increments exactly once (R223, R224) -/

def RecKey.same (a b : RecKey) : Bool := a.src == b.src && a.observer == b.observer && a.fseq == b.fseq

/-- What the record table does with a key: dropped, applied or held back. -/
inductive RecAct
  | drop | apply | full
  deriving DecidableEq, Repr

def recAct (l : List RecKey) (k : RecKey) : RecAct :=
  match l.find? (k.same ·) with
  | some e => if k.index ≤ e.index then .drop else .apply
  | none => if l.length < 16384 then .apply else .full

def recPut (l : List RecKey) (k : RecKey) : List RecKey :=
  if l.any (k.same ·) then updFirst (k.same ·) (fun _ => k) l else l ++ [k]

/-- A keyed increment arrives: the state and whether it is acknowledged. -/
def State.incKeyed (s : State) (k : RecKey) (sig n : Nat) (issuer : Option Nat) (more : Bool) : State × Bool :=
  match recAct s.flue.records k with
  | .drop => (s, true)
  | .full => (s.setBit fluStatusRecordFullSeen 0, false)
  | .apply =>
    let s := { s with flue := { s.flue with records := recPut s.flue.records k } }
    let s := s.wr fluRecordUsePeak 0 (max (s.rd fluRecordUsePeak 0) s.flue.records.length)
    (s.incSignal sig n issuer more, true)

/-- A retire notice frees its key's entry (R224). -/
def State.retireKey (s : State) (src observer fseq : Nat) : State :=
  { s with flue := { s.flue with records := s.flue.records.filter fun r =>
      !(r.src == src && r.observer == observer && r.fseq == fseq) } }

/-- The next issue index of an observer for a firing. -/
def Firing.issueIndex (f : Firing) (o : Nat) : Nat := tget 0 f.issued o

/-- Count an issued FABRIC increment and the flow it went on: (module, observer) (R223, R224). -/
def Firing.issue (f : Firing) (dst o : Nat) : Firing :=
  { f with issued := tput f.issued o (f.issueIndex o + 1)
           retire := if f.retire.any (fun p => p.1 == dst && p.2 == o) then f.retire else f.retire ++ [(dst, o)] }

/-- An increment that a firing issues to a signal of this module: keyed when the signal is FABRIC.
The second part says whether it took effect. -/
def State.firingInc (s : State) (f : Firing) (o sig n : Nat) (more : Bool) : State × Bool :=
  if s.sigFabric sig then
    let r := s.incKeyed ⟨s.self, o, f.fseq, f.issueIndex o⟩ sig n (some f.fseq) more
    if r.2 then (r.1.updFiring f.fseq fun f => f.issue s.self o, true) else r
  else (s.incSignal sig n (some f.fseq) more, true)

/-- SIG_INC (R202, R217): once every earlier slot of the queue has completed. -/
def execSigInc (observer fseq sig value opIndex : Nat) (s : State) (more : Bool := false) : Out :=
  onUnit (observer < 1418 && sig < 8192) <| .next <|
    match s.issuer observer fseq with
    | none => s
    | some f =>
      match f.syncNext observer 0x10 with
      | none => s
      | some (i, w) =>
        if synSig w = sig ∧ synValue w = value ∧ synOpIndex w = opIndex ∧ f.earlierDone observer i then
          let r := s.firingInc f observer sig value more
          if r.2 then r.1.updFiring fseq fun f => f.setItem observer i .done else r.1
        else s

/-- Register a wait and evaluate it against the value (R220 step 4), which the increments of an earlier cycle have
reached. -/
def State.register (s : State) (w : Wait) : State :=
  let s := s.closeSig w.sig
  ({ s with flue := { s.flue with waits := s.flue.waits ++ [w] } }).serve w.sig

/-- A wait of a shelf sequencer's queue starts (R219). -/
def State.startWait (s : State) (op observer fseq sig value timeout opIndex : Nat) : State :=
  match s.issuer observer fseq with
  | none => s
  | some f =>
    match f.syncNext observer op with
    | none => s
    | some (i, w) =>
      if synSig w = sig ∧ synValue w = value ∧ synTimeout w = timeout ∧ synOpIndex w = opIndex then
        (s.updFiring fseq fun f => f.setItem observer i .running).register
          ⟨observer, some fseq, sig, op == 0x12, value, s.now, timeout, opIndex⟩
      else s

def execWaitGe (observer fseq sig value timeout opIndex : Nat) (s : State) : Out :=
  onUnit (observer < 1418 && sig < 8192) <| .next (s.startWait 0x11 observer fseq sig value timeout opIndex)

def execWaitCon (observer fseq sig value timeout opIndex : Nat) (s : State) : Out :=
  onUnit (observer < 1418 && sig < 8192) <| .next (s.startWait 0x12 observer fseq sig value timeout opIndex)

/-- WAIT_EXPIRY (R221, R222): a wait whose limit the wheel count reaches faults its firing, unless the increments
that gathered in the cycle release it. -/
def execWaitExpiry (observer sig : Nat) (s : State) : Out :=
  onUnit (observer < 1418 && sig < 8192) <| .next <|
    match s.flue.waits.find? fun w => w.observer == observer && w.sig == sig && w.timeout != 0 with
    | none => s
    | some w =>
      let s := (s.advanceTo (w.tick + 1024 * w.timeout)).closeSig sig
      if s.flue.waits.any fun x => decide (x = w) then
        let s := { s with flue := { s.flue with waits := s.flue.waits.filter fun x => decide (x ≠ w) } }
        let s := (s.setBit fluStatusTimeoutSeen 0).wr fluStatusLastSig 0 sig
        match w.fseq with
        | some q => s.fault q 152
        | none => s
      else s

/-! ### Barriers (R227-R230) -/

def State.bar? (s : State) (g : Nat) : Option Barrier := (s.flue.bars.find? fun p => p.1 == g).map (·.2)

def State.setBar (s : State) (g : Nat) (b : Barrier) : State :=
  { s with flue := { s.flue with bars := tput s.flue.bars g b } }

/-- Every observer of the mask has arrived (R228). -/
def Barrier.complete (b : Barrier) : Bool :=
  (List.range 1418).all fun n => !bit b.mask n || has b.arrived n

def Barrier.latestOf (b : Barrier) (o : Nat) : Option Nat := (b.latest.find? fun p => p.1 == o).map (·.2)

/-- Count an arrival at the open generation. -/
def Barrier.arrive (b : Barrier) (o : Nat) : Barrier :=
  { b with arrived := addNew b.arrived o
           latest := (b.latest.filter fun p => p.1 != o) ++ [(o, b.gen)] }

/-- What an observer's held slot does once its second arrival counts: an arrival is done, an
arrive-and-wait goes on waiting. -/
def Firing.secondCounted (f : Firing) (o : Nat) : Firing :=
  { f with work := f.work.map fun p =>
      if p.1 = o then
        (p.1, updFirst (fun x => decide (x.2 = .running) && slotIsSync x.1)
          (fun x => if synOp x.1 = 0x13 then (x.1, .done) else x) p.2)
      else p }

/-- Release the waiters of completed generations, open the next one, count held second arrivals; `fuel`
bounds how often second arrivals complete a generation at once. -/
def settleBar : Nat → Nat → State → State
  | 0, _, s => s
  | fuel + 1, g, s =>
    match s.bar? g with
    | none => s
    | some b =>
      if !b.complete then s
      else
        let go := b.waiting.filter fun p => p.2 ≤ b.gen
        let held := b.second
        let nb := held.foldl Barrier.arrive
          { b with gen := b.gen + 1, arrived := [], waiting := b.waiting.filter fun p => !(p.2 ≤ b.gen), second := [] }
        let s := go.foldl (fun s p => s.updFiring b.fseq fun f => f.syncDone p.1) (s.setBar g nb)
        let s := held.foldl (fun s o =>
          let s := s.updFiring b.fseq fun f => f.secondCounted o
          if (((s.firing? b.fseq).map fun f => f.items o).getD []).any
              fun x => decide (x.2 = .running) && slotIsSync x.1 then
            match s.bar? g with
            | some c => s.setBar g { c with waiting := c.waiting ++ [(o, c.gen)] }
            | none => s
          else s) s
        settleBar fuel g s

/-- The firing that holds a group, while it is switched out, is to restore an arrival of the observer (R235). -/
def State.arrivalSaved (s : State) (g o : Nat) (b : Barrier) : Bool :=
  ((s.firing? b.fseq).bind (·.ctx)).any fun c => c.arrivals.any fun p => p.1 == g && has p.2 o

/-- A sync operation of the Sitter takes effect, with its reply; false says that it is held (R225, R230). -/
def State.sitSync (s : State) (o : Origin) (more : Bool) : SitSync → State × Bool
  | .inc sig value =>
    (if (s.sigHolder sig).isSome then s.refuse o (.s 242) else (s.incSignal sig value none more).done o [], true)
  | .read sig =>
    let s := s.closeSig sig
    (s.done o [s.sigVal sig], true)
  | .set sig value =>
    (if (if s.sigFabric sig then s.sigNamed sig else (s.sigHolder sig).isSome) then s.refuse o (.s 242)
      else
        let p := tget noneOpen s.flue.opened sig
        let u := s.wr fluSigValueValue sig value
        let t := if more then { u with flue := { u.flue with opened := tput u.flue.opened sig p } } else s.landSig sig value p
        t.done o [], true)
  | .arrive group =>
    match s.bar? group with
    | none => (s.refuse o (.s 243), true)
    | some b =>
      if !bit b.mask 1417 then (s.refuse o (.s 243), true)
      else if has b.arrived 1417 || s.arrivalSaved group 1417 b then
        (s.setBar group { b with second := b.second ++ [1417] }, false)
      else ((settleBar 3 group (s.setBar group (b.arrive 1417))).done o [], true)

/-- The operations behind the Sitter's held arrival take effect, until one of them is held; `fuel` bounds how many
there are. -/
def sitterRest : Nat → State → State
  | 0, s => s
  | fuel + 1, s =>
    match s.flue.sitter with
    | [] => s
    | (o, op, _) :: r =>
      let t := s.sitSync o false op
      if t.2 then sitterRest fuel { t.1 with flue := { t.1.flue with sitter := r } }
      else { t.1 with flue := { t.1.flue with sitter := (o, op, true) :: r } }

/-- The Sitter goes on: its held arrival is answered once it counts, or no firing holds the group any more, and the
operations behind it take effect (R230). -/
def State.sitterOn (s : State) : State :=
  match s.flue.sitter with
  | (o, .arrive g, true) :: r =>
    if (s.bar? g).any fun b => has b.second 1417 then s
    else sitterRest r.length (({ s with flue := { s.flue with sitter := r } }).done o [])
  | l => sitterRest l.length s

/-- A barrier group moves on, and the Sitter with it. -/
def State.settle (g : Nat) (s : State) : State := (settleBar 3 g s).sitterOn

/-- A sync operation of the Sitter arrives: behind a held arrival it waits in its mailbox (R230). -/
def State.sitterOp (s : State) (o : Origin) (more : Bool) (op : SitSync) : State :=
  let s := s.sitterOn
  let waits := fun (held : Bool) (s : State) =>
    let s := s.setBox o { s.box o with st := 1 }
    { s with flue := { s.flue with sitter := s.flue.sitter ++ [(o, op, held)] } }
  if s.flue.sitter.isEmpty then
    let t := s.sitSync o more op
    if t.2 then t.1.sitterOn else waits true t.1
  else waits false s

/-- BAR_ARRIVE and BAR_ARRIVE_WAIT (R228, R230). -/
def State.barArrive (s : State) (observer fseq group opIndex : Nat) (wait : Bool) : State :=
  match s.issuer observer fseq with
  | none => s
  | some f =>
    match f.syncNext observer (if wait then 0x15 else 0x13), s.bar? group with
    | some (i, w), some b =>
      if synBar w = group ∧ synOpIndex w = opIndex ∧ f.earlierDone observer i ∧ b.fseq = fseq then
        if has b.arrived observer then
          (s.updFiring fseq fun f => f.setItem observer i .running).setBar group
            { b with second := b.second ++ [observer] }
        else
          let nb := b.arrive observer
          let nb := if wait then { nb with waiting := nb.waiting ++ [(observer, nb.gen)] } else nb
          let s := s.updFiring fseq fun f => f.setItem observer i (if wait then .running else .done)
          State.settle group (s.setBar group nb)
      else s
    | _, _ => s

def execBarArrive (observer fseq group opIndex : Nat) (s : State) : Out :=
  onUnit (observer < 1418 && group < 256) <| .next (s.barArrive observer fseq group opIndex false)

def execBarArriveWait (observer fseq group opIndex : Nat) (s : State) : Out :=
  onUnit (observer < 1418 && group < 256) <| .next (s.barArrive observer fseq group opIndex true)

/-- BAR_WAIT (R228). -/
def execBarWait (observer fseq group opIndex : Nat) (s : State) : Out :=
  onUnit (observer < 1418 && group < 256) <| .next <|
    match s.issuer observer fseq with
    | none => s
    | some f =>
      match f.syncNext observer 0x14, s.bar? group with
      | some (i, w), some b =>
        if synBar w = group ∧ synOpIndex w = opIndex ∧ b.fseq = fseq then
          let gen := (b.latestOf observer).getD b.gen
          if gen < b.gen then s.updFiring fseq fun f => f.setItem observer i .done
          else (s.updFiring fseq fun f => f.setItem observer i .running).setBar group
            { b with waiting := b.waiting ++ [(observer, gen)] }
        else s
      | _, _ => s

/-- The slot at DMA_HEAD of the engine's ring in memory, if it has one (R184). -/
def State.headSlot (s : State) (e : Nat) : Option (Nat × Nat × Nat) :=
  let sp := s.rd dmaRingBaseSpace e
  if has [1, 3] sp then
    let a := 64 * s.rd dmaRingBaseAddr e + 64 * (s.rd dmaHeadHead e % s.ringSlots e)
    some (sp, a, leNat (s.readSpace sp a 64))
  else none

/-- The engine holds no descriptor and the slot at DMA_HEAD holds OWN = 0 (R229): no slot of the firing's work list
is left, or none of the ring in memory. -/
def State.engineIdle (s : State) (e : Nat) : Bool :=
  (s.engine e).held.isEmpty &&
    match (s.onObserver (engineObserver e)).map fun f => (f, f.items (engineObserver e)) with
    | some (f, _ :: _) => (f.next (engineObserver e)).isNone
    | _ =>
      match s.headSlot e with
      | some x => dmaOwn x.2.2 == 0
      | none => true

/-- DMA_BARRIER_ARRIVAL (R229), for a firing that runs on its claim. -/
def execDmaBarrierArrival (engine group : Nat) (s : State) : Out :=
  onUnit (engine < 136 && group < 256) <| .next <|
    match s.bar? group with
    | none => s
    | some b =>
      let o := engineObserver engine
      if s.inService ∧ ((s.firing? b.fseq).any fun f => f.running && f.claimHeld) ∧ bit b.mask o ∧ !has b.arrived o ∧
          s.engineIdle engine then State.settle group (s.setBar group (b.arrive o))
      else s

/-! ### Attempts -/

/-- The start of an attempt: LOCAL signals at INIT without waiters, barrier groups at generation 0
(R215, R228). -/
def State.startSync (s : State) (g : Graph) (q : Nat) : State :=
  let s := (g.signals.filter fun e => sigCls e == 0).foldl (fun s e =>
    let s := s.wr fluSigValueValue (sigSig e) (sigInit e)
    { s with flue := { s.flue with
        waits := s.flue.waits.filter fun w => w.sig != sigSig e, opened := tdel s.flue.opened (sigSig e) } }) s
  g.barriers.foldl (fun s e => s.setBar (barGroup e) ⟨q, barMask e, 0, [], [], [], []⟩) s

/-- A firing's end frees its barrier groups (R260 step 6). -/
def State.freeBars (s : State) (q : Nat) : State :=
  { s with flue := { s.flue with bars := s.flue.bars.filter fun p => p.2.fseq != q } }

/-! ### The Sitter's commands (R225, R230) -/

/-- signal.inc: a LOCAL signal held by a firing in flight is refused with S-242. -/
def execSignalIncCmd (o : Origin) (sig value : Nat) (s : State) (more : Bool := false) : Out :=
  onUnit (sig < 8192) <| .next <| s.command o 0x0130 fun s => s.sitterOp o more (.inc sig value)

/-- signal.read. -/
def execSignalRead (o : Origin) (sig : Nat) (s : State) : Out :=
  onUnit (sig < 8192) <| .next <| s.command o 0x0131 fun s => s.sitterOp o false (.read sig)

/-- signal.set: FABRIC only while no firing in flight names the signal, LOCAL only while none holds it. -/
def execSignalSet (o : Origin) (sig value : Nat) (s : State) (more : Bool := false) : Out :=
  onUnit (sig < 8192) <| .next <| s.command o 0x0132 fun s => s.sitterOp o more (.set sig value)

/-- barrier.arrive of the Sitter, observer 1,417. -/
def execBarrierArriveCmd (o : Origin) (group : Nat) (s : State) : Out :=
  onUnit (group < 256) <| .next <| s.command o 0x0133 fun s => s.sitterOp o false (.arrive group)

end Sys2Proof.Machine
end

