-- ==== Sys2Proof/Machine/Persist.lean ====
section
/-! DEFINITION. Machine/Persist.lean: whole registers as numbers, the end of normal service (R417,
R256), the persistent registers (R388-R392) and PERSISTENT_WRITE. -/

namespace Sys2Proof.Machine

/-! ### Registers as numbers -/

/-- The stored value of entry i of a register. -/
def State.regWord (s : State) (r : Reg) (i : Nat) : Nat := (r.fields.map fun f => s.rd f i * 2 ^ f.lo).sum

def State.setRegWord (s : State) (r : Reg) (i v : Nat) : State :=
  r.fields.foldl (fun s f => s.wr f i (bits v f.lo f.width)) s

/-- A register's reset value. -/
def Reg.resetWord (r : Reg) : Nat := (r.fields.map fun f => f.reset * 2 ^ f.lo).sum

/-! ### The end of normal service -/

/-- Every pass and descriptor in progress stops at once (R199, R256). -/
def State.stopAll (s : State) : State :=
  let s := (s.dropPasses fun _ => true).dropDescs fun _ => true
  { s with flue := { s.flue with waits := [] } }

/-- The code of the firings that had not ended, once service ends with `code`: an earlier end decides. -/
def Phase.endCode (p : Phase) (code : Nat) : Nat :=
  match p with
  | .down c => c
  | .off c => c
  | .recovery c => if c = 0 then code else c
  | _ => code

/-- Normal service ends and a restart by Table 16.2 follows; `code` is the F- code of the firings that
had not ended, `cause` the MOD_RESET.CAUSE to come (R12, R268, R417). -/
def State.endService (s : State) (code cause : Nat) : State :=
  if s.powered then
    let s := s.stopAll
    let phase := Phase.down (s.svc.phase.endCode code)
    { s with svc := { s.svc with phase := phase, causeNext := cause, resting := false }
             power := { s.power with seqLive := false } }
  else s

/-- A module fault (R12): F-163 for the firings. -/
def State.moduleFault (s : State) (c : Code) : State :=
  if s.powered then
    let s := s.endService 163 3
    { s with power := { s.power with faults := s.power.faults ++ [c] } }
  else s

/-! ### Persistent registers -/

/-- The persistent registers by number (log 24): FE_FSEQ_END, FAB_INC, SEC_KEYSTATE, SEC_FLOOR,
SEC_FW_SEL, PRS_COPY_SEL, SIT_MGMT_CFG, PCI_S_CFG, MTR_CFG, MOD_REST_CFG. Number 10 holds the MAC
address; the others are unused. -/
def prsReg : Nat → Option Reg
  | 0 => some feFseqEndReg | 1 => some fabIncReg | 2 => some secKeystateReg | 3 => some secFloorReg
  | 4 => some secFwSelReg | 5 => some prsCopySelReg | 6 => some sitMgmtCfgReg | 7 => some pciSCfgReg
  | 8 => some mtrCfgReg | 9 => some modRestCfgReg | _ => none

/-- The value a register reads when no cell of it is valid (R392). -/
def prsResetValue (r : Nat) : Nat := if r = 10 then Config.macAddress else ((prsReg r).map Reg.resetWord).getD 0

/-- SEC_KEYSTATE, SEC_FLOOR and PRS_COPY_SEL (R392). -/
def prsCritical (r : Nat) : Bool := r == 2 || r == 3 || r == 5

/-- A cell of a slot; at manufacture cell 0 of slot 0 holds the reset value with COUNT 0 (log 25). -/
def State.prsCell (s : State) (r slot c : Nat) : Option Cell :=
  match s.prs.cells.find? fun p => p.1 == 2 * (4 * r + slot) + c with
  | some p => p.2
  | none => if slot = 0 ∧ c = 0 then some ⟨prsResetValue r, 0⟩ else none

/-- The valid cell with the higher COUNT of a slot. -/
def State.prsSlot (s : State) (r slot : Nat) : Option Cell :=
  match s.prsCell r slot 0, s.prsCell r slot 1 with
  | some a, some b => if a.count < b.count then some b else some a
  | some a, none => some a
  | none, b => b

/-- The active slot: the highest-numbered with a valid cell (R389). -/
def State.prsActive (s : State) (r : Nat) : Option (Nat × Cell) :=
  [3, 2, 1, 0].findSome? fun k => (s.prsSlot r k).map fun c => (k, c)

/-- The last committed value (R388, R392). -/
def State.prsValue (s : State) (r : Nat) : Nat := ((s.prsActive r).map (·.2.value)).getD (prsResetValue r)

/-- Refused as worn out: the last slot has taken 200,000,000 writes (R390). -/
def State.prsWorn (s : State) (r : Nat) : Bool :=
  match s.prsActive r with
  | some (3, c) => decide (200000000 ≤ c.count)
  | _ => false

/-- A unit has used its last spare of a kind: S-360 once (R425). -/
def State.exhaust (s : State) (kind unit : Nat) : State :=
  if s.rep.exhausted.any fun p => p.1 == kind && p.2 == unit then s
  else
    let s := { s with rep := { s.rep with exhausted := s.rep.exhausted ++ [(kind, unit)] } }
    (s.wr modSparesExhausted 0 (s.rd modSparesExhausted 0 ||| 2 ^ kind)).post (.s 360) [kind, unit]

/-- The cell of the next write of a register and the slot it goes to (R389, R390, R392). -/
def State.prsTarget (s : State) (r : Nat) : Nat × Nat :=
  match s.prsActive r with
  | none => (3, 1)
  | some (k, c) => if k < 3 ∧ 190000000 ≤ c.count + 1 then (k + 1, 1) else (k, c.count + 1)

/-- Put a cell in place; a write torn by a loss of power leaves it invalid (R389). -/
def State.prsPut (s : State) (r slot count value : Nat) (torn : Bool) : State :=
  let k := 2 * (4 * r + slot) + count % 2
  { s with prs := { s.prs with cells := tput s.prs.cells k (if torn then none else some ⟨value, count⟩) } }

/-- What a commit shows: the register's fields, and the retirement of a slot. -/
def State.prsShown (s : State) (r : Nat) : State :=
  match prsReg r with
  | some g => s.setRegWord g 0 (s.prsValue r)
  | none => s

/-- Write a persistent register: the state, and whether the write was taken (R388-R392). -/
def State.prsWrite (s : State) (r value : Nat) (torn : Bool) : State × Bool :=
  let v := value % 2 ^ 64
  match s.prsActive r with
  | none =>
    if torn then
      if prsCritical r then (s.moduleFault (.f 195), false) else (s.setBit prsStatusRefusedSeen 0, false)
    else (((s.prsPut r 3 1 v false).prsShown r).exhaust 9 r, true)
  | some (k, c) =>
    if c.value = v then (s, true)
    else if s.prsWorn r then (s.setBit prsStatusRefusedSeen 0, false)
    else
      let t := s.prsTarget r
      let s := s.prsPut r t.1 t.2 v torn
      if torn then (s, true)
      else
        let s := s.prsShown r
        if t.1 = k then (s, true)
        else
          let s := (s.setBit prsStatusRetireSeen 0).post (.s 346) [r, k]
          (if t.1 = 3 then s.exhaust 9 r else s, true)

/-- A write of the module's own: one that is refused leaves the register as it was. -/
def State.persist (s : State) (r value : Nat) : State := (s.prsWrite r value false).1

/-- The rate bucket after its refill: one write each 10^9 tk up to 64 (R391). -/
def State.prsBucket (s : State) (r : Nat) : Nat × Nat :=
  let b := tget (64, 0) s.prs.tokens r
  let n := (s.now - b.2) / 1000000000
  (min 64 (b.1 + n), b.2 + 1000000000 * n)

/-- A write issued through reg.write: S-345 beyond the bucket or when worn (R390, R391, Table 14.9). -/
def State.prsHostWrite (s : State) (r value : Nat) (torn : Bool) : State × Bool :=
  let b := s.prsBucket r
  if b.1 = 0 then (s.setBit prsStatusRefusedSeen 0, false)
  else
    let s := { s with prs := { s.prs with tokens := tset (64, 0) s.prs.tokens r (b.1 - 1, b.2) } }
    s.prsWrite r value torn

/-- The registers show their last committed values. -/
def State.prsShowAll (s : State) : State := (List.range 11).foldl State.prsShown s

/-- A register that commits has no valid cell (R392). -/
def State.prsBroken (s : State) : Bool := (List.range 11).any fun r => prsCritical r && (s.prsActive r).isNone

/-- The registers read at restart (R389, R392): one without a valid cell posts S-347. -/
def State.prsLost (s : State) : State :=
  ((List.range 11).filter fun r => (s.prsActive r).isNone).foldl (fun s r =>
    (s.setBit prsStatusLostSeen 0).post (.s 347) [r]) s

/-- PERSISTENT_WRITE: while the control die has power. -/
def execPersistentWrite (r value : Nat) (byRegWrite torn : Bool) (s : State) : Out :=
  onUnit (r < 4096) <| .next <|
    if s.powered then
      (if byRegWrite then s.prsHostWrite r value torn else s.prsWrite r value torn).1
    else s

/-- Register fields that the repair map keeps: column maps, spare maps, DQ spares and the Sitter's cores. -/
def mapFields : List Fld :=
  [tileColmapReg, shfSpareMapReg, klnSpareMap0Reg, klnSpareMap1Reg, stkDqSpareReg].flatMap (·.fields) ++
    [sitCorePairA, sitCorePairB, sitCoreSpare]

def isMapKey (k : Nat) : Bool := mapFields.any fun f => keyField k == f.key 0

/-- The repair map as the module runs with it. -/
def State.mapNow (s : State) : MapCopy := ⟨s.regs.filter fun p => isMapKey p.1, s.rep⟩

/-- A repair map change, written into the inactive copy and committed by one write of PRS_COPY_SEL (R167,
R394); a refused write leaves the active copy as it was. -/
def State.commitRepair (s : State) : State :=
  let s := { s with rep := { s.rep with commits := s.rep.commits + 1 } }
  let s := { s with maps := s.maps.set (1 - s.rd prsCopySelRepair 0) s.mapNow }
  s.persist 5 (s.prsValue 5 ^^^ 1)

/-- The commit that made the active copy of the repair map. -/
def State.mapCommits (s : State) : Nat := ((s.maps[s.rd prsCopySelRepair 0]?).map (·.rep.commits)).getD 0

/-- The active copy of the repair map is loaded (R394, Table 16.2 step 3); repair events, marks for the next
rest point and the ledger of spares used up stand beside it. -/
def State.loadRepair (s : State) : State :=
  match s.maps[s.rd prsCopySelRepair 0]? with
  | none => s
  | some m => { s with
      regs := m.regs.foldl (fun t p => tput t p.1 p.2) (s.regs.filter fun p => !isMapKey p.1)
      rep := { m.rep with
        commits := s.rep.commits, events := s.rep.events, exhausted := s.rep.exhausted, dqFlagged := s.rep.dqFlagged
        rowsFlagged := s.rep.rowsFlagged, colsFlagged := s.rep.colsFlagged } }

end Sys2Proof.Machine
end

