-- ==== Sys2Proof/Machine/Spares.lean ====
section
/-! DEFINITION. Machine/Spares.lean: spares brought in, the reported geometry and hard faults
(R152-R167, R423-R426). Units of the spares ledger are numbered as log 26 says. -/

namespace Sys2Proof.Machine

/-! ### Repair events (R423); kinds are the rows of Table 16.4 from 0, 10 a wheel step, 11 a unit
replaced (log 26) -/

def State.repEvent (s : State) (kind unit : Nat) : State :=
  { s with rep := { s.rep with events := s.rep.events ++ [⟨kind, unit, s.now, s.rd whlPosTurnNo 0⟩] } }

/-! ### Dropping a graph (R75, R243, R284) -/

/-- Ladder slots that a graph carries rules for. -/
def Graph.ladderSlots (g : Graph) : List Nat := g.rules.map rulSlot

def State.ruleInUse (s : State) (slot : Nat) : Bool := s.fe.graphs.any fun g => has g.2.ladderSlots slot

/-- A ladder slot out of use: rule, state and gauge slot read 0. -/
def State.clearSlot (s : State) (slot : Nat) : State :=
  ((s.resetReg feRuleReg slot).resetReg feLadderReg slot).resetReg feGaugeReg slot

/-- A bucket slot free again: its registers and watermarks go. -/
def State.freeBucket (s : State) (b : Nat) : State :=
  let s := [0, 1].foldl (fun s i => (s.resetReg grxInstReg (2 * b + i)).resetReg grxGatherReg (2 * b + i)) s
  { s with grx := { s.grx with
      slots := tdel s.grx.slots b
      marks := s.grx.marks.filter fun p => p.1 / 2 ^ 15 != b
      pmarks := s.grx.pmarks.filter fun p => p.1 / 2 ^ 15 != b } }

/-- Take a graph out of residence with its rules, slot windows, buckets and queue bindings; ladder slots of `keep`
stay as they are. -/
def State.leaveGraph (s : State) (no : Nat) (keep : List Nat) : State :=
  match s.graph? no with
  | none => s
  | some g =>
    let s := { s with fe := { s.fe with graphs := s.fe.graphs.filter fun p => p.1 != no } }
    let shared := fun (k : Nat) => s.fe.graphs.any fun h => h.2.regions.any fun r => regId r == k
    let kept := s.fe.cur.filter fun p => if p.1 < 2 ^ 32 then shared p.1 else p.1 / 2 ^ 32 != no + 1
    let s := { s with fe := { s.fe with cur := kept } }
    let s := (g.ladderSlots.filter fun x => !s.ruleInUse x && !has keep x).foldl State.clearSlot s
    let s := ((s.grx.slots.filter fun b => b.2.graph == no).map (·.1)).foldl State.freeBucket s
    let s := (List.range 64).foldl (fun s q =>
      if s.on feSqCfgPtask q && s.rd feSqCfgPtaskGraph q == no then
        (s.wr feSqCfgPtask q 0).wr feSqCfgPtaskGraph q 0
      else s) s
    let shut := fun (x : Damper) => { x with window := none, opened := 0, closes := 0 }
    let ds := s.dampers.map fun d => (d.1, if d.2.window.any (has g.slots) then shut d.2 else d.2)
    { s with dampers := ds }

/-- A graph goes. -/
def State.dropGraph (s : State) (no : Nat) : State := s.leaveGraph no []

/-! ### The reported geometry (R426) -/

/-- Byte 3 to byte 0 of the entries, as numbers. Tiles of a shelf that is out of service are not listed beside it
(log 131). -/
def State.outList (s : State) : List Nat :=
  let here := fun (t : Nat × Nat × Nat) => !s.rep.outShelves.any fun p => p.1 == t.1 && p.2 == t.2.1
  ((s.rep.outTiles.filter here).map fun t => t.1 + 2 ^ 8 * t.2.1 + 2 ^ 16 * t.2.2) ++
  (s.rep.outShelves.map fun t => t.1 + 2 ^ 8 * t.2 + 2 ^ 16 * 0xFF) ++
  ((s.rep.narrowTiles.filter here).map fun t => t.1 + 2 ^ 8 * t.2.1 + 2 ^ 16 * t.2.2 + 2 ^ 24) ++
  (s.rep.lostKilns.map fun k => k + 2 ^ 8 * 0xFF + 2 ^ 16 * 0xFF + 2 * 2 ^ 24) ++
  (s.rep.lostStacks.map fun n => n + 2 ^ 8 * 0xFF + 2 ^ 16 * 0xFF + 3 * 2 ^ 24)

def insertNat (x : Nat) : List Nat → List Nat
  | [] => [x]
  | y :: r => if x ≤ y then x :: y :: r else y :: insertNat x r

def sortNat (l : List Nat) : List Nat := l.foldr insertNat []

/-- The out-of-service list: kind decides, and a lost kiln's shelves and tiles are not listed again. -/
def State.geomBytes (s : State) : Bytes :=
  let lost := fun (e : Nat) => e / 2 ^ 24 < 2 && has s.rep.lostKilns (e % 256)
  (sortNat (s.outList.filter fun e => !lost e)).flatMap (natLe 4)

def State.geomId (s : State) : Nat :=
  if s.geomBytes = [] then 0
  else
    let x := leNat (shake256 s.geomBytes 4)
    if x = 0 then 1 else x

/-- The geometry as the repair map has it now is reported: at a change, S-361, F-164 for firings of
graphs compiled for another geometry, and those graphs leave residence. -/
def State.newGeometry (s : State) : State :=
  let id := s.geomId
  if id = s.rd modGeomGeomId 0 then s
  else
    let s := (s.wr modGeomGeomId 0 id).post (.s 361) [id]
    let old := (s.fe.graphs.filter fun g => imgGeomId g.2.header != id).map (·.1)
    let qs := (s.fe.firings.filter fun f => has old f.graph).map (·.fseq)
    let s := qs.foldl (fun s q => s.abandon q 164) s
    old.foldl State.dropGraph s

/-! ### Tiles and shelves (R154, R162-R167) -/

def State.shelfOut (s : State) (k sh : Nat) : Bool :=
  has s.rep.lostKilns k || s.rep.outShelves.any fun p => p.1 == k && p.2 == sh

def State.tileOut (s : State) (k sh pos : Nat) : Bool :=
  s.shelfOut k sh || s.rep.outTiles.any fun t => t.1 == k && t.2.1 == sh && t.2.2 == pos

def State.tileNarrow (s : State) (k sh pos : Nat) : Bool :=
  s.rep.narrowTiles.any fun t => t.1 == k && t.2.1 == sh && t.2.2 == pos

/-- A spare tile of a built shelf that can still be brought in: one with all its columns before a narrowed one.
Log 119. -/
def State.freeTile (s : State) (k b : Nat) : Option Nat :=
  let l := (List.range 4).filter fun i =>
    !s.on (tileSpare i).2.1 (builtNo k b) && !s.on (tileSpare i).2.2 (builtNo k b)
  ((l.filter fun i => !s.on tileColmapNarrow (tileInst ⟨k, b, 8, i⟩)) ++ l).head?

def State.freeShelf (s : State) (k : Nat) : Option Nat :=
  (List.range 4).find? fun i => !s.on (shelfSpare i).2.1 k && !s.on (shelfSpare i).2.2 k

/-- The lists of narrowed and lost positions of a logical shelf, from the maps of the tiles that serve it. -/
def State.relist (s : State) (k sh : Nat) : State :=
  let at_ := (List.range 64).map fun p => (p, tileInst (s.builtTile k sh (p / 8) (p % 8)))
  let out := (at_.filter fun x => s.on tileColmapOut x.2).map fun x => (k, sh, x.1)
  let narrow := (at_.filter fun x => s.on tileColmapNarrow x.2 && !s.on tileColmapOut x.2).map fun x => (k, sh, x.1)
  { s with rep := { s.rep with
      outTiles := (s.rep.outTiles.filter fun t => !(t.1 == k && t.2.1 == sh)) ++ out
      narrowTiles := (s.rep.narrowTiles.filter fun t => !(t.1 == k && t.2.1 == sh)) ++ narrow } }

/-- A part replaced at once keeps only what the failed part still returns: the bytes are undefined
(R166). -/
def State.forgetTile (s : State) (k sh pos : Nat) : State := s.forget 0 (tileAddr k sh (pos / 8) (pos % 8) 0) 4096

def State.forgetShelf (s : State) (k sh : Nat) : State :=
  let s := s.forget 1 (2 ^ 33 * k + 2 ^ 25 * sh) sliceBytes
  s.forget 0 (tileAddr k sh 0 0 0) (64 * 4096)

/-- A spare shelf takes a logical shelf's index, or the shelf leaves service. -/
def State.replaceShelf (s : State) (k sh : Nat) (atOnce : Bool) : State :=
  let b := s.builtShelf k sh
  let s := if 160 ≤ b then s.wr (shelfSpare (b - 160)).2.2 k 1 else s
  let s := if atOnce then s.forgetShelf k sh else s
  match s.freeShelf k with
  | some i =>
    let s := if 160 ≤ b then s.wr (shelfSpare (b - 160)).2.1 k 0 else s
    let s := ((s.wr (shelfSpare i).1 k sh).wr (shelfSpare i).2.1 k 1).relist k sh
    let s := s.repEvent 11 (160 * k + sh)
    if (s.freeShelf k).isNone then s.exhaust 2 k else s
  | none => { s with rep := { s.rep with
      outShelves := if s.shelfOut k sh then s.rep.outShelves else s.rep.outShelves ++ [(k, sh)] } }

/-- A spare tile of a built shelf takes the position that tile t serves; a spare that is replaced has failed
(R167). -/
def State.swapTile (s : State) (t : TileId) (pos i : Nat) : State :=
  let n := builtNo t.kiln t.shelf
  let s := if t.row = 8 then (s.wr (tileSpare t.col).2.1 n 0).wr (tileSpare t.col).2.2 n 1 else s
  let s := ((s.wr (tileSpare i).1 n pos).wr (tileSpare i).2.1 n 1).wr tileColmapRetirePend (tileInst t) 0
  if (s.freeTile t.kiln t.shelf).isNone then s.exhaust 1 n else s

/-- Tile t is out of service (R154, R162). -/
def State.tileGone (s : State) (t : TileId) : State :=
  (s.wr tileColmapOut (tileInst t) 1).wr tileColmapRetirePend (tileInst t) 0

/-- R162: a spare tile of the shelf, else a spare shelf of the kiln, else the tile leaves service. -/
def State.replaceTile (s : State) (k sh pos : Nat) (atOnce : Bool) : State :=
  let t := s.builtTile k sh (pos / 8) (pos % 8)
  match s.freeTile k t.shelf with
  | some i =>
    let s := (s.swapTile t pos i).relist k sh
    let s := if atOnce then s.forgetTile k sh pos else s
    s.repEvent 11 (64 * (160 * k + sh) + pos)
  | none =>
    if (s.freeShelf k).isSome then s.replaceShelf k sh atOnce else (s.tileGone t).relist k sh

/-- A hard fault on a logical shelf (R163): F-130 with the tile, F-131 or F-132 for the whole shelf. -/
def State.hardFault (s : State) (k sh code : Nat) (tile : Option Nat) : State :=
  let n := 160 * k + sh
  let s := s.setBit shfWitStatHardSeen (s.shfInst n)
  let s := s.haltPasses fun p => has (opShelves p.word) n
  let s := (s.claimants n).foldl (fun s q => s.fault q code) s
  let s := match tile with
    | some pos => s.replaceTile k sh pos true
    | none => s.replaceShelf k sh true
  (s.commitRepair).newGeometry

end Sys2Proof.Machine
end

