-- ==== Sys2Proof/Machine/Fabric.lean ====
section
/-! DEFINITION. Machine/Fabric.lean: the fabric plan, routes and detours (R305-R313), the link layer
(R296-R304), packets sent in sequence (R314-R317), and the commands of links, training and plans. -/

namespace Sys2Proof.Machine

/-! ### The plan (Table 11.6) -/

def planId (p : Bytes) : Nat := field p 0 4
def planDims (p : Bytes) : Nat := bits (field p 4 2) 0 14
def planRoot (p : Bytes) : Nat := bits (field p 6 2) 0 14
def planPresent (p : Bytes) (m : Nat) : Bool := bit (field p (field p 8 4 + m / 8) 1) (m % 8)
def planParent (p : Bytes) (m : Nat) : Nat := field p (field p 12 4 + 2 * m) 2
def planAlt (p : Bytes) (m d : Nat) : Nat := field p (field p 16 4 + 14 * m + d) 1

/-- CRC-64 over the plan with its CRC field read as 0. -/
def planOk (p : Bytes) : Bool :=
  let n := field p 20 4
  decide (32 ≤ n) && decide (n ≤ p.length) && planId p != 0 &&
    crc64 (p.take 24 ++ List.replicate 8 0 ++ (p.drop 32).take (n - 32)) == field p 24 8

/-- The module at the other end of dimension d (R295). -/
def across (m d : Nat) : Nat := m ^^^ 2 ^ d

/-- A neighbour is present for port d. -/
def State.neighbour? (s : State) (d : Nat) : Bool :=
  bit (planDims s.fab.plan) d && planPresent s.fab.plan (across s.self d)

/-- Module m belongs to the job's subcube (R306). -/
def State.inJob (s : State) (m : Nat) : Bool :=
  let keep := 2 ^ 14 - 1 - s.rd fabJobMask 0
  decide (m < 2 ^ 14) && planPresent s.fab.plan m && m &&& keep == s.rd fabJobBase 0 &&& keep

/-- The sources of an exchange, in rank order (R322). -/
def State.jobMembers (s : State) : List Nat :=
  if s.on fabStatusJobSet 0 then (List.range (2 ^ 14)).filter s.inJob else []

/-! ### Routes (R309-R313) -/

def linkKey (x d : Nat) : Nat := 16 * min x (across x d) + d

/-- The link as the applied table has it; a quarantined port counts as down (Table 11.5). -/
def State.linkUp (s : State) (x d : Nat) : Bool :=
  (tget (0, true) s.fab.links (linkKey x d)).2 && !(x == s.self && s.portSt d == 4)

/-- The detour dimension of the hop over d from x (R311). -/
def State.detour (s : State) (x d : Nat) : Option Nat :=
  let a := planAlt s.fab.plan x d
  [a % 16, a / 16].find? fun e =>
    e < 14 && bit (s.rd fabJobMask 0) e && s.linkUp x e && s.linkUp (across x e) d && s.linkUp (across x d) e

/-- The dimensions in which two modules differ, ascending: the primary route (R309). -/
def primary (x y : Nat) : List Nat := (List.range 14).filter fun d => bit (x ^^^ y) d

/-- The route over the listed dimensions from x, with at most n detours (R311, R313). -/
def State.routeOver (s : State) : Nat → List Nat → Nat → Option (List Nat)
  | _, [], _ => some []
  | x, d :: r, n =>
    if s.linkUp x d then (s.routeOver (across x d) r n).map (d :: ·)
    else
      match n, s.detour x d with
      | n + 1, some e => (s.routeOver (across x d) r n).map ([e, d, e] ++ ·)
      | _, _ => none

/-- The route to a module by the applied table (R312). -/
def State.route? (s : State) (dst : Nat) : Option (List Nat) := s.routeOver s.self (primary s.self dst) 2

/-- Which hops of a route lie in detours, given the primary dimensions it follows. -/
def detourMarks : List Nat → List Nat → List Bool
  | d :: ps, r :: rs => if r = d then false :: detourMarks ps rs else true :: true :: true :: detourMarks ps (rs.drop 2)
  | _, _ => []

/-- ACK, NAK, REFUSE and RESYNC are not sequenced and travel the reverse of a route (R315). -/
def Packet.isReply (p : Packet) : Bool := has [5, 6, 7, 10] p.typ

def Packet.marks (p : Packet) : List Bool :=
  let prim := primary p.src p.dst
  detourMarks (if p.isReply then prim.reverse else prim) p.route

/-- A packet leaves over its next hop: loose and on lane 1 from its first detour hop (R312, R313). -/
def Packet.leave (p : Packet) : Packet :=
  let q := { p with hop := p.hop + 1 }
  if (p.marks[p.hop]?).getD false then { q with sched := false, vl := 1 } else q

/-! ### Leaving by a port (R282, R298, R312) -/

/-- The requester of a packet at the damper where it leaves (R283): the module that it came from; its engine; the
module that a reply goes back to; the front end, or the Sitter (log 128). -/
def packetReq (self : Nat) (h : HeldPkt) : Nat :=
  if h.p.src ≠ self then 0x8000 + h.p.src
  else
    match h.engine with
    | some e => engineObserver e
    | none => if h.p.isReply then 0x8000 + h.p.dst else if h.fseq.isSome then 1416 else 1417

/-- The transfer of a packet that belongs to no window's operation. -/
def packetTransfer (self : Nat) (h : HeldPkt) : Transfer :=
  ⟨packetReq self h, h.serial, 2 ^ 32, h.p.sched, h.p.typ == 2, false, flitsOf h.p, 0⟩

/-- A packet with no firing, engine or action. -/
def bare (p : Packet) : HeldPkt := ⟨p, none, none, 0, false⟩

/-- A whole packet that has taken its hop waits for the damper of port d. -/
def State.queuePacket (s : State) (d : Nat) (h : HeldPkt) : State :=
  s.reach (256 + d) (packetTransfer s.self h) (some h) true

/-- A packet leaves by port d as soon as its damper and its link take it, else it waits whole (R298). -/
def State.transmit (s : State) (d : Nat) (h : HeldPkt) : State := (s.queuePacket d h).arbitrate (256 + d)

def HeldPkt.leave (h : HeldPkt) : HeldPkt := { h with p := h.p.leave }
def HeldPkt.back (h : HeldPkt) : HeldPkt := { h with p := { h.p with hop := h.p.hop - 1 } }

/-- Local repair at the transmitting end of a down link (R312); a packet it cannot detour is dropped and
counted (R313, log 28). The packet has not taken the hop. -/
def State.repairPacket (s : State) (d : Nat) (h : HeldPkt) : State :=
  let s := s.satAdd fabPortCntRepaired d 1
  let p := h.p
  match s.detour s.self d with
  | none => s
  | some e =>
    if 2 ≤ (p.marks.filter id).length / 3 then s
    else
      let q := { h with p := { p with route := p.route.take p.hop ++ [e, d, e] ++ p.route.drop (p.hop + 1) } }
      if s.portSt e = 3 then s else s.transmit e q.leave

/-- Send a packet over its next hop. -/
def State.send (s : State) (h : HeldPkt) : State :=
  match h.p.route[h.p.hop]? with
  | none => s
  | some d => if s.portSt d = 3 then s.repairPacket d h else s.transmit d h.leave

/-! ### Link-state notices (R310) -/

/-- Ports of the wheel tree: the parent port and the ports whose neighbour takes this module as parent. -/
def State.treePorts (s : State) : List Nat :=
  (List.range 14).filter fun d => s.neighbour? d && s.portSt d == 2 &&
    (planParent s.fab.plan s.self % 16 == d || planParent s.fab.plan (across s.self d) % 16 == d)

def State.flood (s : State) (n : Notice) (except : Option Nat) : State :=
  let ps := s.treePorts.filter fun d => some d != except
  let out := s.fab.floods ++ ps.map fun d => (d, n)
  { s with fab := { s.fab with floods := out } }

/-- The first turn that begins at least 20 µs from now, by the present length. -/
def State.switchTurn (s : State) : Nat :=
  s.rd whlPosTurnNo 0 + ceilDiv (s.now + 20000 - s.rd whlTurnStartT0 0) (s.rd whlTurnLenLen 0)

/-- Keep a notice: for one link the higher version governs (R310). -/
def keepNotice (l : List Notice) (n : Notice) : List Notice :=
  if l.any fun m => m.low == n.low && m.dim == n.dim && seqLe 16 n.version m.version then l
  else (l.filter fun m => !(m.low == n.low && m.dim == n.dim)) ++ [n]

/-- The latest version known of a link. -/
def State.linkVersion (s : State) (low d : Nat) : Nat × Bool :=
  match s.fab.notices.find? fun m => m.low == low && m.dim == d with
  | some m => (m.version, m.up)
  | none => tget (0, true) s.fab.links (16 * low + d)

/-- This end of port d's link finds it down or up: it floods a notice of its own, with the version that the other
end's notice of the same change has (R310). -/
def State.noteLink (s : State) (d : Nat) (up : Bool) : State :=
  let x := s.port d
  if x.down = !up then s
  else
    let low := min s.self (across s.self d)
    let v := s.linkVersion low d
    let n : Notice := ⟨low, d, up, if v.2 = up then v.1 else (v.1 + 1) % 2 ^ 16, s.switchTurn⟩
    let s := s.setPort d { x with down := !up }
    let s := { s with fab := { s.fab with notices := keepNotice s.fab.notices n } }
    s.flood n none

/-! ### Sequenced packets (R314-R317) -/

/-- A firing meets an unreachable destination: F-173, held until a notice makes it reachable (R313). -/
def State.faultUnreachable (s : State) (q dst : Nat) : State :=
  (s.fault q 173).updFiring q fun f => if f.ending then f else { f with heldFor := some dst }

/-- A new sequenced packet, without its number. -/
def State.newPacket (s : State) (dst typ accFmt : Nat) (route : List Nat) (addr : Nat) (data : Bytes) : Packet :=
  ⟨typ, accFmt, false, false, s.self, dst, 0, 0, route, s.rd fabJobTag 0, 0, 0, addr, s.rd fabIncInc 0, data⟩

/-- Send a new sequenced packet; false when it cannot be sent now. -/
def State.sendSeq (s : State) (dst typ accFmt addr : Nat) (data : Bytes) (fseq engine : Option Nat) (serial : Nat)
    (action : Bool) : State × Bool :=
  if !s.holdRoom data then (s.setBit fabStatusHoldFullSeen 0, false)
  else
    match s.route? dst with
    | none =>
      match fseq with
      | some q => (s.faultUnreachable q dst, false)
      | none => (s, false)
    | some r =>
      let n := s.number ⟨s.newPacket dst typ accFmt r addr data, fseq, engine, serial, action⟩
      (n.1.send n.2, true)

/-- Re-send held packets that a test picks, in SEQ order, by the present route (R316). -/
def State.resend (s : State) (dst : Nat) (pick : HeldPkt → Bool) : State :=
  match s.route? dst with
  | none => s
  | some r =>
    let x := s.srcSeq dst
    let re := fun (h : HeldPkt) => { h with p := { h.p with route := r, hop := 0, vl := 0, sched := false } }
    let s := s.setSrc dst { x with held := x.held.map fun h => if pick h then re h else h }
    (x.held.filter pick).foldl (fun s h => (s.satAdd fabE2eCntResent 0 1).send (re h)) s

/-- A packet back to a packet's source on the reverse of its route (R315). -/
def State.answer (s : State) (p : Packet) (typ seq reason : Nat) : State :=
  s.send (bare ⟨typ, 0, false, false, p.dst, p.src, 0, 0, p.route.reverse, p.tag, seq % 2 ^ 32, reason, 0,
    s.rd fabIncInc 0, []⟩)

/-- The SIGNAL payload: signal, issuing observer, KEYED, FSEQ, issue index; RETIRE leaves the signal 0. -/
def sigPayload (sig obs : Nat) (keyed : Bool) (fseq index : Nat) : Bytes :=
  natLe 16 (sig + 2 ^ 13 * obs + 2 ^ 24 * b2n keyed + 2 ^ 32 * fseq + 2 ^ 96 * index)

/-! ### Ports up and down -/

/-- The whole packets that a port's link has not acknowledged. -/
def Port.packets (x : Port) : List HeldPkt :=
  x.buffer.filterMap fun b => match b.2.2 with
    | .packet h => some h
    | _ => none

/-- The packets at a damper, the one that leaves first; one without a number takes it now. -/
def State.takeQueue (s : State) (d : Nat) (pick : HeldPkt → Bool) : State × List HeldPkt :=
  let x := s.damper d
  let mine := fun (q : Waiting) => q.pkt.any pick
  let all := ((x.holder.map (·.1)).toList ++ x.waiting).filter mine
  let s := s.setDamper d { x with
    waiting := x.waiting.filter fun q => !mine q, holder := x.holder.filter fun h => !mine h.1 }
  all.foldl (fun r q =>
    match q.pkt with
    | some h => if q.numbered then (r.1, r.2 ++ [h]) else
        let n := r.1.number h
        (n.1, r.2 ++ [n.2])
    | none => r) (s, [])

/-- A port between links: what it keeps is its lanes, its neighbour's fingerprint, and what it last told of its link. -/
def Port.cleared (x : Port) : Port := { idlePort with failed := x.failed, fpr := x.fpr, down := x.down }

/-- A link goes down: notice, local repair of what it holds, partial packets discarded (R298, R301,
R312). -/
def State.downPort (s : State) (d : Nat) : State :=
  let x := s.port d
  let s := ((s.wr fabPortStatusState d 3).setBit fabStatusDownSeen 0).satAdd fabPortCntDowns d 1
  let s := (s.setPort d x.cleared).noteLink d false
  let r := s.takeQueue (256 + d) fun _ => true
  (x.packets ++ r.2).foldl (fun s h => s.repairPacket d h.back) r.1

/-- A port begins full training; a quarantined port stays so (R302, R304). Unacknowledged packets wait
whole. -/
def State.trainPort (s : State) (d : Nat) : State :=
  let x := s.port d
  let y := s.damper (256 + d)
  let first := x.packets ++ ((y.holder.bind fun h => h.1.pkt).toList)
  let back := first.map fun h => (⟨packetTransfer s.self h, s.now, s.now, false, true, true, some h, true⟩ : Waiting)
  let s := s.setDamper (256 + d) { y with
    waiting := back ++ y.waiting, holder := y.holder.filter fun h => h.1.pkt.isNone }
  let s := s.setPort d x.cleared
  if s.portSt d = 4 then s else s.wr fabPortStatusState d 1

/-- A port both trained and identified carries packets. -/
def State.settlePort (s : State) (d : Nat) : State :=
  let x := s.port d
  if x.identOk && x.trained && s.portSt d == 1 then (s.wr fabPortStatusState d 2).noteLink d true else s

/-- A training that does not complete: down, or unused where the plan has no neighbour (Table 11.5). A link that was
down already is down once (R301). -/
def State.failPort (s : State) (d : Nat) : State :=
  if s.neighbour? d then
    let s := s.wr fabPortStatusState d 3
    let s := if (s.port d).down then s else (s.setBit fabStatusDownSeen 0).satAdd fabPortCntDowns d 1
    let s := s.noteLink d false
    let r := s.takeQueue (256 + d) fun _ => true
    r.2.foldl (fun s h => s.repairPacket d h.back) r.1
  else s.wr fabPortStatusState d 0

def State.quarantine (s : State) (d : Nat) : State :=
  ((s.wr fabPortStatusState d 4).setBit fabStatusQuarSeen 0).post (.s 282) [d]

/-- The group of a lane, or of a group's spare. -/
def laneGroup (d lane : Nat) : Nat := if lane < portLanes d then lane / 8 else lane - portLanes d

/-- A group's spare stands by. -/
def spareReady (d : Nat) (p : Port) (g : Nat) : Bool := groupFailed d p g == 0 && spareGood d p g

/-- A lane is lost, or a spare in its place or standing by: the spare of its group serves, else a narrower link
(R299). -/
def State.loseLane (s : State) (d lane : Nat) : State :=
  let x := s.port d
  if has x.failed lane then s
  else
    let y := { x with failed := x.failed ++ [lane] }
    let g := laneGroup d lane
    let s := (s.setPort d y).satAdd fabPortCntLanesLost d 1
    let s := (s.wr fabPortStatusWidth d ((portWidth d y).getD 0)).wr fabPortStatusSparesLeft d (sparesLeft d y)
    let s := if spareReady d x g && !spareReady d y g then s.exhaust 6 (2 * d + g) else s
    (s.repEvent 4 (16 * d + lane)).commitRepair

/-- The lanes of a port, the spares after them. -/
def lanesAll (d : Nat) : Nat := portLanes d + portGroups d

/-! ### Commands of the link layer -/

/-- The packet that bytes of flits spell (Table 11.7). -/
def parsePacket (b : Bytes) : Packet :=
  let h := leNat (b.take 32)
  let hops := bits h 41 5
  ⟨bits h 0 4, bits h 4 2, bit h 6, bit h 7, bits h 8 14, bits h 22 14, bits h 36 5, 0,
    (List.range (min hops 18)).map fun i => bits h (48 + 4 * i) 4, bits h 120 16, bits h 136 32, bits h 180 4,
    bits h 184 40, bits h 224 32, (b.drop 32).take (bits h 168 12 + 1)⟩

/-- Bytes of payload part of a packet that flits have brought: header, LEN_M1 + 1. -/
def packetWhole (b : Bytes) : Bool := decide (32 ≤ b.length) && decide (32 + bits (leNat (b.take 32)) 168 12 + 1 ≤ b.length)

/-- A whole packet arrives over a link: one for another module waits at the damper of its next hop (R282); one for
this module leaves the link layer (its own row is its arrival). -/
def State.arrive (s : State) (p : Packet) : State :=
  if p.dst = s.self then s
  else
    match p.route[p.hop]? with
    | none => s
    | some d =>
      if 14 ≤ d then s
      else if s.portSt d = 3 then s.repairPacket d (bare p)
      else s.queuePacket d (bare p).leave

/-- FLIT_RECEIVE (R297, R298): a failed flit is answered with a NAK that names the last good one. -/
def execFlitReceive (port : Nat) (flit : Flit) (s : State) : Out :=
  onUnit (port < 14) <| .next <|
    if s.linkRuns port then
      let h := leNat (flit.bytes.take 8)
      if flit.fecOk && flit.bytes.length == 256 && crc32c (flit.bytes.take 252) == field flit.bytes 252 4 then
        let s := s.ackFlits port (bits h 20 20)
        let s := if bit h 40 then s.replayLink port else s
        let x := s.port port
        if bits h 0 20 = x.rxSeq then
          let pay := (flit.bytes.drop 8).take 244
          let vl := bits h 43 1
          let got := if bits h 41 2 = 1 then pay else tget [] x.partials vl ++ pay
          let x := { x with rxSeq := (x.rxSeq + 1) % 2 ^ 20 }
          if bits h 41 2 = 0 then s.setPort port x
          else if bits h 41 2 = 3 then s.setPort port { x with partials := tdel x.partials vl }
          else if packetWhole got then
            (s.setPort port { x with partials := tdel x.partials vl }).arrive { parsePacket got with vl := vl }
          else s.setPort port { x with partials := tput x.partials vl got }
        else s
      else s.putFlits port 1 .idle
    else s

/-- LINK_REPLAY (R297): a NAK with LINK_ACK. -/
def execLinkReplay (port ack : Nat) (s : State) : Out :=
  onUnit (port < 14) <| .next <|
    if s.linkRuns port then (s.ackFlits port ack).replayLink port else s

/-- PACKET_FORWARD (R282, R298): the damper of the port lets the next whole packet leave. -/
def execPacketForward (port : Nat) (s : State) : Out :=
  onUnit (port < 14) <| .next <| if s.powered then s.serveDamper (256 + port) else s

/-- LANE_FAIL (R299-R301): a link that keeps a width retrains, and carries no flits until LINK_RETRAIN ends it; one
that does not goes down. -/
def execLaneFail (port lane : Nat) (s : State) : Out :=
  onUnit (port < 14 && lane < lanesAll port) <| .next <|
    if s.powered && !has (s.port port).failed lane then
      let s := s.loseLane port lane
      if s.portSt port ≠ 2 then s
      else if (portWidth port (s.port port)).isNone then s.downPort port
      else s.setPort port { s.port port with retraining := true }
    else s

/-- LINK_RETRAIN (R300, R301): lanes that fail meanwhile are handled within it; three failures in a row
leave the link down. -/
def execLinkRetrain (port : Nat) (badLanes : List Nat) (ok : Bool) (s : State) : Out :=
  onUnit (port < 14) <| .next <|
    if s.portSt port = 2 then
      let s := (badLanes.filter (· < lanesAll port)).foldl (fun s l => s.loseLane port l) s
      if (portWidth port (s.port port)).isNone then s.downPort port
      else
        let s := s.satAdd fabPortCntRetrains port 1
        let x := s.port port
        if ok then (s.setPort port { x with stage := 0, retraining := false }).replayLink port
        else if 3 ≤ x.stage + 1 then s.downPort port
        else s.setPort port { x with stage := x.stage + 1, retraining := true }
    else s

/-- LINK_DOWN (R301). -/
def execLinkDown (port : Nat) (s : State) : Out :=
  onUnit (port < 14) <| .next <| if s.portSt port = 2 then s.downPort port else s

/-- LINK_TRAINING (R302): steps 1 to 3 and 5; step 4 is IDENTITY_FRAME. -/
def execLinkTraining (port : Nat) (result : Training) (s : State) : Out :=
  onUnit (port < 14) <| .next <|
    if s.portSt port = 1 then
      match result with
      | .failedAt _ => s.failPort port
      | .trained bad ps =>
        let s := (bad.filter (· < lanesAll port)).foldl (fun s l => s.loseLane port l) s
        match portWidth port (s.port port) with
        | none => s.failPort port
        | some w =>
          let s := ((s.wr fabPortStatusWidth port w).wr fabPortStatusSparesLeft port (sparesLeft port (s.port port))).wr
            fabPortStatusDelayPs port ps
          (s.setPort port { s.port port with trained := true }).settlePort port
    else s

/-- TRAINING_RETRY (R302): a port that is down trains in full again. -/
def execTrainingRetry (port : Nat) (s : State) : Out :=
  onUnit (port < 14) <| .next <| if s.powered ∧ s.portSt port = 3 then s.trainPort port else s

/-- The identity frame that this module sends on a port (R303). -/
def State.identity (s : State) (d : Nat) : IdFrame :=
  ⟨s.self, d, s.rd fabPlanPlanId 0, s.rd fabIncInc 0, leNat (shake256 (Config.identityPublic s.sec.keys.idKey) 8)⟩

/-- IDENTITY_FRAME (R303, Table 11.5): the two ends exchange frames. Without a plan a port stays unused (log 30). -/
def execIdentityFrame (port : Nat) (frame : Option IdFrame) (s : State) : Out :=
  onUnit (port < 14) <| .next <|
    if s.portSt port = 1 then
      let s := { s with fab := { s.fab with frames := s.fab.frames ++ [(port, s.identity port)] } }
      match frame with
      | none => s.failPort port
      | some f =>
        if s.fab.plan.isEmpty then s.wr fabPortStatusState port 0
        else if !s.neighbour? port then s.quarantine port
        else if f.mod = across s.self port ∧ f.port = port ∧ f.planId = s.rd fabPlanPlanId 0 then
          let x := s.port port
          let s := s.wr fabPortStatusNeighbour port f.mod
          let s := if x.fpr.any (· != f.fpr) then s.setBit fabPortStatusNeighChanged port else s
          (s.setPort port { x with fpr := some f.fpr, identOk := true }).settlePort port
        else s.quarantine port
    else s

/-- LINK_STATE_NOTICE (R310): forwarded once and kept for its switch turn. -/
def execLinkStateNotice (port : Nat) (notice : Notice) (s : State) : Out :=
  onUnit (port < 14) <| .next <|
    if s.linkRuns port then
      if seqLe 16 notice.version (s.linkVersion notice.low notice.dim).1 then s
      else
        let s := { s with fab := { s.fab with notices := keepNotice s.fab.notices notice } }
        s.flood notice (some port)
    else s

/-- The notices whose switch turn has come are applied at angle 0; held packets whose route changed are
sent again by the new route, and firings held for a destination now reachable are let go (R310, R313,
R316). -/
def State.applyNotices (s : State) : State :=
  let due := s.fab.notices.filter fun n => n.switchTurn ≤ s.rd whlPosTurnNo 0
  if due.isEmpty then s
  else
    let links := due.foldl (fun t n => tput t (16 * n.low + n.dim) (n.version, n.up)) s.fab.links
    let later := s.fab.notices.filter fun n => !decide (n.switchTurn ≤ s.rd whlPosTurnNo 0)
    let s := { s with fab := { s.fab with links := links, notices := later } }
    let s := (s.fab.src.map (·.1)).foldl (fun s d =>
      match s.route? d with
      | some r =>
        let old := fun (h : HeldPkt) => decide (h.p.dst = d ∧ h.p.src = s.self ∧ h.p.route ≠ r) && !h.p.isReply
        let s := (List.range 14).foldl (fun s k => (s.takeQueue (256 + k) old).1) s
        s.resend d fun h => decide (h.p.route ≠ r)
      | none => s) s
    let free := fun (f : Firing) =>
      match f.heldFor with
      | some d => if (s.route? d).isSome then { f with heldFor := none } else f
      | none => f
    { s with fe := { s.fe with firings := s.fe.firings.map free } }

/-! ### Mailbox commands (R304-R306) -/

/-- A firing of a graph with FABRIC = 1 is accepted and not yet ended. -/
def State.fabricFiring (s : State) : Bool :=
  s.fe.firings.any fun f => ((s.graph? f.graph).map fun g => imgFabric g.header == 1).getD false

def execFabricPlan (o : Origin) (plan : Bytes) (s : State) : Out :=
  .next <| s.command o 0x0150 fun s =>
    if !planOk plan || !planPresent plan s.self || s.fabricFiring then s.refuse o (.s 280)
    else
      let old := s.rd fabPlanPlanId 0
      let s := { s with fab := { s.fab with plan := plan.take (field plan 20 4) } }
      let s := ((s.wr fabPlanPlanId 0 (planId plan)).wr fabStatusPlanOk 0 1).wr whlStatusParent 0
        (planParent s.fab.plan s.self % 16)
      let s := if planId plan = old then s else (List.range 14).foldl State.trainPort s
      s.done o []

def execFabricJob (o : Origin) (tag base mask : Nat) (s : State) : Out :=
  .next <| s.command o 0x0151 fun s =>
    let t := ((s.wr fabJobBase 0 base).wr fabJobMask 0 mask).wr fabJobTag 0 tag
    if !t.inJob s.self || mask &&& planDims s.fab.plan != mask || s.fabricFiring then s.refuse o (.s 281)
    else (t.wr fabStatusJobSet 0 1).done o []

/-- The claim of a firing in flight names port d. -/
def State.portClaimed (s : State) (d : Nat) : Bool := s.fe.firings.any fun f => f.launched && bit (clmPorts (s.claimOf f)) d

def execFabricPort (o : Origin) (port : Nat) (s : State) : Out :=
  onUnit (port < 14) <| .next <| s.command o 0x0152 fun s =>
    if s.portClaimed port then s.refuse o (.s 283)
    else ((s.wr fabPortStatusState port 1).trainPort port).done o []

end Sys2Proof.Machine
end

