-- ==== Sys2Proof/Machine/Grx.lean ====
section
/-! DEFINITION. Machine/Grx.lean: gradient exchange at an owner (R322-R338): contributions and their
watermarks, ordered sums, parameter shards, held reads, grx.reset, grx.status and HELD_READ_RELEASE. -/

namespace Sys2Proof.Machine

/-! ### The exchange header and bucket table (Tables 12.1, 12.2) -/

def xhdXidx (b : Bytes) : Nat := field b 32 8
def xhdJoinBase (b : Bytes) : Nat := bits (field b 40 8) 0 40
def xhdJoinSlots (b : Bytes) : Nat := bits (field b 40 8) 40 13
def xhdBuckets (b : Bytes) : Nat := field b 48 2
def xhdBucketOff (b : Bytes) : Nat := field b 50 2
/-- LR, B1, B2, EPS, WD, C1, C2 by place 0-6, binary64 bits. -/
def xhdCoef (b : Bytes) (i : Nat) : Nat := field b (56 + 8 * i) 8

def bktMode (w : Nat) : Nat := bits w 32 1
def bktAccFmt (w : Nat) : Nat := bits w 33 2
def bktShardElems (w : Nat) : Nat := bits w 64 32
def bktRaccBase (w : Nat) : Nat := bits w 96 40
def bktStageBase (w : Nat) : Nat := bits w 136 40

/-! ### Adds of byte strings -/

/-- One add of ACC_FMT under RNE (Table 2.7, R190). -/
def addElem (f x y : Nat) : Cvt := accAdd (accCode f) 0 0 (decode (accCode f) x) (decode (accCode f) y)

/-- Element by element, destination plus source. -/
def addBytes (f : Nat) (dst src : Bytes) : Bytes :=
  (List.range (src.length / accElemBytes f)).flatMap fun i =>
    natLe (accElemBytes f) (addElem f (field dst (accElemBytes f * i) (accElemBytes f))
      (field src (accElemBytes f * i) (accElemBytes f))).bits

/-- n elements of −0 (R336). -/
def negZeros (f n : Nat) : Bytes :=
  (List.replicate n (natLe (accElemBytes f) (2 ^ (8 * accElemBytes f - 1)))).flatten

/-- Add bytes into stack memory at an address: the adders read the old contents of every line, and make no part of
the write when one is uncorrectable (R178). -/
def State.addInto (s : State) (f a : Nat) (b : Bytes) : State :=
  match s.badIn a b.length with
  | some l => s.lineLost l
  | none => (s.rebuildIn a b.length).stackWrite a (addBytes f (mreadN s.mem.stack a b.length) b)

/-! ### Instances (R325, R329-R332) -/

def State.sources (s : State) : Nat := s.jobMembers.length

/-- The rank of a module among the sources (R322). -/
def State.rankOf (s : State) (m : Nat) : Nat := (s.jobMembers.filter (· < m)).length

/-- Bytes of one shard's contribution. -/
def Bucket.bytes (b : Bucket) : Nat := b.elems * accElemBytes b.fmt

def Bucket.area (b : Bucket) (i : Nat) : Nat := b.racc + i * b.bytes

def Bucket.stageAt (b : Bucket) (srcs i r : Nat) : Nat := b.stage + (i * srcs + r) * b.bytes

/-- The bucket slot and instance whose reduction area holds a run of bytes. -/
def State.instAt (s : State) (a n : Nat) : Option (Nat × Bucket × Nat) :=
  s.grx.slots.findSome? fun p =>
    if inside a n (p.2.area 0) p.2.bytes then some (p.1, p.2, 0)
    else if inside a n (p.2.area 1) p.2.bytes then some (p.1, p.2, 1) else none

/-- The instances whose reduction areas a run of bytes touches. -/
def State.instsMeeting (s : State) (a n : Nat) : List (Nat × Nat) :=
  s.grx.slots.flatMap fun p =>
    ([0, 1].filter fun i => overlaps a n (p.2.area i) p.2.bytes).map fun i => (p.1, i)

def markKey (b i r : Nat) : Nat := (2 * b + i) * 2 ^ 14 + r

def State.mark (s : State) (b i r : Nat) : Nat := tget 0 s.grx.marks (markKey b i r)

/-- Add complete stages in rank order (R331), up to one that a stack cannot read (log 121); `fuel` bounds the
ranks left. -/
def sumStages : Nat → Nat → Bucket → Nat → Nat → State → State
  | 0, _, _, _, _, s => s
  | fuel + 1, b, k, i, srcs, s =>
    let next := s.rd grxInstNext (2 * b + i)
    if next < srcs ∧ s.mark b i next = k.bytes then
      match (s.badIn (k.stageAt srcs i next) k.bytes).or (s.badIn (k.area i) k.bytes) with
      | some l => s.lineLost l
      | none =>
        let s := s.rebuildIn (k.stageAt srcs i next) k.bytes
        let s := s.addInto k.fmt (k.area i) (mreadN s.mem.stack (k.stageAt srcs i next) k.bytes)
        sumStages fuel b k i srcs (s.wr grxInstNext (2 * b + i) (next + 1))
    else s

/-- The state of an instance after a contribution was taken (Table 12.8). -/
def State.instTaken (s : State) (b : Nat) (k : Bucket) (i : Nat) : State :=
  let n := 2 * b + i
  let srcs := s.sources
  let s := s.wr grxInstDone n ((List.range srcs).filter fun r => s.mark b i r == k.bytes).length
  let s := if k.mode = 0 then sumStages srcs b k i srcs s else s
  if s.rd grxInstState n = 4 then s
  else
    let whole := if k.mode = 0 then s.rd grxInstNext n == srcs else s.rd grxInstDone n == srcs
    s.wr grxInstState n (if whole then 2 else 1)

/-- A contribution's packet from a source at an owner's instance (R329-R331). One whose write needs an
uncorrectable line changes nothing and moves no watermark (R178, log 121). -/
def State.contribute (s : State) (src b : Nat) (k : Bucket) (i a : Nat) (data : Bytes) : State :=
  let r := s.rankOf src
  let off := a - k.area i
  let m := s.mark b i r
  if off < m then s.satAdd grxCntRepeats 0 1
  else if m < off then (s.wr grxInstState (2 * b + i) 4).setBit grxStatusBrokenSeen 0
  else
    let to_ := k.stageAt s.sources i r + off
    match if k.mode = 0 then s.writeBlocked to_ data.length else s.badIn a data.length with
    | some l => s.lineLost l
    | none =>
      let s := if k.mode = 0 then s.store to_ data else s.addInto k.fmt a data
      let s := { s with grx := { s.grx with marks := tput s.grx.marks (markKey b i r) (off + data.length) } }
      s.instTaken b k i

/-- ACCUM bytes arrive at this module's stack memory from a source: at a bucket by watermark, elsewhere
as they arrive (R209, R329). -/
def State.takeAccum (s : State) (src f a : Nat) (data : Bytes) : State :=
  match s.instAt a data.length with
  | some (b, k, i) => s.contribute src b k i a data
  | none => s.addInto f a data

/-! ### Parameter shards (R335) -/

/-- The parameter entry of a bucket slot. -/
def State.bucketParam (s : State) (k : Bucket) : Option Nat :=
  (s.graph? k.graph).bind fun g => g.params.find? fun p => parId p == k.param

/-- Where copy c of a parameter begins. -/
def paramCopy (p c : Nat) : Nat := parBase p + c * copyStride (parBytes p)

/-- The bucket slot, copy and owner rank of the shard that holds a run of bytes. -/
def State.shardAt (s : State) (a n : Nat) : Option (Nat × Bucket × Nat × Nat) :=
  s.grx.slots.findSome? fun q =>
    (s.bucketParam q.2).bind fun p =>
      [0, 1].findSome? fun c =>
        let base := paramCopy p c
        let len := 4 * q.2.elems
        if inside a n base (parBytes p) ∧ 0 < len ∧ (a - base) / len = (a + n - 1 - base) / len then
          some (q.1, q.2, c, (a - base) / len)
        else none

def State.pmark (s : State) (b c r : Nat) : Nat := tget 0 s.grx.pmarks (markKey b c r)

/-- Bytes of a bucket parameter's shard arrive from its owner. -/
def State.takeShard (s : State) (b : Nat) (k : Bucket) (c r a : Nat) (data : Bytes) : State :=
  match s.bucketParam k with
  | none => s
  | some p =>
    let off := a - paramCopy p c - r * (4 * k.elems)
    let m := s.pmark b c r
    if off < m then s.satAdd grxCntRepeats 0 1
    else if m < off then s
    else
      match s.writeBlocked a data.length with
      | some l => s.lineLost l
      | none =>
        let s := s.store a data
        let s := { s with grx := { s.grx with pmarks := tput s.grx.pmarks (markKey b c r) (off + data.length) } }
        s.wr grxGatherWhole (2 * b + c)
          ((List.range s.sources).filter fun q => s.pmark b c q == 4 * k.elems).length

/-- Bytes written into this module's stack memory by a module (itself included). -/
def State.takeWrite (s : State) (src a : Nat) (data : Bytes) : State :=
  match s.shardAt a data.length with
  | some (b, k, c, r) => if s.rankOf src = r then s.takeShard b k c r a data else s.store a data
  | none => s.store a data

/-- The shards of a bucket parameter's written copy that a run of bytes touches and that are not whole. -/
def State.shardsMissing (s : State) (a n : Nat) : Bool :=
  s.grx.slots.any fun q =>
    match s.bucketParam q.2 with
    | none => false
    | some p =>
      let c := 1 - tget 0 s.fe.cur (parKey q.2.graph (parId p))
      overlaps a n (paramCopy p c) (parBytes p) &&
        (List.range s.sources).any fun r =>
          overlaps a n (paramCopy p c + r * (4 * q.2.elems)) (4 * q.2.elems) && s.pmark q.1 c r != 4 * q.2.elems

/-- What a DMA read of stack bytes by a firing meets (R333, R335). -/
inductive ReadGate
  | free | held | broken
  deriving DecidableEq, Repr

def State.readGate (s : State) (a n : Nat) : ReadGate :=
  let is := s.instsMeeting a n
  if is.any fun p => s.rd grxInstState (2 * p.1 + p.2) == 4 then .broken
  else if (is.any fun p => s.rd grxInstState (2 * p.1 + p.2) != 2) || s.shardsMissing a n then .held
  else .free

/-! ### Clearing (R336) -/

/-- An instance back to −0 sums, watermarks 0, next 0. -/
def State.clearInst (s : State) (b i : Nat) : State :=
  match s.grx.slots.find? fun p => p.1 == b with
  | none => s
  | some (_, k) =>
    let s := s.store (k.area i) (negZeros k.fmt k.elems)
    let s := s.resetReg grxInstReg (2 * b + i)
    { s with grx := { s.grx with marks := s.grx.marks.filter fun p => p.1 / 2 ^ 14 != 2 * b + i } }

/-- A copy's parameter watermarks back to 0. -/
def State.clearCopy (s : State) (b c : Nat) : State :=
  let s := s.wr grxGatherWhole (2 * b + c) 0
  { s with grx := { s.grx with pmarks := s.grx.pmarks.filter fun p => p.1 / 2 ^ 14 != 2 * b + c } }

/-- The bucket slots of a graph. -/
def State.bucketsOf (s : State) (no : Nat) : List (Nat × Bucket) := s.grx.slots.filter fun p => p.2.graph == no

/-- A firing of a graph with buckets is accepted and not yet ended. -/
def State.exchangeFiring (s : State) : Bool := s.fe.firings.any fun f => !(s.bucketsOf f.graph).isEmpty

/-- grx.reset (R338). -/
def execGrxReset (o : Origin) (s : State) : Out :=
  .next <| s.command o 0x0160 fun s =>
    if s.exchangeFiring then s.refuse o (.s 290)
    else
      let s := (s.grx.slots.map (·.1)).foldl (fun s b =>
        (((s.clearInst b 0).clearInst b 1).clearCopy b 0).clearCopy b 1) s
      s.done o []

/-- grx.status: slot, graph, PARAM_ID and the registers of Tables 12.8 and 12.9 for each slot in use. -/
def execGrxStatus (o : Origin) (s : State) : Out :=
  .next <| s.command o 0x0161 fun s =>
    s.done o <| s.grx.slots.flatMap fun p =>
      [p.1, p.2.graph, p.2.param] ++
        ([0, 1].map fun i => s.regWord grxInstReg (2 * p.1 + i)) ++
        [0, 1].map fun c => s.regWord grxGatherReg (2 * p.1 + c)

end Sys2Proof.Machine
end

