-- ==== Sys2Proof/Machine/Packets.lean ====
section
/-! DEFINITION. Machine/Packets.lean: packets as their destination and their source take them
(R315-R319, R223, R224, R329). -/

namespace Sys2Proof.Machine

/-! ### At the destination -/

/-- What the sequence number of a packet makes of it (R315, R319, log 31). -/
inductive SeqAct
  | accept | dup | ahead | noState | drop
  deriving DecidableEq, Repr

def State.dstSeq? (s : State) (src : Nat) : Option DstSeq := (s.fab.dst.find? fun p => p.1 == src).map (·.2)

def State.seqAct (s : State) (p : Packet) : SeqAct :=
  match s.dstSeq? p.src with
  | none => if p.sync then .accept else .noState
  | some d =>
    if p.inc ≠ d.inc then (if p.sync then .accept else .drop)
    else if p.seq % 2 ^ 32 = d.exp % 2 ^ 32 then .accept
    else if seqLe 32 p.seq d.exp then .dup else .ahead

/-- An address in the hold area: bits 35:27 all ones (R317). -/
def inHold (a : Nat) : Bool := bits a 27 9 == 2 ^ 9 - 1

/-- The REASON a sequenced packet is refused with, 0 when it is taken (R318). -/
def State.refusal (s : State) (p : Packet) : Nat :=
  if !s.inService then 1
  else if p.tag ≠ s.rd fabJobTag 0 then 2
  else if (p.typ = 1 ∨ p.typ = 2) ∧ inHold p.addr then 3
  else if p.typ = 3 ∧ !s.sigFabric (bits (leNat p.data) 0 13) then 5
  else 0

/-- The number of a packet is taken: EXP goes past it, and a NAK may be sent at once. -/
def State.takeNumber (s : State) (p : Packet) : State :=
  { s with fab := { s.fab with dst := tput s.fab.dst p.src ⟨(p.seq + 1) % 2 ^ 32, p.inc, none⟩ } }

/-- A NAK for EXP, at most one per source per microsecond. -/
def State.sendNak (s : State) (p : Packet) (d : DstSeq) : State :=
  if d.nakAt.any fun t => decide (s.now < t + 1000) then s
  else
    let s := { s with fab := { s.fab with dst := tput s.fab.dst p.src { d with nakAt := some s.now } } }
    s.answer p 6 d.exp 0

/-- A sequenced packet arrives; `apply` answers false when the packet is neither applied nor
acknowledged (R224). -/
def State.receive (s : State) (p : Packet) (apply : State → State × Bool) : State :=
  if !s.powered || p.dst != s.self then s
  else
    match s.seqAct p with
    | .drop => s
    | .noState => (s.answer p 7 p.seq 4).answer p 10 p.seq 0
    | .dup =>
      (s.satAdd fabE2eCntDup 0 1).answer p 5 ((((s.dstSeq? p.src).map (·.exp)).getD 0) + 2 ^ 32 - 1) 0
    | .ahead =>
      let s := s.satAdd fabE2eCntAhead 0 1
      match s.dstSeq? p.src with
      | some d => s.sendNak p d
      | none => s
    | .accept =>
      let r := s.refusal p
      if r = 0 then
        let t := apply s
        if t.2 then (t.1.takeNumber p).answer p 5 p.seq 0 else t.1
      else
        let s := s.takeNumber p
        let s := { s with fab := { s.fab with refusals := s.fab.refusals + 1 } }
        let s := if r = 1 ∧ (p.typ = 2 ∨ p.typ = 3) then s.setBit fluStatusRemoteRefusedSeen 0 else s
        s.answer p 7 p.seq r

/-- The packet waits for a channel already. -/
def State.landing (s : State) (p : Packet) : Bool :=
  s.dampers.any fun d => decide (d.1 < 256) && d.2.waiting.any fun q => q.pkt == some (bare p)

/-- A packet passes the dampers of the channels that it writes or adds to, but those up to `past`, and is then in place
(R282, R290). -/
def State.land (s : State) (p : Packet) (past : Option Nat) : State × Bool :=
  if s.landing p then (s, false)
  else
    let l := channelLines p.addr p.data.length
    let rest := match past with
      | some d => (l.dropWhile fun c => c.1 != d).drop 1
      | none => l
    let r := s.passChannels ⟨0x8000 + p.src, 0, 2 ^ 32, p.sched, p.typ == 2, false, 0, 0⟩ (bare p) rest
    if r.2 then
      (if p.typ = 2 then r.1.takeAccum p.src p.accFmt p.addr p.data else r.1.takeWrite p.src p.addr p.data, true)
    else (r.1, false)

/-- Packets that a channel has let through go on. -/
def State.takeInbox (s : State) : State :=
  let l := s.fab.inbox
  let s := { s with fab := { s.fab with inbox := [] } }
  l.foldl (fun s p => s.receive p.2 fun s => s.land p.2 (some p.1)) s

/-- WRITE_PACKET. -/
def execWritePacket (p : Packet) (s : State) : Out :=
  let p := { p with typ := 1 }
  .next <| s.receive p fun s => s.land p none

/-- ACCUM_PACKET. -/
def execAccumPacket (p : Packet) (s : State) : Out :=
  let p := { p with typ := 2 }
  .next <| s.receive p fun s => s.land p none

/-- The key that a SIGNAL or RETIRE packet carries (R314, R223). -/
def packetKey (p : Packet) : RecKey :=
  let n := leNat p.data
  ⟨p.src, bits n 13 11, bits n 32 64, bits n 96 32⟩

/-- SIGNAL_PACKET: a keyed increment once, a Sitter's increment as it arrives (R223, R224). -/
def execSignalPacket (p : Packet) (s : State) (more : Bool := false) : Out :=
  .next <| s.receive { p with typ := 3 } fun s =>
    let sig := bits (leNat p.data) 0 13
    if bit (leNat p.data) 24 then s.incKeyed (packetKey p) sig 1 none more else (s.incSignal sig 1 none more, true)

/-- RETIRE_PACKET. -/
def execRetirePacket (p : Packet) (s : State) : Out :=
  .next <| s.receive { p with typ := 4 } fun s =>
    let k := packetKey p
    (s.retireKey k.src k.observer k.fseq, true)

/-! ### At the source -/

/-- The retire notice of a completion increment has been acknowledged (R263). -/
def State.retireAcked (s : State) (q : Nat) : State :=
  let mark := fun (r : LogRec) => if r.kind = 6 ∧ r.fseq = q then { r with acked := true } else r
  { s with fe := { s.fe with log := s.fe.log.map mark } }

/-- Held packets up to an acknowledged number are freed (R316). -/
def State.ackHeld (s : State) (dst seq : Nat) : State :=
  let x := s.srcSeq dst
  let gone := x.held.filter fun h => seqLe 32 h.p.seq seq
  if gone.isEmpty then s
  else
    let s := s.setSrc dst { x with held := x.held.filter fun h => !seqLe 32 h.p.seq seq, since := s.now }
    gone.foldl (fun s h =>
      match h.fseq with
      | some q => if h.p.typ = 4 ∧ h.action then s.retireAcked q else s
      | none => s) s

/-- ACK_PACKET (R316). -/
def execAckPacket (p : Packet) (s : State) : Out :=
  .next <| if s.powered ∧ p.dst = s.self then s.ackHeld p.src p.seq else s

/-- NAK_PACKET: every held packet from the NAK's number onward is sent again. -/
def execNakPacket (p : Packet) (s : State) : Out :=
  .next <|
    if s.powered ∧ p.dst = s.self then s.resend p.src fun h => seqLe 32 p.seq h.p.seq else s

/-- A packet to be sent again at the next turn's start. -/
def State.sendAgain (s : State) (dst : Nat) (h : HeldPkt) : State :=
  { s with fab := { s.fab with again := s.fab.again ++ [(dst, h)] } }

/-- A refused packet's firing (R318, R211, R248). -/
def State.refused (s : State) (dst reason : Nat) (h : HeldPkt) : State :=
  if h.p.typ = 4 then (if reason = 1 then s.sendAgain dst h else s)
  else if h.action then
    if reason = 5 then s.post (.s 259) [h.fseq.getD 0] else s.sendAgain dst h
  else
    match h.fseq with
    | none => s
    | some q => s.fault q (if reason = 1 then (if h.p.typ = 1 then 172 else 150) else 171)

/-- REFUSE_PACKET (R318). -/
def execRefusePacket (p : Packet) (s : State) : Out :=
  .next <|
    if s.powered ∧ p.dst = s.self then
      let s := s.satAdd fabE2eCntRefused 0 1
      if p.reason = 4 then s
      else
        let x := s.srcSeq p.src
        match x.held.find? fun h => h.p.seq == p.seq with
        | none => s
        | some h =>
          let s := s.setSrc p.src { x with held := x.held.filter fun h => h.p.seq != p.seq, since := s.now }
          s.refused p.src p.reason h
    else s

/-- RESYNC_PACKET (R319): the sequence starts again with SYNC; completion increments and retire notices
are sent again at the next turn. -/
def execResyncPacket (p : Packet) (s : State) : Out :=
  .next <|
    if s.powered ∧ p.dst = s.self then
      let s := s.setBit fabStatusResyncSeen 0
      let held := (s.srcSeq p.src).held
      let s := s.setSrc p.src idleSrc
      held.foldl (fun s h =>
        if h.action ∨ h.p.typ = 4 then s.sendAgain p.src h
        else
          match h.fseq with
          | some q => if (s.firing? q).any fun f => f.st != .faulted then s.fault q 172 else s
          | none => s) s
    else s

/-- RESEND_TIMEOUT (R316): 50 µs without ACK progress. -/
def execResendTimeout (dst : Nat) (s : State) : Out :=
  onUnit (dst < 16384) <| .next <|
    if s.powered ∧ (s.srcSeq dst).held ≠ [] then
      (s.advanceTo ((s.srcSeq dst).since + 50000)).resend dst fun _ => true
    else s

/-- Firings with unacknowledged packets to a destination, each once. -/
def State.firingsToward (s : State) (dst : Nat) : List Nat :=
  ((s.srcSeq dst).held.filterMap fun h => if h.action ∨ h.p.typ = 4 then none else h.fseq).foldl addNew []

/-- DESTINATION_UNREACHABLE (R313, R316): 1 s without ACK progress, or no route left. -/
def execDestinationUnreachable (dst : Nat) (s : State) : Out :=
  onUnit (dst < 16384) <| .next <|
    if s.powered ∧ (s.srcSeq dst).held ≠ [] then
      let s := if (s.route? dst).isSome then s.advanceTo ((s.srcSeq dst).since + 1000000000) else s
      (s.firingsToward dst).foldl (fun s q => s.faultUnreachable q dst) s
    else s

end Sys2Proof.Machine
end

