-- ==== Sys2Proof/Machine/Dma.lean ====
section
/-! DEFINITION. Machine/Dma.lean: the DMA engines (R183-R199): load-time checks of a descriptor, what it
reads and writes, and the commands of rings and descriptors. -/

namespace Sys2Proof.Machine

/-! ### The checks of Table 7.7 -/

/-- What a descriptor is checked against: regions, parameters, ladder rules; `firing` is false for Sitter
work outside any firing. -/
structure DmaCtx where
  regions : List Nat
  params : List Nat
  rules : List Nat
  firing : Bool
  deriving DecidableEq, Repr

/-- The formats a CVT word may write: its target, or every format of its ladder slot's MASK (R77). -/
def cvtTargets (rules : List Nat) (cvt : Nat) : List Nat :=
  if cvtTgt cvt = 0xF then
    match rules.find? fun r => rulSlot r == cvtGaugeId cvt with
    | some r => ((List.range 4).filter (bit (ruleMask (rulRule r)))).map ladderCode
    | none => []
  else [cvtTgt cvt]

/-- Bytes a descriptor writes before its CRC, by the widest format it may convert to. -/
def dmaMaxDst (rules : List Nat) (w : Nat) : Nat :=
  if dmaIdx w != 0 then dmaElems w * dmaElemBytes w
  else if dmaCvtEn w = 1 then ((cvtTargets rules (dmaCvt w)).map fun t => blocksBytes t (dmaLen w)).foldl max 0
  else dmaLen w

/-- The copy of a declared region or parameter that holds an address of a space: its base. -/
def DmaCtx.copyBase (c : DmaCtx) (sp a : Nat) : Option Nat :=
  match regionAt c.regions sp a with
  | some r => some (spaceKey sp (regBase r))
  | none =>
    if sp = 3 then
      c.params.findSome? fun p =>
        [0, 1].findSome? fun k =>
          let b := parBase p + k * copyStride (parBytes p)
          if inside a 1 b (parBytes p) then some b else none
    else none

/-- A run of bytes lies in a declared region or parameter copy. -/
def DmaCtx.declared (c : DmaCtx) (sp a n : Nat) : Bool :=
  (c.regions.any fun r => regHolds r sp a n) ||
    (sp == 3 && c.params.any fun p =>
      inside a n (parBase p) (parBytes p) || inside a n (parBase p + copyStride (parBytes p)) (parBytes p))

/-- A destination of a kind that R197 allows for the OP. -/
def DmaCtx.mayWrite (c : DmaCtx) (op sp a n : Nat) : Bool :=
  (c.regions.any fun r => regHolds r sp a n &&
    (if op = 2 then regKind r == 3 else regKind r != 0)) ||
    (op != 2 && sp == 3 && c.params.any fun p =>
      inside a n (parBase p) (parBytes p) || inside a n (parBase p + copyStride (parBytes p)) (parBytes p))

/-- The whole region that an indexed side may reach (R194). -/
def DmaCtx.indexed (c : DmaCtx) (sp a : Nat) : Option (Nat × Nat) :=
  match regionAt c.regions sp a with
  | some r => some (regBase r, regBytes r)
  | none =>
    if sp = 3 then
      c.params.findSome? fun p =>
        [0, 1].findSome? fun k =>
          let b := parBase p + k * copyStride (parBytes p)
          if inside a 1 b (parBytes p) then some (b, parBytes p) else none
    else none

def dmaMoves (w : Nat) : Bool := has [1, 2, 3] (dmaOp w)

/-- L-050: reserved codes in fields in use. -/
def dmaReserved (w : Nat) : Bool :=
  !has [1, 2, 3, 4] (dmaOp w) ||
    (dmaMoves w && (5 < dmaSrcSpace w || 5 < dmaDstSpace w || dmaIdx w == 3 || dmaCrc w == 3 ||
      (dmaIdx w != 0 && 5 < dmaIdxSpace w) || (dmaOp w == 2 && dmaAccFmt w == 3)))

/-- L-051: a space not allowed in its role. -/
def dmaBadSpace (w : Nat) : Bool :=
  (dmaMoves w && (dmaSrcSpace w == 0 || dmaSrcSpace w == 4 || dmaDstSpace w == 0 ||
    (dmaOp w == 2 && !has [3, 4] (dmaDstSpace w)) || (dmaIdx w != 0 && !has [1, 2, 3] (dmaIdxSpace w)))) ||
    (dmaSigEn w == 1 && dmaSigRemote w == 1 && dmaDstSpace w != 4)

/-- The source extent by IDX: the region indexed, or the bytes read. -/
def DmaCtx.srcExt (c : DmaCtx) (w : Nat) : Nat × Nat :=
  if dmaIdx w = 1 then (c.indexed (dmaSrcSpace w) (dmaSrcAddr w)).getD (dmaSrcAddr w, dmaElemBytes w)
  else (dmaSrcAddr w, dmaSrcBytes w)

def DmaCtx.dstExt (c : DmaCtx) (w : Nat) : Nat × Nat :=
  if dmaIdx w = 2 then (c.indexed (dmaDstSpace w) (dmaDstAddr w)).getD (dmaDstAddr w, dmaElemBytes w)
  else (dmaDstAddr w, dmaMaxDst c.rules w + crcBytes w)

/-- L-052: an extent outside its space. -/
def DmaCtx.badExtent (c : DmaCtx) (w : Nat) : Bool :=
  dmaMoves w &&
    (!spaceOk (dmaSrcSpace w) (c.srcExt w).1 (c.srcExt w).2 || !spaceOk (dmaDstSpace w) (c.dstExt w).1 (c.dstExt w).2 ||
      (dmaIdx w != 0 && !spaceOk (dmaIdxSpace w) (dmaIdxAddr w) (4 * dmaElems w)))

/-- An address of a conversion: a Grog4 side begins a tract, the other begins its 8-block group (R191). -/
def DmaCtx.cvtAddrOk (c : DmaCtx) (sp a fmt : Nat) : Bool :=
  match c.copyBase sp a with
  | some b => (spaceKey sp a - b) % (if fmt = 6 then 1152 else 8 * blockBytes fmt) == 0
  | none => true

/-- A Grog4 side of a conversion that does not begin a tract (L-044). -/
def DmaCtx.offTract (c : DmaCtx) (w : Nat) : Bool :=
  dmaMoves w && dmaCvtEn w == 1 &&
    ((dmaSrcFmt w == 6 && !c.cvtAddrOk (dmaSrcSpace w) (dmaSrcAddr w) 6) ||
      (has (cvtTargets c.rules (dmaCvt w)) 6 && !c.cvtAddrOk (dmaDstSpace w) (dmaDstAddr w) 6))

def DmaCtx.badCvt (c : DmaCtx) (w : Nat) : Bool :=
  (cvtTargets c.rules (dmaCvt w)).any fun t =>
    (dmaSrcFmt w == 6 || t == 6) &&
      (dmaLen w % 8 != 0 || !c.cvtAddrOk (dmaSrcSpace w) (dmaSrcAddr w) (dmaSrcFmt w) ||
        !c.cvtAddrOk (dmaDstSpace w) (dmaDstAddr w) t)

/-- L-053: features that do not go together. -/
def DmaCtx.badMix (c : DmaCtx) (w : Nat) : Bool :=
  dmaMoves w &&
    ((dmaCrc w != 0 && (dmaIdx w == 2 || dmaOp w == 2)) ||
      (dmaCvtEn w == 1 && (dmaIdx w != 0 || dmaOp w == 2 || c.badCvt w)) ||
      (dmaOp w == 2 && (if dmaIdx w = 0 then dmaLen w else dmaElemBytes w) % accElemBytes (dmaAccFmt w) != 0))

/-- L-054: a destination of a kind that R197 does not allow, or that its CRC leaves. -/
def DmaCtx.badDest (c : DmaCtx) (w : Nat) : Bool :=
  c.firing && dmaMoves w && has [1, 2, 3] (dmaDstSpace w) &&
    !c.mayWrite (dmaOp w) (dmaDstSpace w) (c.dstExt w).1 (c.dstExt w).2

/-- The codes of Table 7.7 that a descriptor breaks. -/
def DmaCtx.codes (c : DmaCtx) (w : Nat) : List Nat :=
  (if dmaReserved w then [50] else []) ++ (if dmaBadSpace w then [51] else []) ++
    (if c.badExtent w then [52] else []) ++ (if c.badMix w then [53] else []) ++ if c.badDest w then [54] else []

/-- A fabric-global destination: module and stack address (Table 7.1). -/
def dmaDstMod (w : Nat) : Nat := bits (dmaDstAddr w) 40 14
def dmaDstStack (w : Nat) : Nat := bits (dmaDstAddr w) 0 40

/-- The descriptor sends to another module. -/
def State.dmaRemote (s : State) (w : Nat) : Bool :=
  dmaDstSpace w == 4 && dmaDstMod w != s.self && (dmaMoves w || (dmaSigEn w == 1 && dmaSigRemote w == 1))

/-! ### What a descriptor reads and writes -/

def State.ctxOf (s : State) (f : Option Firing) : DmaCtx :=
  match f.bind fun f => s.graph? f.graph with
  | some g => ⟨g.regions, g.params, g.rules, true⟩
  | none => ⟨[], [], [], false⟩

/-- The offsets that the index table names, in bytes (R193). -/
def State.dmaOffsets (s : State) (f : Option Firing) (w : Nat) : List Nat :=
  if dmaIdx w = 0 then []
  else
    let a := s.addr f (dmaIdxSpace w) false (dmaIdxAddr w)
    (List.range (dmaElems w)).map fun i =>
      leNat (s.readSpace (dmaIdxSpace w) (a + 4 * i) 4) * (if dmaIdxUnit w = 1 then dmaElemBytes w else 1)

/-- An index entry reaches outside the indexed side's region (R194). -/
def State.badIndex (s : State) (f : Option Firing) (w : Nat) (offs : List Nat) : Bool :=
  let sp := if dmaIdx w = 1 then dmaSrcSpace w else dmaDstSpace w
  let a := if dmaIdx w = 1 then dmaSrcAddr w else dmaDstAddr w
  offs.any fun o =>
    match (s.ctxOf f).indexed sp a with
    | some r => !inside (a + o) (dmaElemBytes w) r.1 r.2
    | none => !spaceOk sp (a + o) (dmaElemBytes w)

/-- The run of bytes of the index table, if there is one: space, address, bytes, as the spaces hold them. -/
def State.dmaTable (s : State) (f : Option Firing) (w : Nat) : List (Nat × Nat × Nat) :=
  if dmaMoves w && dmaIdx w != 0 then [(dmaIdxSpace w, s.addr f (dmaIdxSpace w) false (dmaIdxAddr w), 4 * dmaElems w)]
  else []

/-- The runs of bytes of the source. -/
def State.dmaReads (s : State) (f : Option Firing) (w : Nat) (offs : List Nat) : List (Nat × Nat × Nat) :=
  let sp := dmaSrcSpace w
  if !dmaMoves w then []
  else if dmaIdx w = 1 then offs.map fun o => (sp, s.addr f sp false (dmaSrcAddr w + o), dmaElemBytes w)
  else [(sp, s.addr f sp false (dmaSrcAddr w), dmaSrcBytes w)]

/-- The source bytes in order. -/
def State.dmaSource (s : State) (f : Option Firing) (w : Nat) (offs : List Nat) : Bytes :=
  (s.dmaReads f w offs).flatMap fun r => s.readSpace r.1 r.2.1 r.2.2

/-! ### Conversion (R191) -/

def byteAt (b : Bytes) (i : Nat) : Nat := ((b[i]?).map BitVec.toNat).getD 0

/-- Element (i, j) of block n of a run of blocks. -/
def blockElem (c : Nat) (b : Bytes) (n i j : Nat) : Val :=
  if c = 6 then
    let t := 1152 * (n / 8)
    decodeGrog (bits (byteAt b (t + 128 * (n % 8) + 8 * i + j / 2)) (4 * (j % 2)) 4)
      (byteAt b (t + 1024 + 16 * (n % 8) + i))
  else if c = 8 then decodeInt 4 (bits (byteAt b (128 * n + 8 * i + j / 2)) (4 * (j % 2)) 4)
  else
    let e := blockBytes c / 256
    decode c (field b (blockBytes c * n + (16 * i + j) * e) e)

/-- The logical position of element (i, j) of block n of a destination (R430). A destination without a layout
entry counts as one column of blocks. Log 117. -/
def dmaPos (c : DmaCtx) (layouts : List Nat) (fmt sp a n i j : Nat) : Option (Nat × Nat × Nat) :=
  match (regionAt c.regions sp a).bind fun r => (layoutOf layouts r).map fun l => (r, l) with
  | some (r, l) => logicalPos l (blockNo fmt (regOff r a) + n) i j
  | none => some (16 * n + i, j, 16)

/-- What a conversion of a descriptor leaves: bytes, occurrences, gauges. -/
structure Moved where
  bytes : Bytes
  occs : List Occ
  gauges : Tab Gauge
  deriving DecidableEq, Repr

def dmaOcc (flags op elem src : Nat) : Occ := ⟨flags, op, elem, src, noK, 0, 0, 0, 0, 0, 0, 0⟩

/-- Convert the blocks of a descriptor. Sitter work outside any firing has no snapshot: seed, FSEQ and ladder words
count as 0, and no gauge takes what it meets. Log 114. -/
def State.dmaConvert (s : State) (f : Option Firing) (w : Nat) (src : Bytes) : Moved :=
  let sn := f.bind (·.snap)
  let t := cvtTarget ((sn.map (·.ladder)).getD []) (dmaCvt w)
  let layouts := ((f.bind fun f => s.graph? f.graph).map (·.layouts)).getD []
  let c := s.ctxOf f
  let cv := dmaCvt w
  let rs := (List.range (dmaLen w)).map fun n =>
    let at_ := cells256.map fun (i, j) => dmaPos c layouts t.1 (dmaDstSpace w) (dmaDstAddr w) n i j
    let xs := (cells256.zip at_).map fun (ij, p) => p.map fun _ => blockElem (dmaSrcFmt w) src n ij.1 ij.2
    let gen := match at_.filterMap id with
      | q :: _ => if cvtRnd cv = 2 then
          blockSeed ((sn.map fun x => field x.pblock 0 8).getD 0) ((f.map (·.fseq)).getD 0) (dmaOpIndex w) (blockIndex q)
        else 0
      | [] => 0
    let k := convertBlock t.1 (cvtRnd cv) (cvtSat cv == 1) t.2 gen xs
    let done := (at_.zip (xs.zip k.results)).filterMap fun (q, x, r) =>
      match q, x, r with
      | some q, some x, some r => some (q, x, r)
      | _, _, _ => none
    (blockData t.1 k.codes, k.scales.map (BitVec.ofNat 8),
      done.map fun (q, _, r) => dmaOcc r.flags (dmaOpIndex w) (elemIndex q) 6,
      done.foldl (fun (g : Gauge) (_, x, r) => g.note x r) .empty)
  let tracts := (List.range (dmaLen w / 8)).flatMap fun k =>
    let l := (rs.drop (8 * k)).take 8
    l.flatMap (·.1) ++ l.flatMap (·.2.1)
  { bytes := if t.1 = 6 then tracts else rs.flatMap (·.1)
    occs := rs.flatMap (·.2.2.1)
    gauges := if cvtGaugeEn cv = 1 then [(cvtGaugeId cv, rs.foldl (fun g r => g.merge r.2.2.2) .empty)] else [] }

/-- What a descriptor makes of its source bytes: converted when it says so. -/
def State.dmaMoved (s : State) (f : Option Firing) (w : Nat) (src : Bytes) : Moved :=
  if dmaCvtEn w = 1 ∧ dmaIdx w = 0 then s.dmaConvert f w src else ⟨src, [], []⟩

/-- The CRC that follows the destination (R195). -/
def dmaCrcOf (w : Nat) (b : Bytes) : Bytes :=
  if dmaCrc w = 1 then natLe 4 (crc32c b) else if dmaCrc w = 2 then natLe 8 (crc64 b) else []

/-- Cut a byte string into pieces of n. -/
def pieces (n : Nat) : Nat → Bytes → List Bytes
  | 0, _ => []
  | fuel + 1, b => if b = [] then [] else b.take n :: pieces n fuel (b.drop n)

/-- Runs written, address and bytes, in order: one run, or one for each element under scatter (R193). -/
def dmaWrites (w : Nat) (offs : List Nat) (b : Bytes) : List (Nat × Bytes) :=
  if dmaIdx w = 2 then
    (offs.zip (pieces (dmaElemBytes w) offs.length b)).map fun p => (dmaDstAddr w + p.1, p.2)
  else
    let all := b ++ dmaCrcOf w b
    if all = [] then [] else [(dmaDstAddr w, all)]

/-! ### Local ACCUM (R190) -/

/-- Flags of one add at a channel controller: a NaN in the destination raises nothing. -/
def accumFlags (f x y : Nat) : Nat :=
  let c := accCode f
  match decode c y, decode c x with
  | .nan sig, _ => flNanIn + (if sig then flInvalid else 0)
  | _, .nan _ => 0
  | b, a => (addExact 0 a b).2 + (roundOp c 0 0 (addExact 0 a b).1).flags

/-- The element index of a byte of an ACCUM region (R430). -/
def accumElem (c : DmaCtx) (layouts : List Nat) (f a : Nat) : Nat :=
  match regionAt c.regions 3 a with
  | none => 0
  | some r =>
    let off := a - regBase r
    match layoutOf layouts r with
    | none => off / accElemBytes f
    | some l =>
      let fmt := accCode f
      let e := off % blockBytes fmt / accElemBytes f
      elemIndex (logicalAt l (off / blockBytes fmt) (e / 16) (e % 16))

/-- The occurrences of a run of adds into stack memory at address a (before translation `la`). -/
def State.accumOccs (s : State) (f : Option Firing) (fmt op la a : Nat) (b : Bytes) : List Occ :=
  let layouts := ((f.bind fun f => s.graph? f.graph).map (·.layouts)).getD []
  let e := accElemBytes fmt
  (List.range (b.length / e)).map fun i =>
    dmaOcc (accumFlags fmt (leNat (mreadN s.mem.stack (a + e * i) e)) (field b (e * i) e)) op
      (accumElem (s.ctxOf f) layouts fmt (la + e * i)) 8

/-! ### Reads and writes that a stack cannot serve (R178, R179, R198) -/

/-- A line that is uncorrectable: its address is recorded, and the firing faults with F-140. -/
def State.uncorrectable (s : State) (line : Nat) (q : Option Nat) : State :=
  let s := s.lineLost line
  match q with
  | some q => s.faultLine q line
  | none => s

/-- Reads meet the stacks: the first uncorrectable line, or the lines rebuilt. -/
def State.readLines (s : State) (rs : List (Nat × Nat × Nat)) : Except Nat State :=
  rs.foldl (fun e r =>
    match e with
    | .error l => .error l
    | .ok s =>
      if r.1 = 3 then
        match s.badIn r.2.1 r.2.2 with
        | some l => .error l
        | none => .ok (s.rebuildIn r.2.1 r.2.2)
      else .ok s) (.ok s)

def dmaHost (w : Nat) : Bool := dmaMoves w && (dmaSrcSpace w == 5 || dmaDstSpace w == 5)

/-- A piece of the Sitter's work goes to a port-die engine of its choice, and counts in that engine's DMA_BYTES
(R183). -/
def State.sitterMoves (s : State) (n : Nat) : State :=
  { s with sit := { s.sit with pieces := s.sit.pieces ++ [(s.fresh, n)] }, fresh := s.fresh + 1 }

/-- The port-die engine of a piece of the Sitter's work. -/
def pieceOn (fresh : Nat) : Nat := 128 + Config.freeNat fresh % 8

/-- The engine that the next piece goes to. -/
def State.pieceEngine (s : State) : Nat := pieceOn s.fresh

/-- What the Sitter's pieces of work have moved on a port-die engine. -/
def State.piecesOn (s : State) (e : Nat) : Nat := ((s.sit.pieces.filter fun p => pieceOn p.1 == e).map (·.2)).sum

/-! ### Rings (R184-R187) -/

/-- The engine belongs to a kiln in service, or to a port die. -/
def State.engineHere (s : State) (e : Nat) : Bool := decide (128 ≤ e) || !has s.rep.lostKilns (e / 16)

/-- The engines act while the module has power and no power-fail sequence runs (R199). -/
def State.enginesRun (s : State) : Bool := s.powered && s.power.seq.isNone

/-- During a Sitter restart the port-die engines stand still (R356). -/
def State.engineRuns (s : State) (e : Nat) : Bool := s.enginesRun && (decide (e < 128) || !s.on sitCoreRestarting 0)

def State.hold (s : State) (e w : Nat) (q i : Option Nat) (issue : Nat) : State :=
  let x := s.engine e
  let h : HeldDesc := ⟨x.fetched, w, q, i, issue, false, false, false, false, 0, false, [], [], []⟩
  s.setEngine e { x with held := x.held ++ [h], fetched := x.fetched + 1 }

/-- A DMA doorbell: the engine reads its ring again (R186). -/
def State.ringEngine (s : State) (e : Nat) : State :=
  if s.powered ∧ s.on dmaRingCtlEnable e then s.setEngine e { s.engine e with awake := true } else s

/-- DMA_DOORBELL. -/
def execDmaDoorbell (engine : Nat) (s : State) : Out := onUnit (engine < 136) <| .next <| s.ringEngine engine

/-- A write of DMA_RING_CTL.ENABLE (Table 7.9): clearing waits until the held descriptors complete. -/
def State.ringEnable (s : State) (e : Nat) (enable : Bool) : State :=
  if !s.powered then s
  else if enable then
    (s.wr dmaRingCtlEnable e 1).setEngine e { s.engine e with awake := true, stopAfter := false }
  else if (s.engine e).held.isEmpty then
    (s.wr dmaRingCtlEnable e 0).setEngine e { s.engine e with awake := false, stopAfter := false }
  else s.setEngine e { s.engine e with awake := false, stopAfter := s.on dmaRingCtlEnable e }

/-- DMA_RING_ENABLE_WRITE. -/
def execDmaRingEnableWrite (engine : Nat) (enable : Bool) (s : State) : Out :=
  onUnit (engine < 136) <| .next <| s.ringEnable engine enable

/-- A fabric-global destination, of data or of an increment, outside the job's subcube (R307, R308). -/
def State.outsideJob (s : State) (w : Nat) : Bool :=
  dmaDstSpace w == 4 && (dmaMoves w || (dmaSigEn w == 1 && dmaSigRemote w == 1)) && !s.inJob (dmaDstMod w)

/-- A descriptor read from a ring in memory fails its checks: F-145, F-170, S-240 or S-241. -/
def State.fetchFault (s : State) (f : Option Firing) (w : Nat) : Option Code :=
  if (((s.ctxOf f).codes w).isEmpty = false) then some (if f.isSome then .f 145 else .s 240)
  else if f.isSome ∧ s.outsideJob w then some (.f 170)
  else if !s.inService ∧ ((dmaOp w = 2 ∧ dmaDstSpace w = 4) ∨ (dmaSigEn w = 1 ∧ dmaSigRemote w = 1)) then some (.s 241)
  else none

/-- The descriptor increments a FABRIC signal (R223). -/
def State.issuesInc (s : State) (w : Nat) : Bool := dmaSigEn w == 1 && (dmaSigRemote w == 1 || s.sigFabric (dmaSig w))

/-- FABRIC increments of slots of an engine's work list before slot i (R223). -/
def State.issuesBefore (s : State) (f : Firing) (o i : Nat) : Nat :=
  (((f.items o).take i).filter fun p => s.issuesInc p.1).length

/-- The engine stops reading its ring until a doorbell (R184 step 1). -/
def State.sleep (s : State) (e : Nat) : State := s.setEngine e { s.engine e with awake := false }

/-- What the engine does with a slot of a ring in memory: takes it, for a firing or for the Sitter; leaves it for
now; or consumes it and starts nothing. -/
inductive SlotUse
  | take (f : Option Firing) | leave | consume
  deriving DecidableEq, Repr

/-- The use of a slot: a firing switched out or not yet launched has its descriptors left in the ring; of one that
the module has stopped, or that has ended, no later descriptor starts (R199, log 57). -/
def State.slotUse (s : State) (w : Nat) : SlotUse :=
  if dmaFslot w = 0xFFFF then .take none
  else
    match s.fe.firings.find? fun f => f.fslot == dmaFslot w with
    | none => .consume
    | some f =>
      if f.running then (if s.inService then .take (some f) else .leave)
      else if f.st = .switched ∨ f.st = .accepted then .leave else .consume

/-- The next slot of the engine's ring in memory (R184, R196). A slot that no stack can read stops the ring (log
122). -/
def State.fetchRing (s : State) (e : Nat) : State :=
  if s.on dmaRingCtlEnable e && (s.engine e).awake then
    match s.headSlot e with
    | none => s
    | some (sp, a, w) =>
      match if sp = 3 then s.badIn a 64 else none with
      | some l => (s.lineLost l).sleep e
      | none =>
        let s := if sp = 3 then s.rebuildIn a 64 else s
        let next := fun (s : State) => s.wr dmaHeadHead e ((s.rd dmaHeadHead e + 1) % s.ringSlots e)
        if dmaOwn w = 0 then s.sleep e
        else
          match s.slotUse w with
          | .leave => s
          | .consume => next (s.put sp (a + 63) [0])
          | .take f =>
            let s := s.put sp (a + 63) [0]
            match s.fetchFault f w, f with
            | some (.f n), some f => ((s.setBit dmaStatusBadSeen e).sleep e).fault f.fseq n
            | some c, _ => ((s.setBit dmaStatusBadSeen e).sleep e).post c [e]
            | none, none => (next s).hold e w none none 0
            | none, some f =>
              let o := engineObserver e
              let issue := s.issuesBefore f o (f.items o).length + f.issueIndex o
              let counted := fun (f : Firing) => if s.issuesInc w then { f with issued := tput f.issued o (f.issueIndex o + 1) } else f
              ((next s).updFiring f.fseq counted).hold e w (some f.fseq) none issue
  else s

/-- A slot of a work list is fetched: byte 63 becomes 0 (R184 step 2). -/
def Firing.fetchSlot (f : Firing) (o i : Nat) : Firing :=
  { f with work := f.work.map fun p =>
      if p.1 = o then (p.1, p.2.mapIdx fun j x => if j = i then (bits x.1 0 504, .running) else x) else p }

/-- DESCRIPTOR_FETCH (R184, R196, R308): the next slot of the running firing's work list for the engine, which is its
ring (R183), else of its ring in memory (log 32). -/
def execDescriptorFetch (engine : Nat) (s : State) : Out :=
  onUnit (engine < 136) <| .next <|
    if s.engineRuns engine && s.engineHere engine && (s.engine engine).held.length < 16 then
      let o := engineObserver engine
      match (s.onObserver o).bind fun f => (f.next o).map fun p => (f, p) with
      | some (f, i, w) =>
        if s.inService && s.on dmaRingCtlEnable engine && dmaOwn w == 1 then
          if s.outsideJob w then s.fault f.fseq 170
          else (s.updFiring f.fseq fun f => f.fetchSlot o i).hold engine w (some f.fseq) (some i) (s.issuesBefore f o i)
        else s
      | none => s.fetchRing engine
    else s

/-! ### Remote writes and increments (R192, R205, R314) -/

/-- A keyed increment has gone out on a flow: its retire notice will (R224). -/
def Firing.pulsed (f : Firing) (dst o : Nat) : Firing :=
  { f with retire := if f.retire.any (fun p => p.1 == dst && p.2 == o) then f.retire else f.retire ++ [(dst, o)] }

/-- The packets of a descriptor: payloads of at most 4,096 bytes, then its increment. -/
def State.dmaPackets (s : State) (e : Nat) (h : HeldDesc) : List (Nat × Nat × Bytes) :=
  let w := h.word
  let typ := if dmaOp w = 2 then 2 else 1
  (if dmaMoves w then
    (dmaWrites w h.offs (s.dmaMoved (h.fseq.bind s.firing?) w h.src).bytes).flatMap fun p =>
      (pieces 4096 p.2.length p.2).mapIdx fun i c => (typ, bits (p.1 + 4096 * i) 0 40, c)
   else []) ++
  (if dmaSigEn w = 1 ∧ dmaSigRemote w = 1 then
    [(3, 0, sigPayload (dmaSig w) (engineObserver e) h.fseq.isSome (h.fseq.getD 0) h.issue)]
   else [])

/-! ### Transfers (R282, Table 10.3) -/

/-- The transfers of an extent of one of this module's spaces, in the order of its addresses: at each channel those of
one 64 KiB block of a stack, at the host port 4 KiB. Scratchpads have no damper. -/
def extentPieces (accum isRead : Bool) (x : Nat × Nat × Nat) : List Move :=
  let a := x.2.1
  let n := x.2.2
  let block := fun (size i : Nat) => (max a (size * (a / size + i)), min (a + n) (size * (a / size + i + 1)))
  let blocks := fun (size : Nat) => if n = 0 then [] else (List.range ((a + n - 1) / size - a / size + 1)).map (block size)
  if x.1 = 3 then (blocks 65536).flatMap fun b => (channelLines b.1 (b.2 - b.1)).map fun c => ⟨c.1, c.2, accum, isRead⟩
  else if x.1 = 5 then (blocks 4096).map fun b => ⟨270, ceilDiv (b.2 - b.1) 512, accum, isRead⟩
  else []

/-- The transfers of a descriptor at the channels and the host port: its reads, then its writes within this module. -/
def State.dmaPieces (s : State) (f : Option Firing) (w : Nat) (offs : List Nat) : List Move :=
  (s.dmaTable f w ++ s.dmaReads f w offs).flatMap (extentPieces false true) ++
    (if dmaMoves w then (s.dmaDsts f w offs).flatMap (extentPieces (dmaOp w == 2) false) else [])

/-- Every write of the descriptor, and its remote increment, has been issued (R188). -/
def State.allSent (s : State) (e : Nat) (h : HeldDesc) : Bool :=
  h.placed || (h.started && h.todo.all (·.isRead) &&
    (!s.dmaRemote h.word || decide ((s.dmaPackets e h).length ≤ h.sent)))

/-- A transfer of an observer's piece of work waits at a damper, or holds its resource (R192, R289). -/
def State.passing (s : State) (o id : Nat) : Bool :=
  let mine := fun (q : Waiting) => q.t.req == o && q.t.id == id
  s.dampers.any fun d => d.2.waiting.any mine || d.2.holder.any fun h => mine h.1 && decide (s.now < h.2 + h.1.t.ticks)

/-- The descriptors that the engine holds before one of them. -/
def State.heldBefore (s : State) (e n : Nat) : List HeldDesc := (s.engine e).held.takeWhile fun d => d.serial != n

def State.updHeld (s : State) (e n : Nat) (g : HeldDesc → HeldDesc) : State :=
  let x := s.engine e
  s.setEngine e { x with held := x.held.map fun d => if d.serial = n then g d else d }

/-- The writes of every earlier descriptor have been issued (R188). -/
def State.writesFree (s : State) (e : Nat) (h : HeldDesc) : Bool :=
  (s.heldBefore e h.serial).all fun d => s.allSent e d || !dmaMoves d.word

/-- Every earlier pulse has gone (R192). -/
def State.pulsesGone (s : State) (e : Nat) (h : HeldDesc) : Bool :=
  (s.heldBefore e h.serial).all fun d => dmaSigEn d.word == 0 || (dmaSigRemote d.word == 1 && s.allSent e d)

/-- A descriptor's next packet reaches the damper of its route's first port: payloads after every earlier descriptor's
writes (R188), the increment after every earlier pulse (R192). It takes its number as it leaves. -/
def State.issuePacket (s : State) (e : Nat) (h : HeldDesc) (d : Nat) (t : Transfer) : State :=
  let dst := dmaDstMod h.word
  match (s.dmaPackets e h)[h.sent]? with
  | none => s
  | some x =>
    match s.route? dst with
    | none => match h.fseq with
      | some q => s.faultUnreachable q dst
      | none => s
    | some r =>
      let k : HeldPkt := ⟨s.newPacket dst x.1 (dmaAccFmt h.word) r x.2.1 x.2.2, h.fseq, some e, h.serial, false⟩
      let go := s.writesFree e h && (x.1 != 3 || s.pulsesGone e h)
      if !go || r.head? != some (d - 256) || d < 256 || t.isRead || t.accum != (x.1 == 2) || t.units != flitsOf k.p then s
      else
        let s := if s.holdRoom x.2.2 then s else s.setBit fabStatusHoldFullSeen 0
        let s := if x.1 = 3 then
            match h.fseq with
            | some q => s.updFiring q fun f => f.pulsed dst (engineObserver e)
            | none => s
          else s
        (s.updHeld e h.serial fun d => { d with sent := d.sent + 1 }).reach d t (some k.leave) false

/-- An engine issues a transfer of a descriptor to a damper: its pieces in their order (R188, R282), none but scheduled
ones where it has a hint (R291). -/
def State.issue (s : State) (e d : Nat) (t : Transfer) : State :=
  match (s.engine e).held.find? fun h => h.serial == t.id with
  | none => s
  | some h =>
    let loose := !(s.windows d).any fun w => inWindow w t
    if !h.started || h.placed || t.opIndex != dmaOpIndex h.word || (loose && s.hinted d t.req) then s
    else
      match h.todo with
      | [] => if s.dmaRemote h.word then s.issuePacket e h d t else s
      | x :: r =>
        if x = ⟨d, t.units, t.accum, t.isRead⟩ ∧ (x.isRead ∨ s.writesFree e h) then
          (s.updHeld e h.serial fun k => { k with todo := r }).reach d t none true
        else s

/-! ### Starting and completing -/

/-- The grant of the descriptor's operation (R254); Sitter work needs none. -/
def HeldDesc.granted (h : HeldDesc) (f : Option Firing) : Bool :=
  match f with
  | some f => f.running && has f.granted (dmaOpIndex h.word)
  | none => h.fseq.isNone

/-- An earlier held descriptor writes what this one reads (R201). -/
def State.readsPending (s : State) (earlier : List HeldDesc) (rs : List (Nat × Nat × Nat)) : Bool :=
  earlier.any fun d =>
    !d.placed && (s.dmaDsts (d.fseq.bind s.firing?) d.word d.offs).any fun x =>
      rs.any fun r => r.1 == x.1 && overlaps r.2.1 r.2.2 x.2.1 x.2.2

/-- The gate that a firing's read of stack memory meets (R333, R335). -/
def State.gateOf (s : State) (f : Option Firing) (rs : List (Nat × Nat × Nat)) : ReadGate :=
  if f.isNone then .free
  else
    let gs := (rs.filter fun r => r.1 == 3).map fun r => s.readGate r.2.1 r.2.2
    if gs.any fun g => g = .broken then .broken else if gs.any fun g => g = .held then .held else .free

/-- What reads meet: a gate that holds them or is broken, a line that no stack can read, or nothing. -/
inductive ReadMet
  | held | broken | lost (line : Nat) | met
  deriving DecidableEq, Repr

/-- Reads of a firing, or of Sitter work, meet the gates and the lines. -/
def State.meetReads (s : State) (f : Option Firing) (rs : List (Nat × Nat × Nat)) : ReadMet × State :=
  match s.gateOf f rs with
  | .broken => (.broken, s)
  | .held => (.held, s)
  | .free =>
    match s.readLines rs with
    | .error l => (.lost l, s)
    | .ok s => (.met, s)

/-- Sitter work that fails is given up. -/
def State.giveUp (s : State) (e : Nat) (h : HeldDesc) : State :=
  let s := s.dmaUndone h
  let x := s.engine e
  (s.setEngine e { x with held := x.held.filter fun d => d.serial != h.serial }).leaveDampers (engineObserver e) [h.serial]

/-- A line that a descriptor needs is uncorrectable: F-140, or Sitter work given up (log 122). -/
def State.descLost (s : State) (e : Nat) (h : HeldDesc) (line : Nat) : State :=
  let s := s.uncorrectable line h.fseq
  if h.fseq.isNone then s.giveUp e h else s

/-- The reads of a descriptor do not go on. -/
def State.readStopped (s : State) (e : Nat) (h : HeldDesc) : ReadMet → State
  | .broken => match h.fseq with
    | some q => s.fault q 181
    | none => s
  | .held =>
    (if h.readHeld then s else s.satAdd grxCntHeldReads 0 1).updHeld e h.serial fun d =>
      { d with started := true, waiting := false, readHeld := true }
  | .lost l => s.descLost e h l
  | .met => s

/-- The reads of a descriptor that is free to run: the index table, then its entries are checked (R194), then the
source; what they return stays with the descriptor, and its transfers are to be issued. -/
def State.runDesc (s : State) (e : Nat) (h : HeldDesc) : State :=
  let f := h.fseq.bind s.firing?
  match s.meetReads f (s.dmaTable f h.word) with
  | (.met, s) =>
    let offs := s.dmaOffsets f h.word
    if s.badIndex f h.word offs then
      match h.fseq with
      | some q => s.fault q 143
      | none => (s.dropDescs fun d => d.fseq.isNone && d.serial == h.serial).post (.s 240) [e]
    else
      match s.meetReads f (s.dmaReads f h.word offs) with
      | (.met, s) =>
        let d := { h with
          started := true, waiting := false, readHeld := false, offs := offs, src := s.dmaSource f h.word offs,
          todo := s.dmaPieces f h.word offs }
        let s := s.updHeld e h.serial fun _ => d
        if dmaMoves h.word ∧ dmaSrcSpace h.word = 5 then { s with fresh := s.fresh + 1 } else s
      | (r, s) => s.readStopped e h r
  | (r, s) => s.readStopped e h r

/-- The first descriptor that has not started, with those before it. -/
def splitHeld : List HeldDesc → List HeldDesc × Option HeldDesc
  | [] => ([], none)
  | h :: r => if h.started then (h :: (splitHeld r).1, (splitHeld r).2) else ([], some h)

/-- A firing's descriptors run in normal service only (R210). -/
def State.mayRun (s : State) (h : HeldDesc) : Bool := h.fseq.isNone || s.inService

/-- DESCRIPTOR_START (R188, R189, R201, R254). A WAIT_COPY waits as WAIT_GE does (R219). -/
def execDescriptorStart (engine : Nat) (s : State) : Out :=
  onUnit (engine < 136) <| .next <|
    if !s.engineRuns engine then s
    else
      match splitHeld (s.engine engine).held with
      | (before, some h) =>
        let f := h.fseq.bind s.firing?
        let w := h.word
        let offs := s.dmaOffsets f w
        let rs := s.dmaTable f w ++ s.dmaReads f w offs
        let busy := fun (r : Nat × Nat × Nat) => s.windowBusy r.1 r.2.1 r.2.2
        if h.waiting || before.any (·.readHeld) || !s.mayRun h || !h.granted f || (dmaFence w == 1 && !before.isEmpty) ||
            s.readsPending before rs || (dmaHost w && !s.hostReady) || rs.any busy || (s.dmaDsts f w offs).any busy then s
        else if dmaOp w = 3 then
          let s := s.closeSig (dmaWaitSig w)
          if s.sigVal (dmaWaitSig w) < dmaWaitVal w then
            (s.updHeld engine h.serial fun d => { d with waiting := true }).register
              ⟨engineObserver engine, h.fseq, dmaWaitSig w, false, dmaWaitVal w, s.now, 0, dmaOpIndex w⟩
          else s.runDesc engine h
        else s.runDesc engine h
      | (_, none) => s

/-- WAIT_COPY_RELEASE (R189, R219): the engine sees that the signal file has released its wait. -/
def execWaitCopyRelease (engine : Nat) (s : State) : Out :=
  onUnit (engine < 136) <| .next <|
    if !s.engineRuns engine then s
    else
      match (s.engine engine).held.find? (·.waiting) with
      | some h => if h.met && s.mayRun h then s.runDesc engine h else s
      | none => s

/-- HELD_READ_RELEASE (R333, R335). -/
def execHeldReadRelease (engine : Nat) (s : State) : Out :=
  onUnit (engine < 136) <| .next <|
    if !s.engineRuns engine then s
    else
      match (s.engine engine).held.find? (·.readHeld) with
      | some h => if s.mayRun h then s.runDesc engine h else s
      | none => s

/-- Write a run into this module (spaces 1, 2, 3, or 4 naming this module), or host memory. -/
def State.dmaPutRun (s : State) (f : Option Firing) (w : Nat) (p : Nat × Bytes) : State :=
  let sp := dmaDstSpace w
  if sp = 4 then
    if dmaOp w = 2 then s.takeAccum s.self (dmaAccFmt w) (bits p.1 0 40) p.2 else s.takeWrite s.self (bits p.1 0 40) p.2
  else
    let a := s.addr f sp true p.1
    if dmaOp w = 2 then s.takeAccum s.self (dmaAccFmt w) a p.2
    else if sp = 3 then s.takeWrite s.self a p.2 else s.writeSpace sp a p.2

/-- The line that stops a run of a descriptor into this module's stack memory (R178). An add into a bucket area is the
exchange's own (R329). -/
def State.runBlocked (s : State) (f : Option Firing) (w : Nat) (p : Nat × Bytes) : Option Nat :=
  let n := p.2.length
  let a := if dmaDstSpace w = 4 then bits p.1 0 40 else s.addr f 3 true p.1
  if !has [3, 4] (dmaDstSpace w) then none
  else if dmaOp w = 2 then (if (s.instAt a n).isSome then none else s.badIn a n)
  else s.writeBlocked a n

/-- The occurrences of one run of a local ACCUM, outside bucket areas (R190). -/
def State.dmaAccOccs (s : State) (f : Option Firing) (w : Nat) (p : Nat × Bytes) : List Occ :=
  if dmaOp w = 2 ∧ dmaDstSpace w = 3 then
    let a := s.addr f 3 true p.1
    if (s.instsMeeting a p.2.length).isEmpty then s.accumOccs f (dmaAccFmt w) (dmaOpIndex w) p.1 a p.2 else []
  else []

/-- Make the writes of a descriptor in order; the occurrences of each add are those of the sum that it meets. -/
def State.dmaPutRuns (s : State) (f : Option Firing) (w : Nat) (runs : List (Nat × Bytes)) : State × List Occ :=
  runs.foldl (fun r p => (r.1.dmaPutRun f w p, r.2 ++ r.1.dmaAccOccs f w p)) (s, [])

/-- The pulse of a completed descriptor (R192), but the increment that has gone to another module; false when a full
record table holds it back. -/
def State.pulse (s : State) (e : Nat) (h : HeldDesc) (more : Bool) : State × Bool :=
  if dmaSigEn h.word = 0 ∨ (dmaSigRemote h.word = 1 ∧ s.dmaRemote h.word) then (s, true)
  else
    match h.fseq.bind s.firing? with
    | none => (s.incSignal (dmaSig h.word) 1 none more, true)
    | some f =>
      let o := engineObserver e
      if s.sigFabric (dmaSig h.word) then
        let r := s.incKeyed ⟨s.self, o, f.fseq, h.issue⟩ (dmaSig h.word) 1 (some f.fseq) more
        if r.2 then (r.1.updFiring f.fseq fun f => f.pulsed s.self o, true) else r
      else (s.incSignal (dmaSig h.word) 1 (some f.fseq) more, true)

/-- A descriptor is complete: the engine lets it go. -/
def State.letGo (s : State) (e : Nat) (h : HeldDesc) (n : Nat) : State :=
  let s := s.wrapAdd dmaBytesBytes e n
  let s := match h.fseq, h.index with
    | some q, some i => s.updFiring q fun f => f.setItem (engineObserver e) i .done
    | _, _ => s
  let x := s.engine e
  let held := x.held.filter fun d => d.serial != h.serial
  if held.isEmpty ∧ x.stopAfter then
    (s.wr dmaRingCtlEnable e 0).setEngine e { x with held := [], stopAfter := false }
  else s.setEngine e { x with held := held }

/-- The bytes that a descriptor writes. -/
def State.dmaCount (s : State) (h : HeldDesc) : Nat :=
  if dmaMoves h.word then
    dmaDstBytes ((((h.fseq.bind s.firing?).bind (·.snap)).map (·.ladder)).getD []) h.word + crcBytes h.word
  else 0

/-- A descriptor's bytes are in place: its firing takes its flags and gauges. -/
def State.place (s : State) (e : Nat) (h : HeldDesc) (occs : List Occ) (gauges : Tab Gauge) : State :=
  let s := match h.fseq with
    | some q => s.updFiring q fun f => { f with arith := f.arith.reports occs, gauges := mergeGauges f.gauges gauges }
    | none => s
  s.updHeld e h.serial fun d => { d with placed := true }

/-- A descriptor whose bytes are in place pulses, and the engine lets it go. -/
def State.complete (s : State) (e : Nat) (h : HeldDesc) (more : Bool) : State :=
  let r := s.pulse e h more
  if r.2 then r.1.letGo e h (s.dmaCount h) else r.1

/-- A descriptor into another module completes once every packet has gone and is acknowledged. -/
def State.completeRemote (s : State) (e : Nat) (h : HeldDesc) (more : Bool) : State :=
  if !s.allSent e h || s.heldPkts (fun k => k.engine == some e && k.serial == h.serial) != [] then s
  else
    let m := s.dmaMoved (h.fseq.bind s.firing?) h.word h.src
    (s.place e h m.occs m.gauges).complete e h more

/-- A descriptor into this module or the host completes: its bytes are put in place, then its pulse. -/
def State.completeLocal (s : State) (e : Nat) (h : HeldDesc) (more : Bool) : State :=
  let f := h.fseq.bind s.firing?
  let w := h.word
  let m : Moved := if dmaMoves w then s.dmaMoved f w h.src else ⟨[], [], []⟩
  let runs := if dmaMoves w then dmaWrites w h.offs m.bytes else []
  match runs.findSome? fun p => s.runBlocked f w p with
  | some l => s.descLost e h l
  | none =>
    let r := s.dmaPutRuns f w runs
    (r.1.place e h (m.occs ++ r.2) m.gauges).complete e h more

/-- DESCRIPTOR_COMPLETE (R192): the oldest held descriptor, so that pulses keep ring order. -/
def execDescriptorComplete (engine : Nat) (s : State) (more : Bool := false) : Out :=
  onUnit (engine < 136) <| .next <|
    if !s.engineRuns engine then s
    else
      match (s.engine engine).held with
      | [] => s
      | h :: _ =>
        if !h.started || h.readHeld || !s.mayRun h then s
        else if h.placed then s.complete engine h more
        else if !h.todo.isEmpty || s.passing (engineObserver engine) h.serial then s
        else if s.dmaRemote h.word then s.completeRemote engine h more
        else s.completeLocal engine h more

/-! ### Host accesses that fail (R198, R344) -/

/-- A transfer of the descriptor has had its grant at the host port (R345): of those that its accesses of host memory
are split into, some have neither to be issued nor wait there. -/
def State.hostAsked (s : State) (e : Nat) (h : HeldDesc) : Bool :=
  let host := fun (l : List Move) => (l.filter fun p => p.damper == 270).length
  let waits := (s.damper 270).waiting.filter fun q => q.t.req == engineObserver e && q.t.id == h.serial
  decide (host h.todo + waits.length < host (s.dmaPieces (h.fseq.bind s.firing?) h.word h.offs))

/-- The descriptor in progress at the host ends with an error: F-144, or Sitter work given up. -/
def State.hostError (s : State) (e : Nat) : State :=
  match (s.engine e).held.find? fun h => h.started && dmaHost h.word && s.hostAsked e h with
  | none => s
  | some h =>
    let s := s.setBit dmaStatusHostErrSeen e
    match h.fseq with
    | some q => s.fault q 144
    | none => s.giveUp e h

/-- HOST_ACCESS_ERROR (R198). -/
def execHostAccessError (engine : Nat) (s : State) : Out :=
  onUnit (engine < 136) <| .next <| s.hostError engine

/-- HOST_READ_TIMEOUT (R198, R344): a read of a source, or the read of the last byte of a host destination (R192). -/
def execHostReadTimeout (engine : Nat) (s : State) : Out :=
  onUnit (engine < 136) <| .next <| s.hostError engine

end Sys2Proof.Machine
end

