-- ==== Sys2Proof/Machine/Passes.lean ====
section
/-! DEFINITION. Machine/Passes.lean: operations granted, passes started, drained, witnessed and re-run
(R88, R96-R98, R156-R163, R201, R254, R255). -/

namespace Sys2Proof.Machine

/-! ### Operations (R254, R255) -/

/-- The OP_INDEX of a slot of an observer's work list. -/
def slotOp (o w : Nat) : Nat :=
  if 1280 ≤ o ∧ o < 1408 then dmaOpIndex w else if slotIsSync w then synOpIndex w else opOpIndex w

/-- The slots of an operation: observer, word, state. -/
def Firing.opSlots (f : Firing) (op : Nat) : List (Nat × Nat × ItemSt) :=
  f.work.flatMap fun l => (l.2.filter fun x => slotOp l.1 x.1 == op).map fun x => (l.1, x.1, x.2)

/-- The operation is in flight: granted, its last descriptor not completed. -/
def Firing.opInFlight (f : Firing) (op : Nat) : Bool :=
  has f.granted op && (f.opSlots op).any fun x => x.2.2 != .done

/-- Every OP_INDEX of a firing once. -/
def Firing.opIndices (f : Firing) : List Nat :=
  (f.work.flatMap fun l => l.2.map fun x => slotOp l.1 x.1).foldl addNew []

def State.opsInFlight (s : State) : Nat :=
  (s.fe.firings.map fun f => (f.granted.filter f.opInFlight).length).sum

/-- A DMA descriptor writes an ACCUM region of the firing's graph (R197). -/
def State.intoAccum (s : State) (f : Firing) (w : Nat) : Bool :=
  has [1, 3] (dmaDstSpace w) && ((s.graph? f.graph).bind fun g => regionAt g.regions (dmaDstSpace w) (dmaDstAddr w)).any
    fun r => regKind r == 3

/-- The bytes of ACCUM regions that an operation names: its saggar parts and the destinations of its DMA descriptors,
copies into such a region included (R197), each with its space. -/
def State.accExtents (s : State) (f : Firing) (op : Nat) : List (Nat × Nat × Nat) :=
  (f.opSlots op).flatMap fun x =>
    if 1280 ≤ x.1 ∧ x.1 < 1408 then
      if dmaMoves x.2.1 && s.intoAccum f x.2.1 then [s.dmaDst (some f) x.2.1] else []
    else if slotIsSync x.2.1 then []
    else (sagExtents x.2.1).map fun e => (1, e.1, e.2)

def accMeet (a b : List (Nat × Nat × Nat)) : Bool :=
  a.any fun x => b.any fun y => x.1 == y.1 && overlaps x.2.1 x.2.2 y.2.1 y.2.2

/-- An operation of the same queue that must complete first: of the same firing with a lower OP_INDEX,
or of another firing in flight (R255). -/
def State.accEarlier (s : State) (f : Firing) (op : Nat) (ext : List (Nat × Nat × Nat)) : Bool :=
  s.fe.firings.any fun g =>
    g.queue == f.queue &&
      g.opIndices.any fun p =>
        (g.fseq != f.fseq && g.opInFlight p || g.fseq == f.fseq && decide (p < op)) &&
          (g.opSlots p).any (fun x => x.2.2 != .done) && accMeet ext (s.accExtents g p)

/-- An operation in flight of another queue names the same ACCUM bytes. -/
def State.accForeign (s : State) (f : Firing) (ext : List (Nat × Nat × Nat)) : Bool :=
  s.fe.firings.any fun g =>
    g.queue != f.queue && g.granted.any fun p => g.opInFlight p && accMeet ext (s.accExtents g p)

/-- New operations are issued in normal service, outside a power-fail sequence (Table 1.3). -/
def State.issues (s : State) : Bool := s.inService && s.power.seq.isNone

/-- The firing may ask for the grant of an operation: it runs on its claim and has not been granted it. -/
def Firing.asks (f : Firing) (op : Nat) : Bool :=
  f.running && f.claimHeld && !has f.granted op && !(f.opSlots op).isEmpty

/-- A requested grant is given, held, or refused at issue (R254, R255). -/
def State.grantOp (s : State) (p : Nat × Nat) : State :=
  let waits := { s with fe := { s.fe with grants := s.fe.grants ++ [p] } }
  match s.firing? p.1 with
  | none => s
  | some f =>
    if !f.asks p.2 then s
    else
      let ext := s.accExtents f p.2
      if 4096 ≤ s.opsInFlight then waits
      else if s.accForeign f ext then s.fault p.1 160
      else if s.accEarlier f p.2 ext then waits
      else s.updFiring p.1 fun f => { f with granted := f.granted ++ [p.2] }

/-- The held grants are looked at again in grant-request order. -/
def State.grantHeld (s : State) : State :=
  if s.issues then s.fe.grants.foldl State.grantOp { s with fe := { s.fe with grants := [] } } else s

/-- OPERATION_GRANT (R254, R255): held requests come first. -/
def execOperationGrant (fseq opIndex : Nat) (s : State) : Out :=
  .next <|
    let s := s.grantHeld
    if s.issues && !s.fe.grants.any (fun p => decide (p = (fseq, opIndex))) then s.grantOp (fseq, opIndex) else s

/-! ### Gang registers (Tables 3.3, 3.4, R88) -/

/-- Release whatever larger gang holds shelf-row `row` of a kiln. -/
def State.breakHearth (s : State) (k : Nat) : State :=
  let s := (List.range 160).foldl (fun s i => s.wr shfGangJoined (s.shfInst (160 * k + i)) 0) s
  (s.wr klnGangHearth k 0).wr klnGangPair k 0

def State.breakBand (s : State) (k row : Nat) : State :=
  let s := (List.range 16).foldl (fun s i => s.wr shfGangJoined (s.shfInst (160 * k + 16 * row + i)) 0) s
  s.wr klnGangBand k (s.rd klnGangBand k &&& (2 ^ 10 - 1 - 2 ^ row))

def State.breakJoin (s : State) (k row : Nat) : State :=
  let s := if s.on klnGangHearth k then
      if s.on klnGangPair k then (s.breakHearth k).breakHearth (k ^^^ 1) else s.breakHearth k
    else s
  if bit (s.rd klnGangBand k) row then s.breakBand k row else s

/-- A shelf becomes part of a larger gang, one shelf gang, or a shelf of quads and tiles. -/
def State.shelfGang (s : State) (n quad whole joined : Nat) : State :=
  let i := s.shfInst n
  ((s.wr shfGangQuad i quad).wr shfGangWhole i whole).wr shfGangJoined i joined

/-- The gang of a descriptor is formed. -/
def State.formGang (s : State) (w : Nat) : State :=
  let k := opKiln w
  let n := 160 * k + opShelf w
  let row := opShelf w / 16
  let g := opGang w
  if g ≤ 2 then
    let s := s.breakJoin k row
    if g = 2 then s.shelfGang n 0 1 0
    else
      let b := 4 * (opTrow w / 2) + opTcol w / 2
      let q := s.rd shfGangQuad (s.shfInst n)
      let keep := q &&& (2 ^ 16 - 1 - 2 ^ b)
      s.shelfGang n (if g = 1 then keep ||| 2 ^ b else keep) 0 0
  else if g = 3 then
    let s := if s.on klnGangHearth k then s.breakJoin k row else s
    let s := (opShelves w).foldl (fun s n => s.shelfGang n 0 0 1) s
    s.wr klnGangBand k (s.rd klnGangBand k ||| 2 ^ row)
  else
    let s := if g = 4 ∧ s.on klnGangPair k then s.breakHearth (k ^^^ 1) else s
    let s := (opShelves w).foldl (fun s n => s.shelfGang n 0 0 1) s
    (if g = 4 then [k] else [k, k + 1]).foldl (fun s k =>
      ((s.wr klnGangBand k 0).wr klnGangHearth k 1).wr klnGangPair k (b2n (g == 5))) s

/-! ### PASS_START (R88, R96, R97, R201) -/

/-- The next operation descriptor that a list may start, past increments and arrivals that wait for
earlier operations (R202). -/
def nextPass : List (Nat × ItemSt) → Nat → Option (Nat × Nat)
  | [], _ => none
  | (w, st) :: r, i =>
    if slotIsSync w then
      if st = .done ∨ (st = .waiting ∧ slotIsPost w) then nextPass r (i + 1) else none
    else if st = .waiting then some (i, w) else nextPass r (i + 1)

/-- Every descriptor of a list from slot a up to slot i is chained to the next (R96). -/
def chained (l : List (Nat × ItemSt)) (a i : Nat) : Bool :=
  ((l.drop a).take (i - a)).all fun x => !slotIsSync x.1 && opChain x.1 == 1

/-- Earlier passes of the chain that descriptor i of a list belongs to, on tiles of its gang and in flight. -/
def State.chainOn (s : State) (f : Firing) (o i w : Nat) : List Pass :=
  s.passes.filter fun p =>
    !p.stopped && p.fseq == f.fseq && p.observer == o && decide (p.index < i) && chained (f.items o) p.index i &&
      tilesMeet p.word w

/-- No other pass runs on a tile of the gang, but earlier passes of the same chain (R88). In OS there is one:
the cells have one active and one draining accumulator (R84, R96). -/
def State.tilesFree (s : State) (f : Firing) (o i w : Nat) : Bool :=
  let chain := s.chainOn f o i w
  (s.passes.all fun p => p.stopped || !tilesMeet p.word w || has (chain.map (·.id)) p.id) &&
    (!opOs w || decide (chain.length ≤ 1))

/-- The lists that hold operation descriptors: a shelf's, and the front end's (R99). -/
def isPassList (o : Nat) : Bool := decide (o < 1280) || o == 1416

/-- Another list of the firing keeps tiles of the gang for the next pass of a chain that has begun (R96). -/
def Firing.reserves (f : Firing) (o w : Nat) : Bool :=
  f.work.any fun l => l.1 != o && isPassList l.1 && (List.range l.2.length).any fun j =>
    match l.2[j]?, l.2[j + 1]? with
    | some (u, st), some (v, .waiting) =>
      !slotIsSync u && opChain u == 1 && decide (st ≠ .waiting) && !slotIsSync v && tilesMeet v w
    | _, _ => false

/-- How many operations of the firing the front end issued before this one (R88, R254). -/
def Firing.grantNo (f : Firing) (op : Nat) : Nat := f.granted.findIdx (· == op)

/-- Another list of the firing has a pass on tiles of the gang that the front end issued before (R88). -/
def Firing.issuedBefore (f : Firing) (o w : Nat) : Bool :=
  f.work.any fun l => l.1 != o && isPassList l.1 &&
    match nextPass l.2 0 with
    | some (_, v) => has f.granted (opOpIndex v) && tilesMeet v w &&
        decide (f.grantNo (opOpIndex v) < f.grantNo (opOpIndex w))
    | none => false

/-- Bytes that a pass writes: its window and its saggar entries. -/
def passWrites (ladder : Tab Nat) (w : Nat) : List (Nat × Nat) := outExtents ladder w ++ sagExtents w

/-- Earlier passes of the queue that are not sealed write nothing that this one reads or writes (R201), and no
other operation reads or writes the window of a pass that is not sealed (R97). -/
def State.earlierSealed (s : State) (f : Firing) (o i w : Nat) : Bool :=
  let lad := (f.snap.map (·.ladder)).getD []
  let uses := passReads (opFmtM w) (opFmtS w) w ++ passWrites lad w
  s.passes.all fun p =>
    if p.fseq = f.fseq ∧ p.observer = o then
      decide (i ≤ p.index) || !extentsMeet (passWrites lad p.word) uses
    else !extentsMeet (s.windowOf p) uses

/-- A shelf's work outside its passes waits: a wait of its queue is registered (R202), a run of scratchpad that it
uses lies in the window of a pass not sealed (R97), or a pass of its queue still adds to it (R201). -/
def State.shelfHeld (s : State) (f : Firing) (o : Nat) (uses : List (Nat × Nat)) : Bool :=
  (f.items o).any (fun p => decide (p.2 = .running) && slotIsSync p.1) ||
    uses.any (fun u => s.windowBusy 1 u.1 u.2) ||
    s.passes.any fun p => p.fseq == f.fseq && p.observer == o && extentsMeet (sagExtents p.word) uses

/-- The stationary operand is loaded and, in OS, the accumulators (R84, R89, R96): into the active registers; into
the shadow ones while an earlier pass of the chain uses the active ones. When both are taken, the vectors
of the first pass have met its elements, and the second pass's become the active ones. -/
def State.load (s : State) (w : Nat) (chain : List Pass) : State :=
  let m := s.mem.scratch
  if opOs w then
    s.updCells w fun r c x =>
      { x with draining := if chain.isEmpty then x.draining else x.acc, acc := psumAt m w r c }
  else
    let e := fun r c => (statAt m w r c, nibbleAt m w r c)
    match chain.filter (·.met.isEmpty) with
    | [] => s.updCells w fun r c x => { x with active := e r c }
    | [_] => s.updCells w fun r c x => { x with shadow := e r c }
    | p :: _ =>
      let t := { s with passes := s.passes.map fun (q : Pass) =>
        if q.id = p.id then { q with met := s.cellTab q.word (·.active) } else q }
      (t.updCells p.word fun _ _ x => { x with active := x.shadow }).updCells w fun r c x => { x with shadow := e r c }

/-- A pass begins to stream: the gang is formed, its operand loaded and its window undefined until the seal
(R97). -/
def State.streams (s : State) (f : Firing) (w : Nat) (chain : List Pass) : State :=
  ((s.formGang w).load w chain).forgets 1 (outExtents ((f.snap.map (·.ladder)).getD []) w)

/-- What an OS pass's window holds before it streams; the drain alone writes it (R97, R170). -/
def State.underneath (s : State) (f : Firing) (w : Nat) : List (Nat × Bytes) :=
  if opOs w then (outExtents ((f.snap.map (·.ladder)).getD []) w).map fun e => (e.1, s.readSpace 1 e.1 e.2) else []

/-- The stopped pass of an observer that runs again first (R161). -/
def State.stoppedPass (s : State) (f : Firing) (o : Nat) : Option Pass :=
  (s.passes.filter fun p => p.stopped && p.fseq == f.fseq && p.observer == o).foldl (fun b p =>
    match b with
    | some q => if p.index < q.index then some p else b
    | none => some p) none

/-- PASS_START (R88, R96, R161, R170, R201, R254). -/
def execPassStart (observer : Nat) (s : State) : Out :=
  onUnit (observer < 1280 || observer == 1416) <| .next <|
    if !s.issues || s.power.throttled then s
    else
      match s.onObserver observer with
      | none => s
      | some f =>
        match s.stoppedPass f observer with
        | some p =>
          if s.tilesFree f observer p.index p.word && s.earlierSealed f observer p.index p.word then
            let under := s.underneath f p.word
            let s := s.streams f p.word (s.chainOn f observer p.index p.word)
            { s with passes := s.passes.map fun q =>
              if q.id = p.id then { q with stopped := false, met := [], under := under } else q }
          else s
        | none =>
          match nextPass (f.items observer) 0 with
          | none => s
          | some (i, w) =>
            if has f.granted (opOpIndex w) && s.tilesFree f observer i w && s.earlierSealed f observer i w &&
                !f.reserves observer w && !f.issuedBefore observer w then
              let under := s.underneath f w
              let s := (s.streams f w (s.chainOn f observer i w)).updFiring f.fseq fun f => f.setItem observer i .running
              { s with
                passes := s.passes ++ [⟨s.nextPass, f.fseq, observer, i, w, 0, false, [], under⟩]
                nextPass := s.nextPass + 1 }
            else s

/-! ### DRAIN (R98, R156-R163) -/

/-- A tile of a failing share: kiln, shelf, tile row, tile column. -/
abbrev FailTile := Nat × Nat × Nat × Nat

/-- The tile of a number 64 × shelf number + 8 × row + column. -/
def failTile (n : Nat) : FailTile := (n / 64 / 160, n / 64 % 160, n % 64 / 8, n % 8)

/-- One failing share is charged to the tile that serves the position (R161, R162). -/
def State.chargeTile (s : State) (op : Nat) (t : FailTile) : State :=
  let n := s.shfInst (160 * t.1 + t.2.1)
  let s := (s.satAdd shfWitFailFails n 1).setBit shfWitStatFailSeen n
  let s := ((s.wr shfWitStatLastTrow n t.2.2.1).wr shfWitStatLastTcol n t.2.2.2).wr shfWitLastOpIndex n op
  let i := tileInst (s.builtTile t.1 t.2.1 t.2.2.1 t.2.2.2)
  let s := s.satAdd tileColmapWitFails i 1
  if 2 ≤ s.rd tileColmapWitFails i then s.wr tileColmapRetirePend i 1 else s

/-- What is not checked by value, counted at the shelves (R159): a vector once for each shelf that has a tile
which does not check it, an OS pass once. -/
def State.countSkips (s : State) (shares : List Nat) : State :=
  ((shares.map fun k => (k / 65536 / 64, k % 65536)).eraseDups).foldl (fun s k =>
    let n := s.shfInst k.1
    (s.satAdd shfWitSkipSkips n 1).setBit shfWitStatSkipSeen n) s

/-- What every run of a pass counts up to its drain (Table 6.4). -/
def State.countRun (s : State) (p : Pass) (i : PassIn) (a : PassAcc) : State :=
  let s := (s.shfAdds shfInfZeroInfZero a.infZero).shfAdds shfIntSatIntSat a.intSat
  (s.feedStall p.word).countSkips (i.skipped a)

/-- A discarded pass (R160, R161). Runs that the module stops before their drain lie between two failed runs
without breaking the row of R163. Log 118. -/
def State.discard (s : State) (f : Firing) (p : Pass) (failing : List FailTile) : State :=
  let s := (opShelves p.word).foldl (fun s n => s.satAdd shfAbandonDiscarded (s.shfInst n) 1) s
  let s := s.forgets 1 (outExtents ((f.snap.map (·.ladder)).getD []) p.word)
  let s := failing.foldl (fun s t => s.chargeTile (opOpIndex p.word) t) s
  let s := s.haltPasses fun q =>
    q.fseq == p.fseq && q.observer == p.observer && decide (p.index < q.index) && tilesMeet q.word p.word
  let s := { s with passes := s.passes.map fun q =>
    if q.id = p.id then { q with stopped := true, failedRuns := q.failedRuns + 1 } else q }
  if p.failedRuns + 1 < 3 then s
  else failing.foldl (fun s t => s.hardFault t.1 t.2.1 130 (some (8 * t.2.2.1 + t.2.2.2))) s

/-- A drain whose shares all passed: saggar adds, conversion, seal. -/
def State.seal (s : State) (p : Pass) (i : PassIn) (a : PassAcc) : State :=
  let d := i.drain a
  let s := s.writesSpace 1 d.writes
  let s := (opShelves p.word).foldl (fun s n => s.wrapAdd shfPassCntPasses (s.shfInst n) 1) s
  let s := s.updFiring p.fseq fun f =>
    { (f.setItem p.observer p.index .done) with
      arith := f.arith.reports (a.occs ++ d.occs), gauges := mergeGauges f.gauges d.gauges }
  { s with passes := s.passes.filter (fun q => q.id != p.id), fresh := s.fresh + 1 }

/-- The pass drains next: no earlier pass of its queue on the gang is still to drain. -/
def State.drainsNext (s : State) (p : Pass) : Bool :=
  !p.stopped && s.passes.all fun q =>
    !(q.fseq == p.fseq && q.observer == p.observer && decide (q.index < p.index) && tilesMeet q.word p.word)

/-- What the cells hold after a run: the last chunk and index where the chunks were added, in OS the accumulators
at the drain; then the next pass's stationary elements become the active ones (R84, R96). -/
def State.drained (s : State) (p : Pass) (a : PassAcc) : State :=
  let w := p.word
  let s := s.updCells w fun r c x =>
    let x := match a.lasts.find? fun q => q.1 == 2048 * r + c with
      | some q => { x with chunk := q.2.1, index := q.2.2 }
      | none => x
    if opOs w then { x with draining := tget x.draining a.accs (2048 * r + c) } else x
  match s.passes.find? fun q => !q.stopped && q.fseq == p.fseq && q.observer == p.observer && decide (p.index < q.index) &&
      q.met.isEmpty && tilesMeet q.word w with
  | some q => if opOs w || !p.met.isEmpty then s else s.updCells q.word fun _ _ x => { x with active := x.shadow }
  | none => s

/-- DRAIN (R98, R119, R156-R161): the witness verdict on what the arrays computed, then the seal or the discard.
`errs` says where a computed value is wrong. -/
def execDrain (passId : Nat) (errs : List PassErr) (s : State) : Out :=
  .next <|
    match s.passes.find? fun p => p.id == passId with
    | none => s
    | some p =>
      match s.firing? p.fseq with
      | none => s
      | some f =>
        if !s.drainsNext p then s
        else
          let i := s.passIn f p errs
          let a := i.run
          let s := (s.countRun p i a).drained p a
          let bad := i.failing a
          if bad.isEmpty then s.seal p i a else s.discard f p (bad.map failTile)

/-- A pass in flight uses the shelf. -/
def State.shelfBusy (s : State) (n : Nat) : Bool := s.passes.any fun p => !p.stopped && has (opShelves p.word) n

/-- DRAIN_TIMEOUT (R163): F-131, a drain on the shelf has not completed within 2,048 cycles. -/
def execDrainTimeout (kiln shelf : Nat) (s : State) : Out :=
  onUnit (kiln < 8 && shelf < 160) <| .next <|
    if s.powered && !s.shelfOut kiln shelf && s.shelfBusy (160 * kiln + shelf) then s.hardFault kiln shelf 131 none else s

/-- SHELF_FAULT (R163): F-132, a fault of the shelf's sequencer, vector unit or slice beyond its spares. -/
def execShelfFault (kiln shelf : Nat) (s : State) : Out :=
  onUnit (kiln < 8 && shelf < 160) <| .next <|
    if s.powered && !s.shelfOut kiln shelf then s.hardFault kiln shelf 132 none else s

end Sys2Proof.Machine
end

