-- ==== Sys2Proof/Machine/Front.lean ====
section
/-! DEFINITION. Machine/Front.lean: submission queues and acceptance (R236-R239, R247, R263, R265),
what holds a launch (R215, R249, R250, R259, R334), the snapshot and the start of an attempt (R147,
R245, R258), and FIRING_FAULT. -/

namespace Sys2Proof.Machine

/-! ### Submission slots (R247) -/

def slotKey (q n : Nat) : Nat := 64 * q + n

def State.subSlot (s : State) (q n : Nat) : Nat := tget 0 s.fe.slots (slotKey q n)

def State.setSlot (s : State) (q n w : Nat) : State :=
  { s with fe := { s.fe with slots := tset 0 s.fe.slots (slotKey q n) w } }

/-- The code of a STATUS (Table 9.9). -/
def statusCode (st : Nat) : Code :=
  if st = 1 then .s 250 else if st = 2 then .s 251 else if st = 3 then .s 252 else if st = 4 then .s 253
  else if st = 5 then .s 254 else .s 0

/-- STATUS is written and byte 63 cleared in one write; a firing.launch that wrote the slot is answered. -/
def State.slotReturn (s : State) (q n st : Nat) : State :=
  let s := s.setSlot q n (s.subSlot q n % 2 ^ 496 + 2 ^ 496 * st)
  match s.fe.asked.find? fun a => a.1 == q && a.2.1 == n with
  | none => s
  | some a =>
    let s := { s with fe := { s.fe with asked := s.fe.asked.filter fun b => !(b.1 == q && b.2.1 == n) } }
    s.reply a.2.2 (statusCode st) false [st]

/-- A doorbell: the slot at the queue's HEAD is read again. -/
def State.wakeQueue (s : State) (q : Nat) : State := { s with fe := { s.fe with woken := addNew s.fe.woken q } }

/-- SQ_DOORBELL: none is taken in a power-fail sequence (Table 1.3). -/
def execSqDoorbell (queue : Nat) (s : State) : Out :=
  onUnit (queue < 64) <| .next <| if s.powered && s.power.seq.isNone then s.wakeQueue queue else s

/-! ### Room in the log (R263) -/

/-- The LSEQ of the latest CURSOR or POWER_MARK. -/
def State.copyPoint (s : State) : Nat :=
  match (s.fe.log.filter fun r => r.kind == 4 || r.kind == 5).getLast? with
  | some r => r.lseq
  | none => 0

/-- The record at a position is still needed. An end record that the ring has passed was free, and with it whatever its
firing left in the log. -/
def State.recNeeded (s : State) (r : LogRec) : Bool :=
  if r.kind = 4 ∨ r.kind = 5 then
    (s.fe.log.filter fun x => x.kind == 4 || x.kind == 5).getLast? == some r
  else
    match s.fe.log.find? fun e => e.isEnd && e.fseq == r.fseq with
    | none => r.kind == 1
    | some e =>
      let acc := s.fe.log.find? fun a => a.kind == 1 && a.fseq == r.fseq
      let wants := match acc with
        | some a => a.cplKind != 0 && (e.kind == 2 || a.cplAbandon)
        | none => false
      let settled := match s.fe.log.find? fun d => d.kind == 6 && d.fseq == r.fseq with
        | some d => match acc with
          | some a => a.cplKind != 1 || a.cplMod == s.self || d.acked
          | none => true
        | none => false
      decide (s.copyPoint ≤ e.lseq) || (wants && !settled)

def State.posFree (s : State) (p : Nat) : Bool :=
  !(s.fe.writing.any fun r => r.pos == p) &&
    match s.fe.log.find? fun r => r.pos == p with
    | some r => !s.recNeeded r
    | none => true

/-- Room for one ACCEPT, an end and an ACTION_DONE record of every firing, two CURSORs and a mark. -/
def State.logRoom (s : State) : Bool :=
  (List.range (1 + 2 * (s.fe.firings.length + 1) + 3)).all fun i => s.posFree ((s.fe.nextPos + i) % logSize)

/-! ### Acceptance (R236, R237, Table 9.9) -/

/-- The STATUS that the checks of Table 9.9 give a slot, in their order. -/
def State.slotStatus (s : State) (q w : Nat) : Nat :=
  let g := s.graph? (subGraph w)
  let bound := s.on feSqCfgPtask q
  let mine := bound && s.rd feSqCfgPtaskGraph q == subGraph w
  let persistent := (g.map fun g => imgPersistent g.header == 1).getD false
  let n := subInlineLen w
  let room := match g with
    | some g => decide (subInlineOff w + n ≤ imgPblockBytes g.header)
    | none => true
  if !s.on feSqCfgEnable q || (bound && !mine) || (persistent && !mine) then 5
  else if subCplKind w == 3 || decide (16 < n) || (n != 0 && (decide (subInlineOff w < 32) || !room)) ||
      (subCplKind w == 1 && subCplMod w == s.self && !s.sigFabric (subCplSig w)) then 4
  else if g.isNone then 1
  else if 65536 ≤ s.ledgerUsed then 2
  else if !s.logRoom then 3
  else 0

def State.freeFslot (s : State) : Option Nat :=
  (List.range 4096).find? fun n => !s.fe.firings.any fun f => f.fslot == n

/-- The next FSEQ may be assigned once its block is reserved (R236). -/
def State.reserveFseq (s : State) : State :=
  if s.rd feFseqEndEnd 0 ≤ s.rd feFseqNext 0 then s.persist 0 (s.rd feFseqEndEnd 0 + 2 ^ 20) else s

def newFiring (q n w fseq fslot now : Nat) : Firing :=
  { fseq := fseq, fslot := fslot, graph := subGraph w, queue := q, slot := n, word := w, st := .accepted, logged := false
    tickAccept := now, tickEnd := 0, attempts := 0, code := 0, snap := none, claimHeld := false
    granted := [], joinSent := 0, work := [], arith := .empty, gauges := [], issued := [], retire := [], copyWait := false, merged := []
    counts := [], lines := [], notBefore := none, heldFor := none, ctx := none }

/-- An accepted slot becomes a firing whose ACCEPT record is being written. -/
def State.accept (s : State) (q n w fslot : Nat) : State :=
  let f := newFiring q n w (s.rd feFseqNext 0) fslot s.now
  let s := s.wrapAdd feFseqNext 0 1
  let s := { s with fe := { s.fe with firings := s.fe.firings ++ [f] } }
  s.logBegin { s.logRec 1 f 0 0 0 with
    account := subAccount w, ctag := subCtag w, cplKind := subCplKind w, cplAbandon := subCplAbandon w == 1
    cplSig := subCplSig w, cplMod := subCplMod w, cplVal := subCplVal w, cplAddr := subCplAddr w }

/-- ACCEPT_RECORD_LOGGED (R237). -/
def execAcceptRecordLogged (fseq : Nat) (s : State) : Out :=
  .next <|
    if s.powered && s.fe.writing.any (fun r => r.kind == 1 && r.fseq == fseq) then
      let s := s.logLand 1 fseq
      match s.firing? fseq with
      | none => s
      | some f => (s.updFiring fseq fun f => { f with logged := true }).slotReturn f.queue f.slot 0
    else s

/-- firing.launch (R247): the slot goes to the first free place from the queue's HEAD, and the reply
waits for its STATUS; with no free place nothing is taken yet. -/
def execFiringLaunchCmd (o : Origin) (queue slot : Nat) (s : State) : Out :=
  onUnit (queue < 64) <| .next <| s.command o 0x0110 fun s =>
    let h := s.rd feSqCfgHead queue
    match ((List.range 64).map fun i => (h + i) % 64).find? fun n => subOwn (s.subSlot queue n) == 0 with
    | none => s
    | some n =>
      let s := (s.setSlot queue n (slot % 2 ^ 511 + 2 ^ 511)).wakeQueue queue
      let b := s.box o
      let s := s.setBox o { b with st := 1 }
      { s with fe := { s.fe with asked := s.fe.asked ++ [(queue, n, o)] } }

/-! ### Claims (R249, R250) -/

/-- Shelves, engines, commons, constant stores and ports of a claim. -/
def clmParts (w : Nat) : Nat := w % 2 ^ 1424 + 2 ^ 1424 * clmPorts w

def claimsMeet (a b : Nat) : Bool := clmParts a &&& clmParts b != 0

/-- Every operation of a firing has completed and what it sent is acknowledged (R260 step 1). -/
def State.opsOver (s : State) (f : Firing) : Bool :=
  f.running && f.allDone && !(s.passes.any fun p => p.fseq == f.fseq) &&
    (s.heldPkts fun h => h.fseq == some f.fseq && h.engine.isSome).isEmpty

/-- Claims are released at R260 step 1. -/
def State.releaseDone (s : State) : State :=
  (s.fe.firings.filter fun f => f.claimHeld && s.opsOver f).foldl (fun s f =>
    (s.noteRelease f).updFiring f.fseq fun f => { f with claimHeld := false }) s

/-- A persistent task keeps its claim against every other graph (R253). -/
def State.taskHolds (s : State) (graph claim : Nat) : Bool :=
  (List.range 64).any fun q =>
    s.on feSqCfgPtask q && s.rd feSqCfgPtaskGraph q != graph &&
      claimsMeet claim (((s.graph? (s.rd feSqCfgPtaskGraph q)).map (·.claim)).getD 0)

/-- The claim of a firing is free, firing `but` left out of account. -/
def State.claimFree (s : State) (f : Firing) (but : Option Nat) : Bool :=
  let c := s.claimOf f
  !s.taskHolds f.graph c && s.fe.firings.all fun g =>
    g.fseq == f.fseq || some g.fseq == but || !g.claimHeld || s.opsOver g || !claimsMeet c (s.claimOf g)

/-! ### Holds of a launch (R80, R215, R249, R259, R278, R279, R353, R412, R414) -/

/-- Bytes of a batch in staging: header, signature, records. -/
def Staged.bytes (b : Staged) : Nat := 256 + 9893 + 128 * b.records.length

/-- No room for one more full batch in the 64 MiB of staging (R412). -/
def State.stagingFull (s : State) : Bool := decide (2 ^ 26 < (s.meter.staging.map Staged.bytes).sum + 2 ^ 23 + 10149)

/-- The meter holds every launch: no input, or no room in staging. -/
def State.meterHolds (s : State) : Bool := !s.meter.inputOk || s.stagingFull

/-- Launches of any kind are possible now. -/
def State.launches (s : State) : Bool :=
  s.issues && !s.svc.resting && !s.meterHolds && s.wheel.step.isNone

/-- The firing before this one of a persistent task has completed its last operation: the task goes on (R253). -/
def State.taskGoesOn (s : State) (f h : Firing) : Bool :=
  h.queue == f.queue && h.graph == f.graph && s.on feSqCfgPtask f.queue && decide (h.fseq < f.fseq) &&
    (s.opsOver h || h.st == .committing)

/-- Another firing holds one of the firing's LOCAL signals or barrier groups (R215). -/
def State.syncHeld (s : State) (f : Firing) (g : Graph) : Bool :=
  s.fe.firings.any fun h => h.fseq != f.fseq && h.launched && !s.taskGoesOn f h &&
    match s.graph? h.graph with
    | none => false
    | some k =>
      (g.signals.any fun e => sigCls e == 0 && k.declares (sigSig e) 0) ||
        g.barriers.any fun e => k.barriers.any fun d => barGroup d == barGroup e

def Graph.writtenKeys (g : Graph) (no : Nat) : List Nat := ((copied g no).filter fun c => c.2.2.2).map (·.1)

/-- What another firing in flight, or a store.write, does with a copied thing that this firing writes
(R259, R353); a firing is taken to read every copied thing that its graph declares (log 34). -/
def State.copyHeld (s : State) (f : Firing) (g : Graph) : Bool :=
  (g.writtenKeys f.graph).any fun k =>
    (s.fe.firings.any fun h => h.fseq != f.fseq && h.launched &&
      match s.graph? h.graph, h.snap with
      | some d, some sn => (copied d h.graph).any fun c =>
          c.1 == k && (c.2.2.2 || tget 0 sn.cur k != tget 0 s.fe.cur k)
      | _, _ => false) || s.pci.nvme.any fun n => n.holds == some (k, 1 - tget 0 s.fe.cur k)

/-- No firing accepted earlier that R259 has held as well waits at launch for a copied thing that this one writes too:
held firings launch in acceptance order. -/
def State.copyTurn (s : State) (f : Firing) (g : Graph) : Bool :=
  s.fe.firings.all fun h =>
    !(decide (h.fseq < f.fseq) && h.st == .accepted && h.copyWait && f.copyWait) ||
      match s.graph? h.graph with
      | none => true
      | some d => !((d.writtenKeys h.graph).any (has (g.writtenKeys f.graph)))

/-- The firings that R259 holds now are marked. -/
def State.noteHolds (s : State) : State :=
  let held := s.fe.firings.filter fun f =>
    f.st == .accepted && ((s.graph? f.graph).map (s.copyHeld f)).getD false
  held.foldl (fun s f => s.updFiring f.fseq fun f => { f with copyWait := true }) s

/-- SLOT_ACCEPT. With no FSLOT free, no slot of any queue is fetched (R237). -/
def execSlotAccept (queue : Nat) (s : State) : Out :=
  onUnit (queue < 64) <| .next <|
    if !s.issues || !has s.fe.woken queue then s
    else
      let n := s.rd feSqCfgHead queue
      let w := s.subSlot queue n
      if subOwn w = 0 then { s with fe := { s.fe with woken := s.fe.woken.filter (· != queue) } }
      else if s.freeFslot.isNone || s.fe.firings.any (fun f => f.queue == queue && f.slot == n && !f.logged) then s
      else
        let st := s.slotStatus queue w
        if st ≠ 0 then
          let s := if st = 2 then s.setBit feStatusLedgerFullSeen 0
            else if st = 3 then s.setBit feStatusLogFullSeen 0 else s
          (s.wr feSqCfgHead queue (n + 1)).slotReturn queue n st
        else
          match s.freeFslot with
          | none => s
          | some k =>
            let s := s.reserveFseq
            if s.rd feFseqEndEnd 0 ≤ s.rd feFseqNext 0 then s
            else ((s.accept queue n w k).wr feSqCfgHead queue (n + 1)).noteHolds

/-- Bytes of a byte string replaced from an offset. -/
def patchBytes (b : Bytes) (off : Nat) (d : Bytes) : Bytes := b.take off ++ d ++ b.drop (off + d.length)

/-- The epoch a graph's resident block names. -/
def blockEpoch (b : Bytes) : Nat := field b 8 4

/-- Everything but the claim allows the firing to launch, launch again, or be restored. -/
def State.ready (s : State) (f : Firing) : Bool :=
  match f.st, s.graph? f.graph with
  | .accepted, some g =>
    s.launches &&
      s.fe.firings.all (fun h => !(h.queue == f.queue && decide (h.fseq < f.fseq)) || h.launched || h.ending) &&
      (subWaitPrev f.word == 0 || s.predecessorsEnded f) &&
      decide (blockEpoch g.pblock ≤ s.rd feLadderCtlEpoch 0) &&
      !s.syncHeld f g && !s.copyHeld f g && s.copyTurn f g &&
      (imgFabric g.header == 0 || !s.on whlStatusUnsync 0)
  | .faulted, some g =>
    s.launches && (f.notBefore.all fun t => decide (t ≤ s.rd whlPosTurnNo 0)) && f.heldFor.isNone &&
      (imgFabric g.header == 0 || !s.on whlStatusUnsync 0) &&
      s.fe.firings.all fun h => !(h.queue == f.queue && decide (h.fseq < f.fseq) && h.st == .faulted &&
        claimsMeet (s.claimOf h) g.claim)
  | .switched, some _ => s.issues && !s.svc.resting
  | _, _ => false

/-- The queue that last released a claim with parts in common, if any. -/
def State.lastHolder (s : State) (claim : Nat) : Option Nat :=
  (s.fe.turns.filter fun t => claimsMeet claim t.2.claim && t.2.release != 0).foldl (fun b t =>
    match b with
    | some q => if (tget idleTurn s.fe.turns q).release < t.2.release then some t.1 else b
    | none => some t.1) none

/-- The place of a queue in the round robin after queue `last`. -/
def turnDist (last q : Nat) : Nat := (q + 63 - last) % 64

/-- The firing takes its claim next: it is free; faulted firings go first (R261); firings of other queues
that want parts of it take turns (R250). -/
def State.mayTake (s : State) (f : Firing) : Bool :=
  s.ready f && s.claimFree f none && s.fe.firings.all fun g =>
    g.fseq == f.fseq || !claimsMeet (s.claimOf f) (s.claimOf g) || !s.ready g || !s.claimFree g none ||
      (if f.st = .faulted then true
       else if g.st = .faulted then false
       else if g.queue = f.queue then true
       else match s.lastHolder (s.claimOf f) with
        | none => true
        | some q => decide (turnDist q f.queue < turnDist q g.queue))

/-! ### The snapshot and an attempt's start (R147, R215, R245, R258) -/

def State.ladderWord (s : State) (slot : Nat) : Nat := s.regWord feLadderReg slot

def State.snapshot (s : State) (f : Firing) (g : Graph) : Snap :=
  { pblock := patchBytes g.pblock (subInlineOff f.word) (natLe (subInlineLen f.word) (subInline f.word))
    ladder := (s.fe.graphs.flatMap fun h => h.2.ladderSlots).foldl (fun t n => tput t n (s.ladderWord n)) []
    epoch := s.rd feLadderCtlEpoch 0
    cur := (copied g f.graph).foldl (fun t c => tset 0 t c.1 (tget 0 s.fe.cur c.1)) [] }

/-- Replace a field of a word. -/
def setBits (w lo n v : Nat) : Nat := w - bits w lo n * 2 ^ lo + v % 2 ^ n * 2 ^ lo

/-- One bound operand: the slot's format, and its SCX off SCL (R147). -/
def bindOperand (ladder : Tab Nat) (slot lo w : Nat) : Nat :=
  let st := tget 0 ladder slot
  let w := setBits w lo 4 (ladderCode (ladFmt st))
  setBits w 384 8 (unsigned 8 (signed 8 (opScl w) - signed 8 (ladScx st)))

/-- The operands of a descriptor as its bindings make them. Every entry that names the descriptor is applied, in the
order of the table. Log 114. -/
def bindWord (bindings : List Nat) (ladder : Tab Nat) (w : Nat) : Nat :=
  if slotIsSync w then w
  else (bindings.filter fun b => bindOpIndex b == opOpIndex w).foldl (fun w b =>
    let w := if bindBindM b = 1 then bindOperand ladder (bindSlotM b) 16 w else w
    if bindBindS b = 1 then bindOperand ladder (bindSlotS b) 20 w else w) w

/-- The work lists of a first attempt, with their operands bound. -/
def boundWork (g : Graph) (sn : Snap) : List (Nat × List (Nat × ItemSt)) :=
  g.work.map fun l =>
    (l.1, l.2.map fun w => (if 1280 ≤ l.1 ∧ l.1 < 1408 then w else bindWord g.bindings sn.ladder w, .waiting))

/-- One GREEN region's written copy at launch: filled under CARRY, else undefined (R258). -/
def State.startCopy (s : State) (q : Nat) (sn : Snap) (r : Nat) : State :=
  let from_ := regBase r + tget 0 sn.cur (regId r) * copyStride (regBytes r)
  let dst := regBase r + (1 - tget 0 sn.cur (regId r)) * copyStride (regBytes r)
  if regCarry r = 1 then
    match s.readLines [(3, from_, regBytes r)] with
    | .error l => s.uncorrectable l (some q)
    | .ok s => s.store dst (s.readSpace 3 from_ (regBytes r))
  else s.forget 3 dst (regBytes r)

/-- The greenware of an attempt; the written copies of buckets' parameters take shards from other modules
and are left alone. The contents of scratch regions are undefined (R197). -/
def State.startGreen (s : State) (q no : Nat) (g : Graph) (sn : Snap) : State :=
  let s := (g.regions.filter fun r => regKind r == 2).foldl (fun s r => s.forget (regSpace r) (regBase r) (regBytes r)) s
  let s := (g.regions.filter fun r => regKind r == 1 && regWritten r == 1).foldl (fun s r => s.startCopy q sn r) s
  (g.params.filter fun p => !g.hasBucket p && g.writesParam p).foldl (fun s p =>
    s.forget 3 (parBase p + (1 - tget 0 sn.cur (parKey no (parId p))) * copyStride (parBytes p)) (parBytes p)) s

/-- Every bucket's parameter has the copy current that the exchange reads (R334). -/
def State.exchangeReady (s : State) (no : Nat) (sn : Snap) : Bool :=
  (s.bucketsOf no).all fun b => tget 0 sn.cur (parKey no b.2.param) == xhdXidx sn.pblock % 2

/-- A slot of a DMA engine's ring as the front end writes it: FSLOT and OWN (R184, R187). -/
def ringWord (fslot w : Nat) : Nat := setBits w 400 16 fslot ||| 2 ^ 511

def isKilnEngine (o : Nat) : Bool := decide (1280 ≤ o) && decide (o < 1408)

/-- The front end writes the rings of the firing's kiln engines. -/
def Firing.ringsWritten (f : Firing) : Firing :=
  { f with work := f.work.map fun l =>
      if isKilnEngine l.1 then (l.1, l.2.map fun x => (ringWord f.fslot x.1, x.2)) else l }

/-- The engines whose rings a graph gives (R183) read them (log 32). -/
def State.ringsOn (s : State) (g : Graph) : State :=
  (g.work.filter fun l => isKilnEngine l.1 && !l.2.isEmpty).foldl (fun s l => s.wr dmaRingCtlEnable (l.1 - 1280) 1) s

/-- An attempt begins on its claim. -/
def State.attempt (s : State) (f : Firing) (g : Graph) (sn : Snap) : State :=
  let late := blockEpoch sn.pblock != 0 && decide (blockEpoch sn.pblock < sn.epoch)
  let s := s.updFiring f.fseq fun f =>
    Firing.ringsWritten { f with
      st := .running, claimHeld := true, attempts := f.attempts + 1, snap := some sn
      work := if f.snap.isNone then boundWork g sn else f.work
      arith := if late then ⟨flLadderLate, [], []⟩ else .empty
      notBefore := none }
  let t := tget idleTurn s.fe.turns f.queue
  let turns := tput s.fe.turns f.queue { t with start := s.now, leaving := t.leaving.filter (· != f.fseq) }
  let s := ({ s with fe := { s.fe with turns := turns } }).ringsOn g
  (s.startSync g f.fseq).startGreen f.fseq f.graph g sn

/-- FIRING_LAUNCH (R215, R245, R249, R258, R259, R261, R334). -/
def execFiringLaunch (fseq : Nat) (s : State) : Out :=
  .next <|
    let s := s.releaseDone
    match s.firing? fseq with
    | none => s
    | some f =>
      match s.graph? f.graph with
      | none => s
      | some g =>
        if f.st == .switched || !s.mayTake f then s
        else
          match f.snap with
          | some sn => (s.attempt f g sn).noteHolds
          | none =>
            let sn := s.snapshot f g
            if s.exchangeReady f.graph sn then (s.attempt f g sn).noteHolds else s.abandon fseq 180

/-- FIRING_FAULT (R10, R261): replayed or abandoned as the code's rule says. -/
def execFiringFault (fseq : Nat) (code : Nat) (s : State) : Out :=
  .next <| if s.powered then s.fault fseq code else s

/-- firing.cancel (R257). -/
def execFiringCancel (o : Origin) (fseq : Nat) (s : State) : Out :=
  .next <| s.command o 0x0111 fun s =>
    match s.firing? fseq with
    | none => s.refuse o (.s 257)
    | some f => if f.ending then s.refuse o (.s 257) else (s.abandon fseq 161).done o []

/-! ### Time slices (R250) -/

/-- Another queue has a ready firing that wants parts of the claim. -/
def State.wanted (s : State) (f : Firing) : Bool :=
  s.fe.firings.any fun g => g.queue != f.queue && claimsMeet (s.claimOf f) (s.claimOf g) && s.ready g &&
    s.claimFree g (some f.fseq)

def State.slice (s : State) (q : Nat) : Nat := max 1 (s.rd feSqCfgSlice q)

/-- TIME_SLICE_EXPIRY (R250): the parts of every firing of the queue that another queue wants are offered. -/
def execTimeSliceExpiry (queue : Nat) (s : State) : Out :=
  onUnit (queue < 64) <| .next <|
    match s.fe.firings.find? fun f => f.queue == queue && f.running && f.claimHeld with
    | none => s
    | some _ =>
      let t := tget idleTurn s.fe.turns queue
      let s := s.advanceTo (t.start + s.slice queue)
      let go := (s.fe.firings.filter fun f => f.queue == queue && f.running && f.claimHeld && s.wanted f).map (·.fseq)
      let u := if go.isEmpty then { t with start := s.now, leaving := [] } else { t with leaving := go }
      { s with fe := { s.fe with turns := tput s.fe.turns queue u } }

end Sys2Proof.Machine
end

