-- ==== Sys2Proof/Machine/Commit.lean ====
section
/-! DEFINITION. Machine/Commit.lean: gauges and the ladder (R73-R82), the job-wide merge (R339), commit
and abandonment (R260, R261), completion actions (R248), the ledger and the host ring (R262-R267). -/

namespace Sys2Proof.Machine

/-! ### Gauges and the ladder (R73-R79, R82) -/

def State.gaugeAt (s : State) (n : Nat) : Gauge :=
  ⟨s.rd feGaugeAmax n, s.rd feGaugeSatCnt n, s.rd feGaugeNanCnt n, s.rd feGaugeZeroCnt n, s.rd feGaugeElemCnt n⟩

def State.setGauge (s : State) (n : Nat) (g : Gauge) : State :=
  ((((s.wr feGaugeAmax n g.amax).wr feGaugeSatCnt n g.sat).wr feGaugeNanCnt n g.nan).wr feGaugeZeroCnt n g.zero).wr
    feGaugeElemCnt n g.elem

/-- A firing's gauge updates join the module's table (R73). -/
def State.mergeGauges (s : State) (t : Tab Gauge) : State :=
  t.foldl (fun s p => s.setGauge p.1 ((s.gaugeAt p.1).merge p.2)) s

/-- Every entry of a register back to reset. -/
def State.resetAll (s : State) (r : Reg) : State :=
  { s with regs := s.regs.filter fun p =>
      keyReg p.1 != regNo r.block r.off }

/-- Indices of a MASK by rising width. -/
def maskUp (mask i : Nat) : Option Nat := [1, 2, 3].find? fun j => decide (i < j) && bit mask j
def maskDown (mask i : Nat) : Option Nat := [2, 1, 0].find? fun j => decide (j < i) && bit mask j
def maskWidest (mask : Nat) : Nat := ([3, 2, 1, 0].find? (bit mask)).getD 0

/-- The largest k with amax × 2^k at most maxfin(fmt) × 2^-head (R78). -/
def ladderScale (fmt head amax : Nat) : Option Int :=
  match decodeFlt 1 amax with
  | .num _ m e =>
    if m = 0 then none
    else
      let t := fltMax (ladderCode fmt)
      let k := (Nat.log2 t.1 : Int) + t.2 - head - ((Nat.log2 m : Int) + e)
      some (if cmpMag m (e + k) t.1 (t.2 - head) == .gt then k - 1 else k)
  | _ => none

/-- What an evaluation makes of a slot: the new word, and whether it met LADDER_NAN or AT_WIDEST. -/
structure LadderEv where
  word : Nat
  nan : Bool
  widest : Bool
  deriving DecidableEq, Repr

def ladderMake (fmt : Nat) (scx : Int) (hold : Nat) : Nat :=
  fmt + 2 ^ 8 * unsigned 8 scx + 2 ^ 16 * (hold % 2 ^ 8)

/-- R78. -/
def ladderEval (r st : Nat) (g : Gauge) : LadderEv :=
  let fmt := ladFmt st
  let scx := signed 8 (ladScx st)
  if g.elem = 0 then ⟨st, false, false⟩
  else if 0 < g.nan then
    let w := if ruleNanAct r = 1 then ladderMake (maskWidest (ruleMask r)) scx (ruleHold r)
      else if ruleNanAct r = 2 then ladderMake (ruleInitFmt r) (signed 8 (ruleInitScx r)) (ruleHold r)
      else ladderMake fmt scx (ruleHold r)
    ⟨w, true, false⟩
  else
    let widen := decide (ruleSatLim r * g.elem < g.sat * 2 ^ 20) || decide (ruleZeroLim r * g.elem < g.zero * 2 ^ 20)
    let hold := ladHoldLeft st
    let step := if widen then
        match maskUp (ruleMask r) fmt with
        | some i => (i, ruleHold r, false)
        | none => (fmt, hold, true)
      else if 0 < hold then (fmt, hold - 1, false)
      else match maskDown (ruleMask r) fmt with
        | some i => (i, ruleHold r, false)
        | none => (fmt, hold, false)
    let scx' := if step.1 = 0 ∨ step.1 = 3 then 0
      else match ladderScale step.1 (ruleHead r) g.amax with
        | some k => min (max k (signed 8 (ruleScxMin r))) (signed 8 (ruleScxMax r))
        | none => scx
    ⟨ladderMake step.1 scx' step.2.1, false, step.2.2⟩

/-- Slots that some resident graph carries a rule for, in order. -/
def State.slotsInUse (s : State) : List Nat :=
  sortNat ((s.fe.graphs.flatMap fun g => g.2.ladderSlots).foldl addNew [])

/-- The evaluation of every slot with a rule, the gauges cleared, EPOCH one higher (R79); `merged` holds
the job-wide gauges of JOIN slots; a JOIN slot of another graph takes the module's own gauge. Log 114. -/
def State.evaluate (s : State) (merged : Tab Gauge) : State :=
  let evs := s.slotsInUse.map fun n =>
    let r := s.regWord feRuleReg n
    (n, ladderEval r (s.ladderWord n) (if ruleJoin r = 1 then tget (s.gaugeAt n) merged n else s.gaugeAt n))
  let s := evs.foldl (fun s e => s.setRegWord feLadderReg e.1 e.2.word) s
  let s := if evs.any (·.2.nan) then s.setBit feLadderStatLadderNanSeen 0 else s
  let s := if evs.any (·.2.widest) then s.setBit feLadderStatAtWidestSeen 0 else s
  let met := (evs.filter fun e => e.2.nan || e.2.widest).map (·.1)
  let s := if met.isEmpty then s else s.wr feLadderStatLastSlot 0 (met.foldl max 0)
  (s.resetAll feGaugeReg).wrapAdd feLadderCtlEpoch 0 1

/-- A slot at its rule's initial state. -/
def State.initSlot (s : State) (n : Nat) : State :=
  let r := s.regWord feRuleReg n
  s.setRegWord feLadderReg n (ladderMake (ruleInitFmt r) (signed 8 (ruleInitScx r)) 0)

/-- ladder.reset (R82). -/
def execLadderReset (o : Origin) (s : State) : Out :=
  .next <| s.command o 0x0120 fun s =>
    if s.fe.firings.any fun f => ((s.graph? f.graph).map fun g => !g.ladderSlots.isEmpty).getD false then
      s.refuse o (.s 230)
    else
      let s := s.slotsInUse.foldl State.initSlot s
      ((s.resetAll feGaugeReg).wr feLadderCtlEpoch 0 0).done o []

/-! ### The job-wide merge (R339, Table 12.3) -/

def Gauge.word (g : Gauge) : Nat :=
  g.amax + 2 ^ 32 * g.sat + 2 ^ 64 * g.nan + 2 ^ 96 * g.zero + 2 ^ 128 * g.elem

def gaugeOf (w : Nat) : Gauge := ⟨bits w 0 32, bits w 32 32, bits w 64 32, bits w 96 32, bits w 128 48⟩

/-- The JOIN slots of a graph, in order. -/
def Graph.joinRules (g : Graph) : List Nat :=
  sortNat ((g.rules.filter fun r => ruleJoin (rulRule r) == 1).map rulSlot)

/-- Where record j of a rank of epoch e lies. -/
def joinAt (g : Graph) (srcs e rank j : Nat) : Nat := g.joinBase + (((e % 2) * srcs + rank) * g.joinSlots + j) * 64

/-- The join records of a commit that produces epoch e: the gauges are those of the module's table with
this firing's (log 35). -/
def State.joinRecords (s : State) (f : Firing) (g : Graph) (e : Nat) : List Bytes :=
  let t := s.mergeGauges f.gauges
  g.joinRules.mapIdx fun j n => natLe 64 ((t.gaugeAt n).word + 2 ^ 256 * n + 2 ^ 272 * (e % 2 ^ 32) +
    2 ^ 304 * b2n (j + 1 == g.joinRules.length))

/-- Write the join records still to go, source by source in slot order. -/
def State.sendJoins (s : State) (f : Firing) (g : Graph) (e : Nat) : State :=
  let recs := s.joinRecords f g e
  let me := s.rankOf s.self
  let all := s.jobMembers.flatMap fun m => recs.mapIdx fun j b => (m, joinAt g s.sources e me j, b)
  let r := (all.drop f.joinSent).foldl (fun (r : State × Nat × Bool) p =>
    if r.2.2 then
      if p.1 = s.self then (r.1.store p.2.1 p.2.2, r.2.1 + 1, true)
      else
        let t := r.1.sendSeq p.1 1 0 p.2.1 p.2.2 (some f.fseq) none 0 false
        if t.2 then (t.1, r.2.1 + 1, true) else (t.1, r.2.1, false)
    else r) (s, f.joinSent, true)
  r.1.updFiring f.fseq fun f => { f with joinSent := r.2.1 }

/-- The merge of the records of epoch e, once every source's last record has arrived. -/
def State.joinMerge (s : State) (g : Graph) (e : Nat) : Option (Tab Gauge) :=
  let n := g.joinRules.length
  let rec_ := fun (r j : Nat) => leNat (mreadN s.mem.stack (joinAt g s.sources e r j) 64)
  let whole := (List.range s.sources).all fun r =>
    bits (rec_ r (n - 1)) 272 32 == e % 2 ^ 32 && bit (rec_ r (n - 1)) 304
  if whole then
    some (g.joinRules.mapIdx fun j slot =>
      (slot, (List.range s.sources).foldl (fun a r => a.merge (gaugeOf (rec_ r j))) Gauge.empty))
  else none

/-- A commit of the graph waits for the merge (R81). -/
def Graph.joins (g : Graph) : Bool := imgLadderEval g.header == 1 && !g.joinRules.isEmpty

/-! ### FIRING_COMMIT (R260) -/

/-- Steps 1 and 2. -/
def State.commitReady (s : State) (f : Firing) : Bool :=
  s.issues && s.opsOver f && f.logged && s.predecessorsEnded f

/-- Step 4: the COMMIT record is being written, with the next LSEQ. -/
def State.beginCommit (s : State) (f : Firing) : State :=
  let s := (s.noteRelease f).updFiring f.fseq fun f => { f with st := .committing, claimHeld := false, tickEnd := s.now }
  let n := s.fe.nextLseq
  let acc := s.acceptRec f.fseq
  let s := s.logBegin { s.logRec 2 f n f.arith.flags f.attempts with
    account := (acc.map (·.account)).getD 0, ctag := (acc.map (·.ctag)).getD 0 }
  { s with fe := { s.fe with nextLseq := n + 1 } }

/-- FIRING_COMMIT: join records first where the graph has JOIN slots. -/
def execFiringCommit (fseq : Nat) (s : State) : Out :=
  .next <|
    match s.firing? fseq with
    | none => s
    | some f =>
      match s.graph? f.graph with
      | none => s
      | some g =>
        if !s.commitReady f then s
        else if g.joins then
          let e := s.rd feLadderCtlEpoch 0 + 1
          let s := s.sendJoins f g e
          match s.joinMerge g e with
          | some m => (s.updFiring fseq fun f => { f with merged := m }).beginCommit f
          | none => s
        else s.beginCommit f

/-! ### The end of a firing (R260 steps 5 and 6, R261) -/

/-- The meter closes the firing's account: its record is FINAL in this batch (R407). -/
def State.meterEnd (s : State) (f : Firing) (code : Nat) : State :=
  if f.attempts = 0 then s
  else
    let old := s.meter.recs.find? fun r => r.kind ≤ 2 && r.fseq == f.fseq
    let r : ERec := (old.getD ⟨1, f.fseq, subAccount f.word, subCtag f.word, f.graph, f.queue, 0, 0, 0, 0, 0, 0, 0, 0,
      s.now, s.now⟩)
    let r := { r with kind := 2, attempts := f.attempts, code := code, flags := if code = 0 then r.flags else r.flags ||| 64 }
    let recs := if old.isSome then updFirst (fun x => x.kind ≤ 2 && x.fseq == f.fseq) (fun _ => r) s.meter.recs else s.meter.recs ++ [r]
    { s with meter := { s.meter with recs := recs, ended := s.meter.ended ++ [(f.fslot, f.fseq)] } }

/-- Step 5: the flip, the gauges, the ladder (R258, R79, R334). -/
def State.flip (s : State) (f : Firing) (g : Graph) : State :=
  let cur := (g.writtenKeys f.graph).foldl (fun t k => tset 0 t k (1 - tget 0 t k)) s.fe.cur
  let s := { s with fe := { s.fe with cur := cur } }
  let s := s.mergeGauges f.gauges
  if imgLadderEval g.header = 1 then s.evaluate f.merged else s

/-- The owner clears the instance its exchange used and the marks of the copy made current (R336). -/
def State.clearExchange (s : State) (f : Firing) : State :=
  match f.snap with
  | none => s
  | some sn =>
    let i := xhdXidx sn.pblock % 2
    (s.bucketsOf f.graph).foldl (fun s b => (s.clearInst b.1 i).clearCopy b.1 (1 - i)) s

/-- A retire notice on each flow that carried FABRIC increments (R224); one that cannot go now goes at the
next turn. -/
def State.retireFlow (s : State) (q dst o : Nat) (action : Bool) : State :=
  if dst = s.self then s.retireKey s.self o q
  else
    let t := s.sendSeq dst 4 0 0 (sigPayload 0 o true q 0) (some q) none 0 action
    if t.2 then t.1
    else
      let p : Packet := ⟨4, 0, false, false, s.self, dst, 0, 0, [], s.rd fabJobTag 0, 0, 0, 0, 0, sigPayload 0 o true q 0⟩
      t.1.sendAgain dst ⟨p, some q, none, 0, action⟩

/-- Perform a completion action as far as it can be performed now (R248, R223). -/
def State.perform (s : State) (a : Action) : State :=
  let set := fun (s : State) => { s with fe := { s.fe with
    actions := s.fe.actions.map fun b => if b.fseq = a.fseq then { b with performed := true } else b } }
  if a.performed then s
  else if a.kind = 2 then
    if s.hostGrants then set (s.hostGrant.writeSpace 5 a.addr (natLe 4 a.val)) else s
  else if a.mod = s.self then
    if s.sigFabric a.sig then
      let r := s.incKeyed ⟨s.self, 1416, a.fseq, 0⟩ a.sig 1 none false
      if r.2 then set r.1 else r.1
    else set (s.post (.s 259) [a.fseq])
  else
    let t := s.sendSeq a.mod 3 0 0 (sigPayload a.sig 1416 true a.fseq 0) (some a.fseq) none 0 true
    if t.2 then set t.1 else t.1

/-- Step 6: the completion record, the release of everything held, retire notices, the action. -/
def State.finish (s : State) (f : Firing) (rec_ : LogRec) (outcome : Nat) : State :=
  let epoch := (f.snap.map (·.epoch)).getD 0
  let acc := s.acceptRec f.fseq
  let c : CplRec := ⟨outcome, false, if outcome = 1 then 0 else f.code, f.fseq, rec_.lseq, f.graph, f.queue,
    min f.attempts (2 ^ 16 - 1), subAccount f.word, subCtag f.word, f.tickAccept, rec_.tick, epoch,
    if outcome = 1 then f.arith else .empty⟩
  let s := { s with fe := { s.fe with
    ledger := s.fe.ledger ++ [c], firings := s.fe.firings.filter fun h => h.fseq != f.fseq } }
  let s := s.freeBars f.fseq
  let s := f.retire.foldl (fun s p => s.retireFlow f.fseq p.1 p.2 false) s
  match acc with
  | some a =>
    if a.cplKind ≠ 0 ∧ (outcome = 1 ∨ a.cplAbandon) then
      let act : Action := ⟨f.fseq, a.cplKind, a.cplSig, a.cplMod, a.cplVal, a.cplAddr, false⟩
      let s := { s with fe := { s.fe with actions := s.fe.actions ++ [act] } }
      s.perform act
    else s
  | none => s

/-- An ABANDON record is written whole, and the firing ends without a flip (R261). -/
def State.endAbandoned (s : State) (f : Firing) : State :=
  let n := s.fe.nextLseq
  let r := { s.logRec 3 f n f.code f.attempts with account := subAccount f.word, ctag := subCtag f.word }
  let s := s.logNow r
  let s := { s with fe := { s.fe with nextLseq := n + 1 } }
  ((s.meterEnd f f.code).finish f r 2)

/-- COMMIT_RECORD_LOGGED (R260, R261): a commit's record lands, or an abandoned firing's is written; either
waits for the ACCEPT record and the queue's earlier firings (R238, R239). -/
def execCommitRecordLogged (fseq : Nat) (s : State) : Out :=
  .next <|
    match s.firing? fseq with
    | none => s
    | some f =>
      if !s.powered then s
      else if f.st = .committing then
        match s.fe.writing.find? (fun r => r.kind == 2 && r.fseq == fseq), s.graph? f.graph with
        | some r, some g =>
          let s := (s.logLand 2 fseq).flip f g
          ((s.meterEnd f 0).clearExchange f).finish f r 1
        | _, _ => s
      else if f.st = .abandoning then
        if f.logged && s.predecessorsEnded f then s.endAbandoned f else s
      else s

/-! ### Completion actions (R248) -/

/-- The increment of a remote action is acknowledged or counted as performed. -/
def State.actionAcked (s : State) (q : Nat) : Bool :=
  (s.heldPkts fun h => h.action && h.p.typ == 3 && h.fseq == some q).isEmpty &&
    !(s.fab.again.any fun h => h.2.action && h.2.p.typ == 3 && h.2.fseq == some q)

/-- ACTION_DONE: the action is performed where it still waits; then the record, then the retire notice. -/
def execActionDone (fseq : Nat) (s : State) : Out :=
  .next <|
    if !s.inService then s
    else
      match s.fe.actions.find? fun a => a.fseq == fseq with
      | none => s
      | some a =>
        let s := s.perform a
        match s.fe.actions.find? (fun a => a.fseq == fseq), s.acceptRec fseq with
        | some a, some acc =>
          if a.performed && s.actionAcked fseq then
            let r : LogRec := { acc with kind := 6, lseq := 0, result := 0, attempts := 0, tick := s.now, cplKind := 0
                                         cplAbandon := false, cplSig := 0, cplMod := 0, cplVal := 0, cplAddr := 0, acked := false }
            let s := s.logNow r
            let s := { s with fe := { s.fe with actions := s.fe.actions.filter fun b => b.fseq != fseq } }
            if a.kind = 1 then s.retireFlow fseq a.mod 1416 true else s
          else s
        | _, _ => s

/-! ### The ledger and the host ring (R262-R267) -/

/-- A CURSOR record is written. -/
def State.cursor (s : State) : State :=
  let s := s.logNow (s.markRec 5)
  { s with fe := { s.fe with sinceCursor := 0 } }

/-- CURSOR_RECORD (R262): at least once a second while the ring takes records. -/
def execCursorRecord (s : State) : Out :=
  .next <| if s.inService ∧ 0 < s.fe.sinceCursor then s.cursor else s

/-- The fields of a log record (Table 9.10), without its CRC. -/
def LogRec.fields (r : LogRec) : Nat :=
  r.kind + 2 ^ 16 * r.fslot + 2 ^ 32 * r.fseq + 2 ^ 96 * r.graph + 2 ^ 106 * r.queue + 2 ^ 128 * r.lseq + 2 ^ 192 * r.account +
  2 ^ 256 * r.result + 2 ^ 288 * r.attempts + 2 ^ 320 * r.tick + 2 ^ 384 * r.ctag + 2 ^ 448 * r.cplKind +
  2 ^ 450 * b2n r.cplAbandon + 2 ^ 451 * r.cplSig + 2 ^ 464 * r.cplMod + 2 ^ 480 * r.cplVal + 2 ^ 512 * r.cplAddr

/-- The 128 bytes of a log record: its fields, then the CRC-32C of bytes 0-123. -/
def LogRec.bytes (r : LogRec) : Bytes :=
  let b := natLe 124 r.fields
  b ++ natLe 4 (crc32c b)

/-- The 256 bytes of a completion record (Table 9.11). -/
def CplRec.word (c : CplRec) : Nat :=
  c.outcome + 2 ^ 8 * b2n c.rebuilt + 2 ^ 16 * c.code + 2 ^ 32 * c.fseq + 2 ^ 96 * c.lseq + 2 ^ 160 * c.graph +
  2 ^ 170 * c.queue + 2 ^ 176 * c.attempts + 2 ^ 192 * c.account + 2 ^ 256 * c.ctag + 2 ^ 320 * c.tickAccept +
  2 ^ 384 * c.tickEnd + 2 ^ 448 * c.epoch + 2 ^ 512 * c.arith.word

/-- Records in the ring: LOG2_SIZE within 4 to 16. -/
def State.ringSize (s : State) : Nat := 2 ^ clampLog2 (s.rd feHringCtlLog2Size 0)

/-- The record of the ledger with the lowest LSEQ, unless one with a lower LSEQ is still being written. -/
def State.nextRecord (s : State) : Option CplRec :=
  let low := ((s.fe.ledger.map (·.lseq)).min?).getD 0
  if (s.fe.writing.filter LogRec.isEnd).any fun r => decide (r.lseq < low) then none
  else s.fe.ledger.find? fun c => c.lseq == low

/-- Rebuilt records are written as ledger room allows (R268). -/
def State.fillLedger (s : State) : State :=
  let n := 65536 - (s.fe.firings.length + s.fe.ledger.length)
  { s with fe := { s.fe with ledger := s.fe.ledger ++ s.fe.rebuilt.take n, rebuilt := s.fe.rebuilt.drop n } }

/-- HOST_RING_COPY (R266 step 1). -/
def execHostRingCopy (s : State) : Out :=
  .next <|
    if s.issues && s.on feHringCtlEnable 0 && !s.on feHringCtlDetached 0 && s.hostGrants && s.fe.copying.isNone &&
        decide ((s.rd feHringPtrHead 0 + 2 ^ 32 - s.rd feHringPtrTail 0) % 2 ^ 32 < s.ringSize) then
      match s.nextRecord with
      | none => s
      | some c =>
        let a := 256 * s.rd feHringBaseAddr 0 + 256 * (s.rd feHringPtrHead 0 % s.ringSize)
        let s := s.hostGrant.writeSpace 5 a (natLe 256 c.word)
        { s with fe := { s.fe with copying := some c } }
    else s

/-- HOST_RING_READBACK (R266 steps 2 and 3, R267). In the power-fail sequence the ring takes no record, so none at or
above its POWER_MARK (R269). Every 4,096th record taken brings a CURSOR record (R262). -/
def execHostRingReadback (error : Bool) (s : State) : Out :=
  .next <|
    match s.fe.copying with
    | none => s
    | some c =>
      if !s.powered || s.power.seq.isSome then s
      else
        let s := { s with fe := { s.fe with copying := none } }
        if error then (s.wr feHringCtlDetached 0 1).post (.s 258) []
        else
          let s := (s.wrapAdd feHringPtrHead 0 1).raiseRated 9
          let fe := { s.fe with
            ledger := s.fe.ledger.filter fun d => d.lseq != c.lseq, sinceCursor := s.fe.sinceCursor + 1 }
          let s : State := ({ s with fe := fe } : State).fillLedger
          if 4096 ≤ s.fe.sinceCursor then s.cursor else s

/-- ring.attach (R267). -/
def execRingAttach (o : Origin) (s : State) : Out :=
  .next <| s.command o 0x0115 fun s =>
    let s := ((s.wr feHringPtrHead 0 0).wr feHringPtrTail 0 0).wr feHringCtlDetached 0 0
    let s := { s with fe := { s.fe with copying := none } }
    s.done o []

end Sys2Proof.Machine
end

