-- ==== Sys2Proof/Machine/Switch.lean ====
section
/-! DEFINITION. Machine/Switch.lean: context switches and restores (R232-R235, R250, R251). -/

namespace Sys2Proof.Machine

/-! ### Parts of a memory -/

/-- The cells and undefined extents of a memory inside a run of addresses. -/
def mpart (m : Memory) (start len : Nat) : Memory :=
  { cells := m.cells.filter fun p => (Extent.mk start len 0).covers p.1
    undef := m.undef.flatMap fun e =>
      let lo := max e.start start
      let hi := min (e.start + e.len) (start + len)
      if lo < hi then [⟨lo, hi - lo, e.stamp⟩] else [] }

/-- Put a saved part back in place of what the run holds now. -/
def mrestore (m : Memory) (start len : Nat) (part : Memory) : Memory :=
  let c := mclear m start len
  part.cells.foldl (fun m p => mwrite m p.1 p.2) { c with undef := part.undef ++ c.undef }

/-- The runs of scratchpad, tile registers and constant store that a claim takes (R251). -/
def claimRuns (claim : Nat) : List (Nat × Nat × Nat) :=
  ((List.range 1280).filter (bit (clmShelves claim))).flatMap (fun n =>
    [(1, 2 ^ 33 * (n / 160) + 2 ^ 25 * (n % 160), sliceBytes), (0, tileAddr (n / 160) (n % 160) 0 0 0, 64 * 4096)]) ++
  ((List.range 8).filter (bit (clmCommons claim))).map (fun k => (1, 2 ^ 33 * k + 2 ^ 24, 2 ^ 24)) ++
  ((List.range 8).filter (bit (clmConst claim))).map fun k => (2, 2 ^ 23 * k, 2 ^ 23)

/-- The part of a space that a claim takes, run by run. -/
def State.saveSpace (s : State) (claim sp : Nat) : Memory :=
  ((claimRuns claim).filter fun r => r.1 == sp).foldl (fun m r =>
    let p := mpart (s.spaceMem sp) r.2.1 r.2.2
    ⟨p.cells.foldl (fun t c => tput t c.1 c.2) m.cells, m.undef ++ p.undef⟩) .empty

def State.restoreSpace (s : State) (claim sp : Nat) (saved : Memory) : State :=
  ((claimRuns claim).filter fun r => r.1 == sp).foldl (fun s r =>
    s.setSpaceMem sp (mrestore (s.spaceMem sp) r.2.1 r.2.2 (mpart saved r.2.1 r.2.2))) s

/-! ### CONTEXT_SWITCH -/

/-- The firing's engines hold nothing but descriptors that wait without a bound and what stands behind
them (R232, R233). -/
def State.enginesQuiet (s : State) (q : Nat) : Bool :=
  s.engines.all fun p =>
    match p.2.held.filter fun h => h.fseq == some q with
    | [] => true
    | h :: _ => h.waiting || h.readHeld

/-- The context area of the firing's graph is free. -/
def State.areaFree (s : State) (f : Firing) : Bool :=
  !(s.fe.firings.any fun g => g.graph == f.graph && g.st == .switched)

/-- The firing is at a pass boundary of every operation and can be switched out. -/
def State.canSwitch (s : State) (f : Firing) : Bool :=
  f.running && f.claimHeld && !(s.passes.any fun p => p.fseq == f.fseq && !p.stopped) && s.enginesQuiet f.fseq &&
    s.areaFree f

/-- Arrivals at the generations in progress of a firing's groups: DMA engines arrive anew by themselves (R234). -/
def State.savedArrivals (s : State) (q : Nat) : List (Nat × List Nat) :=
  (s.flue.bars.filter fun p => p.2.fseq == q && !p.2.arrived.isEmpty).map fun p =>
    (p.1, p.2.arrived.filter fun o => !(decide (1280 ≤ o) && decide (o < 1416)))

/-- The firing leaves its claim: signals, waits, barriers, withdrawn descriptors and memory are saved. -/
def State.switchOut (s : State) (f : Firing) : State :=
  let s := s.closeCycle
  let g := s.graph? f.graph
  let claim := s.claimOf f
  let mine := fun (h : HeldDesc) => h.fseq == some f.fseq
  let again := fun (h : HeldDesc) => { h with started := false, waiting := false, met := false, readHeld := false, sent := 0, offs := [], src := [] }
  let ctx : Context :=
    { locals := (((g.map (·.signals)).getD []).filter fun e => sigCls e == 0).foldl
        (fun t e => tput t (sigSig e) (s.sigVal (sigSig e))) []
      waits := s.flue.waits.filter fun w => w.fseq == some f.fseq && !isEngineObs w.observer
      withdrawn := (s.engines.map fun p => (p.1, (p.2.held.filter mine).map again)).filter fun p => !p.2.isEmpty
      arrivals := s.savedArrivals f.fseq
      scratch := s.saveSpace claim 1, tile := s.saveSpace claim 0, const := s.saveSpace claim 2 }
  let s := s.dropDescs mine
  let bars := s.flue.bars.map fun p => if p.2.fseq = f.fseq then (p.1, { p.2 with arrived := [] }) else p
  let s := { s with flue := { s.flue with waits := s.flue.waits.filter (fun w => w.fseq != some f.fseq), bars := bars } }
  let s := s.forget 3 (clmCtxBase claim) (clmCtxBytes claim)
  (s.noteRelease f).updFiring f.fseq fun f => { f with st := .switched, claimHeld := false, ctx := some ctx }

/-- CONTEXT_SWITCH (R250, R251): the firing's slice has ended in favour of another queue, or a rest point
waits for it. -/
def execContextSwitch (fseq : Nat) (s : State) : Out :=
  .next <|
    match s.firing? fseq with
    | none => s
    | some f =>
      let leaving := has (tget idleTurn s.fe.turns f.queue).leaving f.fseq
      if s.issues && (leaving || s.svc.resting) && s.canSwitch f then s.switchOut f else s

/-! ### CONTEXT_RESTORE -/

/-- Participants arrive again at a generation in progress, which has restarted (R234). -/
def State.arriveAgain (s : State) (p : Nat × List Nat) : State :=
  let s := s.satAdd fluBarRestartRestarts 0 1
  match s.bar? p.1 with
  | none => s
  | some b => State.settle p.1 (s.setBar p.1 (p.2.foldl Barrier.arrive b))

def State.switchIn (s : State) (f : Firing) (c : Context) : State :=
  let claim := s.claimOf f
  let s := ((s.restoreSpace claim 1 c.scratch).restoreSpace claim 0 c.tile).restoreSpace claim 2 c.const
  let s := c.locals.foldl (fun s p => s.wr fluSigValueValue p.1 p.2) s
  let s := c.withdrawn.foldl (fun s p =>
    let x := s.engine p.1
    s.setEngine p.1 { x with held := p.2 ++ x.held }) s
  let s := s.updFiring f.fseq fun f => { f with st := .running, claimHeld := true, ctx := none }
  let t := tget idleTurn s.fe.turns f.queue
  let turns := tput s.fe.turns f.queue { t with start := s.now, leaving := t.leaving.filter (· != f.fseq) }
  let s := { s with fe := { s.fe with turns := turns } }
  let s := c.waits.foldl State.register s
  c.arrivals.foldl State.arriveAgain s

/-- CONTEXT_RESTORE (R232-R235). -/
def execContextRestore (fseq : Nat) (s : State) : Out :=
  .next <|
    let s := s.releaseDone
    match s.firing? fseq with
    | none => s
    | some f =>
      match f.ctx with
      | some c => if f.st == .switched && s.mayTake f then s.switchIn f c else s
      | none => s

end Sys2Proof.Machine
end

