-- ==== Sys2Proof/Machine/Image.lean ====
section
/-! DEFINITION. Machine/Image.lean: a graph image read into its sections (R240) and every load-time check
(Table 9.6 and the load refusals of the other chapters). -/

namespace Sys2Proof.Machine

/-! ### Reading an image (Tables 9.2, 9.3) -/

/-- Entry sizes of the sections. -/
def secSizes : List Nat := [16, 32, 32, 8, 256, 32, 8, 512, 16, 1, 32]

def secOff (b : Bytes) (n : Nat) : Nat := field b (64 + 8 * n) 4
def secCount (b : Bytes) (n : Nat) : Nat := field b (68 + 8 * n) 4

/-- The entries of section n, as numbers. -/
def secEntries (b : Bytes) (n : Nat) : List Nat :=
  let z := secSizes[n]?.getD 1
  (List.range (secCount b n)).map fun i => field b (secOff b n + z * i) z

/-- The slots of a work list. -/
def workSlots (b : Bytes) (e : Nat) : List Nat := (List.range (wrkCount e)).map fun i => field b (wrkOffset e + 64 * i) 64

/-- An image of which L-001 holds, section by section; the bucket table and the join area come from its
initial parameter block (R324). -/
def readImage (b : Bytes) (base : Nat) : Graph :=
  let pb := (b.drop (secOff b 9)).take (secCount b 9)
  { header := field b 0 256
    base := base
    work := (secEntries b 0).map fun e => (wrkObserver e, workSlots b e)
    regions := secEntries b 1, params := secEntries b 2, signals := secEntries b 3, barriers := secEntries b 4
    rules := secEntries b 5, bindings := secEntries b 6, claim := (secEntries b 7).headD 0
    slots := secEntries b 8, layouts := secEntries b 10
    pblock := pb
    buckets := (List.range (xhdBuckets pb)).map fun i => field pb (xhdBucketOff pb + 32 * i) 32
    joinBase := xhdJoinBase pb
    joinSlots := xhdJoinSlots pb }

def noRepeats (l : List Nat) : Bool := decide (l.eraseDups.length = l.length)

/-- L-001. -/
def imageBroken (b : Bytes) : Bool :=
  let n := field b 8 4
  decide (b.length < 256) || decide (n < 256) || decide (b.length < n) || field b 0 4 != 0x384B5452 || field b 4 2 != 1 ||
    crc64 (b.take 24 ++ List.replicate 8 0 ++ (b.drop 32).take (n - 32)) != field b 24 8 ||
    (List.range 11).any (fun i => decide (n < secOff b i + secSizes[i]?.getD 1 * secCount b i)) ||
    secCount b 7 != 1 || secCount b 9 != field b 16 4 ||
    (secEntries b 0).any (fun e => decide (n < wrkOffset e + 64 * wrkCount e)) ||
    !noRepeats ((secEntries b 0).map wrkObserver) ||
    (secEntries b 1).any fun r => !has [1, 2, 3, 5] (regSpace r)

/-! ### What a graph's descriptors are -/


/-- Operation descriptors: observer and word. -/
def Graph.ops (g : Graph) : List (Nat × Nat) :=
  (g.work.filter fun l => !isKilnEngine l.1).flatMap fun l => (l.2.filter fun w => !slotIsSync w).map fun w => (l.1, w)

/-- Sync operations. -/
def Graph.syncs (g : Graph) : List (Nat × Nat) :=
  (g.work.filter fun l => !isKilnEngine l.1).flatMap fun l => (l.2.filter slotIsSync).map fun w => (l.1, w)

/-- DMA descriptors. -/
def Graph.dmas (g : Graph) : List (Nat × Nat) :=
  (g.work.filter fun l => isKilnEngine l.1).flatMap fun l => l.2.map fun w => (l.1, w)

def Graph.ctx (g : Graph) : DmaCtx := ⟨g.regions, g.params, g.rules, true⟩

def Graph.ruleOf (g : Graph) (slot : Nat) : Option Nat := (g.rules.find? fun r => rulSlot r == slot).map rulRule

/-- Format codes of a MASK. -/
def maskCodes (r : Nat) : List Nat := ((List.range 4).filter (bit (ruleMask r))).map ladderCode

/-- The formats that an operand may have: its own, or every format of the slots it is bound to. -/
def Graph.boundFmts (g : Graph) (fmt : Nat) (slots : List Nat) : List Nat :=
  if slots.isEmpty then [fmt]
  else (slots.flatMap fun x => ((g.ruleOf x).map maskCodes).getD [fmt]).eraseDups

def Graph.fmtsM (g : Graph) (w : Nat) : List Nat :=
  g.boundFmts (opFmtM w) ((g.bindings.filter fun b => bindOpIndex b == opOpIndex w && bindBindM b == 1).map bindSlotM)

def Graph.fmtsS (g : Graph) (w : Nat) : List Nat :=
  g.boundFmts (opFmtS w) ((g.bindings.filter fun b => bindOpIndex b == opOpIndex w && bindBindS b == 1).map bindSlotS)

/-- The output area by the widest format it may take (R77). -/
def Graph.outWidest (g : Graph) (w : Nat) : List (Nat × Nat) :=
  let codes := if opMac w && opFinal? w then cvtTargets g.rules (opCvt w) else [outFmt [] w]
  codes.flatMap fun c =>
    (outParts w).map fun p => (shelfView p.shelf (opOAddr w), tensorBytes c (opOLd w) p.rows p.cols)

/-- Every extent that a pass reads, over the formats of its operands. -/
def Graph.readsWidest (g : Graph) (w : Nat) : List (Nat × Nat) :=
  (g.fmtsM w).flatMap fun m => (g.fmtsS w).flatMap fun t => passReads m t w

/-- A pass whose reserved fields leave its extents without a meaning: L-020, L-030 and L-032 speak of it. -/
def opDefined (w : Nat) : Bool :=
  has [1, 2, 3] (opOpcode w) && opMode w != 3 && decide (opGang w ≤ 5) && decide (opFmtM w ≤ 9) && decide (opFmtS w ≤ 9) &&
    !(opFinal? w && decide (9 < cvtTgt (opCvt w)) && cvtTgt (opCvt w) != 0xF)

/-- The extents of a pass that L-009 places in declared regions: operands in their own formats, the output in the
narrowest format it may take (R77 gives the widest format to L-031, L-038 and L-044 and does not name L-009). -/
def Graph.outNarrowest (g : Graph) (w : Nat) : List (Nat × Nat) :=
  let codes := if opMac w && opFinal? w then cvtTargets g.rules (opCvt w) else [outFmt [] w]
  (outParts w).map fun p =>
    let sizes := codes.map fun c => tensorBytes c (opOLd w) p.rows p.cols
    (shelfView p.shelf (opOAddr w), sizes.foldl min (sizes.headD 0))

/-! ### Regions (L-005, L-006, L-009, L-073) -/

/-- Bytes from a region's base to the end of its last copy. -/
def regSpan (r : Nat) : Nat := if regKind r = 1 then copyStride (regBytes r) + regBytes r else regBytes r

/-- The region leaves its space or crosses a bound inside it. -/
def regOutside (r : Nat) : Bool :=
  let a := regBase r
  let n := regSpan r
  if regSpace r = 3 then !(decide (a < 2 ^ 40) && inside (a % 2 ^ 36) n 0 (2 ^ 36)) else !spaceOk (regSpace r) a n

def regInHold (r : Nat) : Bool := regSpace r == 3 && overlaps (regBase r % 2 ^ 36) (regSpan r) (2 ^ 36 - holdBytes) holdBytes

/-- The region lies in the slices, commons and constant stores that the claim names. -/
def regClaimed (claim r : Nat) : Bool :=
  let a := regBase r
  if regSpace r = 1 then
    if bit a 24 then bit (clmCommons claim) (bits a 33 3) else bit (clmShelves claim) (160 * bits a 33 3 + bits a 25 8)
  else if regSpace r = 2 then bit (clmConst claim) (bits a 23 3)
  else true

def bitCount (x n : Nat) : Nat := ((List.range n).filter (bit x)).length

/-- Bytes that a context save of the claim needs. -/
def ctxNeed (claim : Nat) : Nat :=
  bitCount (clmShelves claim) 1280 * (sliceBytes + 64 * 4096) + bitCount (clmCommons claim) 8 * 2 ^ 24 +
    bitCount (clmConst claim) 8 * 2 ^ 23

/-- Stack memory a graph takes: the region entry (none for its context area and its image), start, bytes. -/
def Graph.stackRuns (g : Graph) : List (Option Nat × Nat × Nat) :=
  ((g.regions.filter fun r => regSpace r == 3).map fun r => (some r, regBase r, regSpan r)) ++
    [(none, clmCtxBase g.claim, clmCtxBytes g.claim), (none, g.base, imgImageBytes g.header)]

/-- Two declarations of one REGION_ID that R241 allows. -/
def sharedAlike (g h : Graph) (r t : Nat) : Bool :=
  regShared r == 1 && regShared t == 1 && regKind r == regKind t && regSpace r == regSpace t && regBase r == regBase t &&
    regBytes r == regBytes t && decide (layoutOf g.layouts r = layoutOf h.layouts t)

def State.stackLost (s : State) (a n : Nat) : Bool :=
  n != 0 && s.rep.lostStacks.any fun k => overlaps a n (2 ^ 36 * k) (2 ^ 36)

/-- The runs of two graphs are one region that R241 lets them share. -/
def sameRegion (g h : Graph) : Option Nat → Option Nat → Bool
  | some r, some t => regId r == regId t && sharedAlike g h r t
  | _, _ => false

/-- L-006. -/
def State.stackClash (s : State) (others : List (Nat × Graph)) (g : Graph) : Bool :=
  let mine := g.stackRuns
  let img := (g.base, imgImageBytes g.header)
  mine.any (fun r => s.stackLost r.2.1 r.2.2) ||
    others.any (fun h => mine.any fun r => h.2.stackRuns.any fun t =>
      overlaps r.2.1 r.2.2 t.2.1 t.2.2 && !sameRegion g h.2 r.1 t.1) ||
    !(decide (img.1 < 2 ^ 40) && inside (img.1 % 2 ^ 36) img.2 0 (2 ^ 36 - holdBytes)) ||
    (mine.take (mine.length - 1)).any (fun r => overlaps r.2.1 r.2.2 img.1 img.2) ||
    g.params.any fun p => overlaps (parBase p) (copyStride (parBytes p) + parBytes p) img.1 img.2

/-- A run of scratchpad bytes lies in one declared region. -/
def Graph.reaches (g : Graph) (sp a n : Nat) : Bool :=
  n == 0 || g.regions.any fun r => regHolds r sp a n

/-- The addresses a descriptor uses, M_ADDR second. -/
def opAddrs (w : Nat) : List Nat :=
  [opSAddr w, opMAddr w, opOAddr w] ++ (if opPsumIn w = 1 then [opPAddr w] else []) ++
    (if opSparse? w then [opMetaAddr w] else []) ++ if opSpill w = 0 then [] else [opSagAddr w]

/-- A part has a region of its own with a layout entry (R429). -/
def Graph.hasPart (g : Graph) (e : Nat × Nat) : Bool :=
  g.regions.any fun r => regSpace r == 1 && scratchKey (regBase r) == scratchKey e.1 && decide (e.2 ≤ regBytes r) &&
    (layoutOf g.layouts r).isSome

/-- A part of a large gang has no region of its own; only the west stream may lie in the commons (R99, R429). -/
def Graph.partMissing (g : Graph) (w : Nat) (out : List (Nat × Nat)) : Bool :=
  ((passReads (opFmtM w) (opFmtS w) w).any fun e => !g.hasPart e) ||
    out.any (fun e => !g.hasPart e) ||
    ((opAddrs w).eraseIdx 1).any fun a => bit a 24

/-- A region written through a conversion or by a drain lacks its layout entry (R430). -/
def Graph.unlaid (g : Graph) (sp a : Nat) : Bool :=
  match regionAt g.regions sp a with
  | some r => (layoutOf g.layouts r).isNone
  | none => false

def Graph.dmaReaches (g : Graph) (w : Nat) : Bool :=
  let c := g.ctx
  !dmaMoves w ||
    ((!has [1, 2, 3, 5] (dmaSrcSpace w) || c.declared (dmaSrcSpace w) (c.srcExt w).1 (c.srcExt w).2) &&
      (!has [1, 2, 3] (dmaDstSpace w) ||
        c.declared (dmaDstSpace w) (c.dstExt w).1 ((c.dstExt w).2 - if dmaIdx w = 2 then 0 else crcBytes w)) &&
      (dmaIdx w == 0 || c.declared (dmaIdxSpace w) (dmaIdxAddr w) (4 * dmaElems w)))

/-- L-009. -/
def Graph.badRegions (g : Graph) (others : List (Nat × Graph)) : Bool :=
  g.regions.any (fun r => (regKind r == 1 && regSpace r != 3) || (regKind r == 3 && !has [1, 3] (regSpace r)) ||
      (regKind r == 0 && regWritten r == 1) || (regCarry r == 1 && regKind r != 1) || regOutside r) ||
    !noRepeats (g.regions.map regId) ||
    others.any (fun h => g.regions.any fun r => h.2.regions.any fun t => regId r == regId t && !sharedAlike g h.2 r t) ||
    g.ops.any (fun p =>
      let w := p.2
      let reads := passReads (opFmtM w) (opFmtS w) w
      let out := g.outNarrowest w
      opDefined w && ((reads ++ out).any (fun e => !g.reaches 1 e.1 e.2) || out.any (fun e => g.unlaid 1 e.1) ||
        (decide (3 ≤ opGang w) && g.partMissing w out))) ||
    g.dmas.any fun p => !g.dmaReaches p.2 || (dmaMoves p.2 && dmaCvtEn p.2 == 1 && g.unlaid (dmaDstSpace p.2) (dmaDstAddr p.2))

/-! ### Placement (L-004, L-005, L-010) -/

def State.engineOut (s : State) (claim : Nat) : Bool :=
  (List.range 1280).any (fun n => bit (clmShelves claim) n && s.shelfOut (n / 160) (n % 160)) ||
    (List.range 128).any (fun e => bit (clmEngines claim) e && has s.rep.lostKilns (e / 16)) ||
    (List.range 8).any fun k => (bit (clmCommons claim) k || bit (clmConst claim) k) && has s.rep.lostKilns k

/-- The slot stands in the work list that R99 names: sync operations in a shelf's list, a kiln engine's list for DMA
descriptors, which nothing but their place tells from operation descriptors. Of a reserved GANG no list is
named; L-030 speaks of it. -/
def placed (o w : Nat) : Bool :=
  if slotIsSync w then decide (o < 1280)
  else isKilnEngine o || decide (5 < opGang w) ||
    (decide (opShelf w < 160) &&
      if o = 1416 then decide (3 ≤ opGang w) else decide (opGang w ≤ 2) && 160 * opKiln w + opShelf w == o)

def State.badPlaces (s : State) (g : Graph) : Bool :=
  s.engineOut g.claim ||
    g.work.any (fun l => !(decide (l.1 < 1408) && bit g.claim l.1 || l.1 == 1416)) ||
    g.work.any (fun l => l.2.any fun w => !placed l.1 w) ||
    g.ops.any fun p => decide (opGang p.2 ≤ 5) && (opShelves p.2).any fun n => !bit (clmShelves g.claim) n

def Graph.badClaim (g : Graph) : Bool :=
  g.regions.any (fun r => !regClaimed g.claim r) || decide (clmCtxBytes g.claim < ctxNeed g.claim)

/-- A bound persistent task of another graph holds parts of the claim. -/
def State.taskClash (s : State) (no : Nat) (g : Graph) : Bool := s.taskHolds no g.claim

/-! ### Damper windows (R285) -/

def windowsMeet (a b : Nat) : Bool :=
  slotDamper a == slotDamper b && overlaps (slotStart a) (slotLen a) (slotStart b) (slotLen b)

/-- Two entries of a list overlap. -/
def anyMeet : List Nat → Bool
  | [] => false
  | w :: r => r.any (windowsMeet w) || anyMeet r

def Graph.allOps (g : Graph) : List Nat := g.work.flatMap fun l => l.2.map (slotOp l.1)

/-- L-008. -/
def State.badSlots (s : State) (others : List (Nat × Graph)) (g : Graph) : Bool :=
  let old := others.flatMap (·.2.slots)
  g.slots.any (fun w =>
    decide (271 < slotDamper w) || slotLen w == 0 || decide (57344 < slotLen w) || decide (65536 < slotStart w + slotLen w) ||
      !requesterOk (slotReq w) || decide (windowTicks w (s.rd whlTurnLenLen 0) < 64) ||
      !(has g.allOps (slotOpIndex w) ||
        (slotOpIndex w == 0xFFFFFFFF && decide (256 ≤ slotDamper w) && decide (slotDamper w < 270))) ||
      old.any (windowsMeet w) ||
      (let all := (old ++ g.slots).filter fun v => slotDamper v == slotDamper w
       decide (256 < all.length) || decide (57344 < (all.map slotLen).sum))) || anyMeet g.slots

/-! ### Formats and rules (L-020 to L-024) -/

/-- CVT words in use. -/
def Graph.cvts (g : Graph) : List Nat :=
  ((g.ops.filter fun p => opFinal? p.2).map fun p => opCvt p.2) ++
    (g.dmas.filter fun p => dmaMoves p.2 && dmaCvtEn p.2 == 1).map fun p => dmaCvt p.2

def Graph.badFormats (g : Graph) : Bool :=
  g.ops.any (fun p => decide (9 < opFmtM p.2) || decide (9 < opFmtS p.2)) ||
    g.dmas.any (fun p => dmaMoves p.2 && dmaCvtEn p.2 == 1 && decide (9 < dmaSrcFmt p.2)) ||
    g.cvts.any fun c => decide (9 < cvtTgt c) && cvtTgt c != 0xF

def badRounding (c : Nat) : Bool := decide ((if cvtTgt c ≤ 3 then 5 else 2) < cvtRnd c)

def badRule (r : Nat) : Bool :=
  ruleMask r == 0 || decide (3 < ruleInitFmt r) || !bit (ruleMask r) (ruleInitFmt r) || ruleNanAct r == 3 ||
    decide (signed 8 (ruleScxMax r) < signed 8 (ruleScxMin r))

/-- L-024: a rule differs from the resident one, or from another of the image, for its slot. -/
def Graph.ruleClash (g : Graph) (others : List (Nat × Graph)) : Bool :=
  (g.rules ++ others.flatMap (·.2.rules)).any fun a => g.rules.any fun b => rulSlot a == rulSlot b && rulRule a != rulRule b

/-! ### Operation descriptors (L-030 to L-041) -/

/-- Start and end of a pass's reduction range (R92). -/
def opEnd (w : Nat) : Nat := opIdxBase w + opLen w

/-- K of an operation. -/
def Graph.opK (g : Graph) (op : Nat) : Nat :=
  ((g.ops.filter fun p => opOpIndex p.2 == op).map fun p => opEnd p.2).foldl max 0

def pairBad (m t : Nat) : Bool := isInt m != isInt t || has [0, 9] m || has [0, 9] t

def sparseFmt (c : Nat) : Bool := has [4, 5, 6, 7, 8] c

/-- A spill position before the pass's last chunk (R118). -/
def spillInside (w : Nat) : Bool :=
  opSpill w != 0 && (List.range (opChunks w - 1)).any fun j => (opChunk0 w + j + 1) % opSpill w == 0

/-- The codes L-030 to L-041 that an operation descriptor breaks, the chain apart. -/
def Graph.opCodes (g : Graph) (w : Nat) : List Nat :=
  let ms := g.fmtsM w
  let ts := g.fmtsS w
  let int := ms.any isInt || ts.any isInt
  let reads := g.readsWidest w
  let out := g.outWidest w
  (if !has [1, 2, 3] (opOpcode w) || opMode w == 3 || decide (5 < opGang w) then [30] else []) ++
  (if extentsMeet out reads then [31] else []) ++
  (if ms.any (fun m => ts.any (pairBad m)) || (int && opScl w != 0) ||
      (!opMac w && opFinal? w && cvtTgt (opCvt w) == 0) then [32] else []) ++
  (if opSparse? w && (opOs w || !opMac w || !(ms ++ ts).all sparseFmt) then [33] else []) ++
  (if opEnd w != g.opK (opOpIndex w) && (opFinal? w || opLen w % opUnit w != 0) then [34] else []) ++
  (if decide (gangRows (opGang w) ≤ opRowsM1 w) || decide (gangCols (opGang w) ≤ opColsM1 w) || decide (256 < opSpill w)
    then [36] else []) ++
  (if decide (159 < opShelf w) || (opGang w == 1 && (opTrow w % 2 != 0 || opTcol w % 2 != 0)) ||
      (opGang w == 3 && opShelf w % 16 != 0) || (decide (4 ≤ opGang w) && opShelf w != 0) ||
      (opGang w == 5 && opKiln w % 2 != 0) then [37] else []) ++
  (if (opAddrs w).any (fun a => a % 128 != 0 || decide (2 ^ 25 ≤ a)) || (reads ++ out).any (fun e => !spaceOk 1 e.1 e.2)
    then [38] else []) ++
  (if opIdxBase w % opUnit w != 0 || spillInside w || (!opMac w && opSpill w != 0) then [39] else []) ++
  (if opAccSr w == 1 && (!opMac w || int) then [40] else []) ++
  (if !opMac w && decide (2 ^ 32 < opEnd w) then [41] else [])

/-- L-035: a chained descriptor is followed by one on the same gang in the same mode (R96); one with none behind
it, or with a sync operation, is refused. Log 114. -/
def badChains : List Nat → Bool
  | [] => false
  | w :: r =>
    (!slotIsSync w && opChain w == 1 &&
      match r.head? with
      | none => true
      | some v => slotIsSync v || opMode v != opMode w || opGang v != opGang w || opKiln v != opKiln w ||
          opShelf v != opShelf w || (decide (opGang w ≤ 1) && (opTrow v != opTrow w || opTcol v != opTcol w))) || badChains r

/-! ### Bindings, parameters, layouts, narrowed tiles (L-042 to L-045) -/

/-- A binding of one side of a descriptor: slot, placeholder format, image SCL. -/
def Graph.badSide (g : Graph) (slot fmt : Nat) : Bool :=
  match g.ruleOf slot with
  | none => true
  | some r => !has (maskCodes r) fmt

/-- The slots that a descriptor's operands are bound to, one for each bound operand of each entry. -/
def Graph.boundSlots (g : Graph) (w : Nat) : List Nat :=
  (g.bindings.filter fun b => bindOpIndex b == opOpIndex w).flatMap fun b =>
    (if bindBindM b = 1 then [bindSlotM b] else []) ++ if bindBindS b = 1 then [bindSlotS b] else []

/-- The least and the greatest launch SCL that bindings may give (R149). -/
def Graph.boundScls (g : Graph) (w : Nat) : List Int :=
  let sum := fun (f : Nat → Nat) => ((g.boundSlots w).map fun x => ((g.ruleOf x).map fun r => signed 8 (f r)).getD 0).sum
  [signed 8 (opScl w) - sum ruleScxMax, signed 8 (opScl w) - sum ruleScxMin]

def Graph.badBinding (g : Graph) (b : Nat) : Bool :=
  match (g.ops.filter fun p => opOpIndex p.2 == bindOpIndex b).map (·.2) with
  | [] => true
  | ws => ws.any fun w =>
      (bindBindM b == 1 && g.badSide (bindSlotM b) (opFmtM w)) || (bindBindS b == 1 && g.badSide (bindSlotS b) (opFmtS w)) ||
        (g.boundScls w).any fun x => decide (x < -128) || decide (127 < x)

/-- The even and the odd copy of a parameter. -/
def parRuns (p : Nat) : List (Nat × Nat) := [(parBase p, parBytes p), (parBase p + copyStride (parBytes p), parBytes p)]

/-- PARAM_IDs of the image involved in a breach of R150 or R151; those of resident graphs are not reported.
Log 120. -/
def Graph.badParams (g : Graph) (others : List (Nat × Graph)) : List Nat :=
  let old := others.flatMap (·.2.params)
  let meet := fun (p q : Nat) => extentsMeet (parRuns p) (parRuns q)
  (g.params.zipIdx.filter fun p => decide (1 < parGradUses p.1) || old.any (meet p.1) ||
    g.params.zipIdx.any fun q => p.2 != q.2 && (meet p.1 q.1 || parId p.1 == parId q.1)).map fun p => parId p.1

/-- The operands of a descriptor: formats, LD, address, parts. -/
def Graph.operands (g : Graph) (w : Nat) : List (List Nat × Nat × Nat × List Part) :=
  [(g.fmtsS w, opSLd w, opSAddr w, statParts w), (g.fmtsM w, opMLd w, opMAddr w, westParts w),
    (if opMac w && opFinal? w then cvtTargets g.rules (opCvt w) else [outFmt [] w], opOLd w, opOAddr w, outParts w)] ++
  (if opPsumIn w = 1 then [([accFmt w], opPLd w, opPAddr w, psumParts w)] else []) ++
  (if opSpill w = 0 then [] else [([0], opOLd w, opSagAddr w, outParts w)])

def badLayout (l : Nat) : Bool :=
  layRow0 l % 16 != 0 || layCol0 l % 16 != 0 || decide (layTrows l ≤ layRow0 l) || decide (layTcols l ≤ layCol0 l) ||
    decide (2 ^ 40 < layTrows l * layTcols l)

/-- L-044 for one descriptor. -/
def Graph.badLds (g : Graph) (w : Nat) : Bool :=
  (g.operands w).any (fun o =>
    let ld := o.2.1
    o.2.2.2.any fun p =>
      let a := shelfView p.shelf o.2.2.1
      decide (ld < ceilDiv p.cols 16) ||
        (has o.1 6 && (ld % 8 != 0 || match regionAt g.regions 1 a with
          | some r => regOff r a % 1152 != 0
          | none => false)) ||
        (decide (1 < o.1.length) && o.1.any fun c => !g.reaches 1 a (tensorBytes c ld p.rows p.cols))) ||
    (outParts w).any fun p => (opOAddr w :: if opSpill w = 0 then [] else [opSagAddr w]).any fun a =>
      match (regionAt g.regions 1 (shelfView p.shelf a)).bind (layoutOf g.layouts) with
      | some l => layLd l != opOLd w
      | none => false

/-- L-044 for a DMA conversion: a Grog4 side that does not begin a tract, a Grog4 destination whose layout entry
has no LD of R141. -/
def Graph.badDmaLayout (g : Graph) (w : Nat) : Bool :=
  g.ctx.offTract w || (dmaMoves w && dmaCvtEn w == 1 && has (cvtTargets g.rules (dmaCvt w)) 6 &&
    match (regionAt g.regions (dmaDstSpace w) (dmaDstAddr w)).bind (layoutOf g.layouts) with
    | some l => layLd l % 8 != 0
    | none => false)

/-- A DMA descriptor names a slice out of service (R155). -/
def State.badSlice (s : State) (w : Nat) : Bool :=
  let out := fun (sp a : Nat) => sp == 1 && !bit a 24 && s.shelfOut (bits a 33 3) (bits a 25 8)
  dmaMoves w && (out (dmaSrcSpace w) (dmaSrcAddr w) || out (dmaDstSpace w) (dmaDstAddr w) ||
    (dmaIdx w != 0 && out (dmaIdxSpace w) (dmaIdxAddr w)))

/-- L-045 for a work list: its observer's shelf is out of service. -/
def State.badList (s : State) (l : Nat × List Nat) : Bool := decide (l.1 < 1280) && s.shelfOut (l.1 / 160) (l.1 % 160) && !l.2.isEmpty

/-- L-045 for an operation descriptor. -/
def State.badTiles (s : State) (w : Nat) : Bool :=
  (opTiles w).any fun t =>
    let k := t / 64 / 160
    let sh := t / 64 % 160
    s.tileOut k sh (t % 64) || (s.tileNarrow k sh (t % 64) && (opGang w != 0 || decide (14 < opColsM1 w)))

/-! ### Signals and barriers (L-060 to L-064) -/

def Graph.knows (g : Graph) (sig : Nat) : Bool := g.signals.any fun e => sigSig e == sig

def Graph.badSignals (g : Graph) : Bool :=
  g.syncs.any (fun p =>
    let w := p.2
    decide (0x15 < synOp w) || (decide (synOp w ≤ 0x12) && !g.knows (synSig w)) || (synOp w == 0x10 && synValue w == 0) ||
      (synOp w == 0x12 && (synValue w == 0 || decide (65535 < synValue w)))) ||
    g.dmas.any fun p => (dmaSigEn p.2 == 1 && !g.knows (dmaSig p.2)) ||
      (dmaOp p.2 == 3 && !g.knows (dmaWaitSig p.2))

def Graph.badClasses (g : Graph) : Bool :=
  g.syncs.any (fun p => synOp p.2 == 0x12 && g.declares (synSig p.2) 1) || g.signals.any fun e => sigCls e == 1 && sigInit e != 0

def Graph.badBarriers (g : Graph) : Bool :=
  g.barriers.any (fun e => barMask e % 2 ^ 1418 == 0 || decide (2 ^ 1418 ≤ barMask e)) || !noRepeats (g.barriers.map barGroup) ||
    g.syncs.any fun p => decide (0x13 ≤ synOp p.2) && decide (synOp p.2 ≤ 0x15) &&
      !(g.barriers.any fun e => barGroup e == synBar p.2 && bit (barMask e) p.1)

def Graph.classClash (g : Graph) (others : List (Nat × Graph)) : Bool :=
  !noRepeats (g.signals.map sigSig) ||
    others.any fun h => g.signals.any fun e => h.2.signals.any fun d => sigSig e == sigSig d && sigCls e != sigCls d

/-- L-064: the declarations of the resident graphs' tables, counted entry by entry (R214, log 123). -/
def tooMany (others : List (Nat × Graph)) (g : Graph) : Bool :=
  let all := g :: others.map (·.2)
  decide (8192 < (all.map (·.signals.length)).sum) || decide (256 < (all.map (·.barriers.length)).sum)

/-! ### Fabric graphs (R307) -/

def State.fabricCodes (s : State) (g : Graph) : List Nat :=
  (if imgFabric g.header = 1 then
    (if g.dmas.any fun p => s.outsideJob p.2 then [70] else []) ++
    (if clmPorts g.claim &&& (2 ^ 14 - 1 - s.rd fabJobMask 0) != 0 then [71] else []) ++
    (if s.fab.plan.isEmpty || !s.on fabStatusJobSet 0 then [72] else [])
   else []) ++
  (if g.regions.any regInHold then [73] else [])

/-! ### Buckets and join areas (R326, R328, R339) -/

def bucketOf (no b : Nat) : Bucket :=
  ⟨no, bktParamId b, bktMode b, bktAccFmt b, bktShardElems b, bktRaccBase b, bktStageBase b⟩

def Graph.bucketList (g : Graph) (no : Nat) : List Bucket := g.buckets.map (bucketOf no)

/-- The stages of a bucket in ordered mode (R325). -/
def Bucket.stages (k : Bucket) (srcs : Nat) : List (Nat × Nat) :=
  if k.mode = 0 then [(k.stage, 2 * srcs * k.bytes)] else []

/-- The areas of a bucket: both instances, and the stages in ordered mode (R325). -/
def Bucket.areas (k : Bucket) (srcs : Nat) : List (Nat × Nat) := (k.racc, 2 * k.bytes) :: k.stages srcs

def Graph.paramOf (g : Graph) (id : Nat) : Option Nat := g.params.find? fun p => parId p == id

/-- L-080. -/
def State.badBuckets (s : State) (used : Nat) (g : Graph) : Bool :=
  let srcs := s.sources
  !s.on fabStatusJobSet 0 ||
    g.buckets.any (fun b =>
      bktAccFmt b == 3 || bktShardElems b % 256 != 0 ||
        match g.paramOf (bktParamId b) with
        | none => true
        | some p => parGradUses p != 1 || decide (parBytes p < 2 ^ 22) || decide (2 ^ 28 < parBytes p) ||
            parBytes p != 4 * srcs * bktShardElems b) ||
    !noRepeats (g.buckets.map bktParamId) ||
    decide (imgPblockBytes g.header < xhdBucketOff g.pblock + 32 * xhdBuckets g.pblock) || decide (1024 < used + g.buckets.length)

/-- A contribution descriptor is one of R327. -/
def goodContribution (ks : List Bucket) (w : Nat) : Bool :=
  dmaIdx w == 0 && dmaCvtEn w == 0 && ks.any fun k =>
    k.fmt == dmaAccFmt w && [0, 1].any fun i => inside (dmaDstStack w) (dmaLen w) (k.area i) k.bytes

/-- Contributions of one bucket and owner come from one engine in rising order of offset. -/
def orderedContributions (ks : List Bucket) (l : List (Nat × Nat)) : Bool :=
  let key := fun (p : Nat × Nat) =>
    ((ks.findIdx? fun k => inside (dmaDstStack p.2) 1 k.racc (2 * k.bytes)).getD 0, if dmaDstSpace p.2 = 4 then dmaDstMod p.2 + 1 else 0)
  l.zipIdx.all fun a => l.zipIdx.all fun b =>
    !(decide (key a.1 = key b.1) && decide (a.2 < b.2)) ||
      (a.1.1 == b.1.1 && decide (dmaDstStack a.1.2 < dmaDstStack b.1.2))

/-- L-081. -/
def State.badContributions (s : State) (no : Nat) (g : Graph) : Bool :=
  let ks := g.bucketList no
  let inArea := fun (w : Nat) => ks.any fun k => overlaps (dmaDstStack w) (dmaLen w) k.racc (2 * k.bytes)
  let cs := g.dmas.filter fun p => dmaOp p.2 == 2 && (dmaDstSpace p.2 == 4 || (dmaDstSpace p.2 == 3 && inArea p.2))
  let me := s.rankOf s.self
  cs.any (fun p => !goodContribution ks p.2) || !orderedContributions ks cs ||
    g.dmas.any fun p => has [1, 3] (dmaOp p.2) && dmaDstSpace p.2 == 4 && ks.any fun k =>
      match g.paramOf k.param with
      | none => false
      | some q => [0, 1].any fun c => overlaps (dmaDstStack p.2) (dmaLen p.2) (paramCopy q c) (parBytes q) &&
          !inside (dmaDstStack p.2) (dmaLen p.2) (paramCopy q c + me * (4 * k.elems)) (4 * k.elems)

/-- Two areas of a list overlap. -/
def areasMeet : List (Nat × Nat) → Bool
  | [] => false
  | a :: r => r.any (fun b => overlaps a.1 a.2 b.1 b.2) || areasMeet r

/-- L-082. -/
def State.badAreas (s : State) (no : Nat) (others : List (Nat × Graph)) (g : Graph) : Bool :=
  let srcs := s.sources
  let ks := g.bucketList no
  let areas := ks.flatMap (·.areas srcs)
  areas.any (fun a => !g.regions.any fun r => regSpace r == 3 && regKind r == 3 && inside a.1 a.2 (regBase r) (regBytes r)) ||
    areasMeet areas ||
    others.any (fun h =>
      ks.any (fun k => (h.2.bucketList no).any fun j =>
        decide (k ≠ j) && (k.areas srcs).any fun a => (j.areas srcs).any fun b => overlaps a.1 a.2 b.1 b.2) ||
      areas.any fun a => h.2.regions.any fun r => regSpace r == 3 && overlaps a.1 a.2 (regBase r) (regSpan r) &&
        !(ks.any fun k => (h.2.bucketList no).any fun j => decide (k = j))) ||
    g.dmas.any fun p =>
      let c := g.ctx
      dmaMoves p.2 &&
        (((dmaDstSpace p.2 == 3 || (dmaDstSpace p.2 == 4 && dmaDstMod p.2 == s.self)) &&
            (if dmaOp p.2 = 2 then ks.flatMap (·.stages srcs) else areas).any fun a =>
              overlaps (bits (c.dstExt p.2).1 0 40) (c.dstExt p.2).2 a.1 a.2) ||
          (dmaSrcSpace p.2 == 3 && ks.any fun k => k.mode == 0 &&
            overlaps (c.srcExt p.2).1 (c.srcExt p.2).2 k.stage (2 * srcs * k.bytes)))

/-- L-083. -/
def State.badJoin (s : State) (g : Graph) : Bool :=
  let j := g.joinRules.length
  g.joinSlots != j || (j != 0 && !g.regions.any fun r =>
    regSpace r == 3 && regKind r == 2 && inside g.joinBase (2 * s.sources * j * 64) (regBase r) (regBytes r))

/-! ### All checks -/

/-- The codes that an image breaks, L-001 apart; `others` are the resident graphs it will stand beside. -/
def State.imageCodes (s : State) (no : Nat) (others : List (Nat × Graph)) (g : Graph) : List Nat :=
  let n := imgPblockBytes g.header
  let when := fun (b : Bool) (c : Nat) => if b then [c] else []
  when (decide (2 ^ 28 < imgImageBytes g.header) || decide (n < 32) || decide (65536 < n) ||
    (imgPersistent g.header == 1 && decide (4096 < n))) 2 ++
  when (imgGeomId g.header != s.rd modGeomGeomId 0) 3 ++
  when (s.badPlaces g) 4 ++ when g.badClaim 5 ++ when (s.stackClash others g) 6 ++
  when (decide (1024 ≤ others.length)) 7 ++ when (s.badSlots others g) 8 ++ when (g.badRegions others) 9 ++
  when (s.taskClash no g || (imgPersistent g.header == 1 && decide (256 ≤ ((List.range 64).filter (s.on feSqCfgPtask)).length))) 10 ++
  when g.badFormats 20 ++ when (g.cvts.any badRounding) 21 ++ when (g.rules.any fun r => badRule (rulRule r)) 22 ++
  when (g.cvts.any fun c => cvtTgt c == 0xF && (g.ruleOf (cvtGaugeId c)).isNone) 23 ++ when (g.ruleClash others) 24 ++
  (g.ops.flatMap fun p => g.opCodes p.2) ++
  when ((g.work.filter fun l => !isKilnEngine l.1).any fun l => badChains l.2) 35 ++
  when (g.bindings.any g.badBinding) 42 ++ when (g.badParams others != []) 43 ++
  when (g.layouts.any badLayout || g.ops.any (fun p => g.badLds p.2) || g.dmas.any fun p => g.badDmaLayout p.2) 44 ++
  when (g.ops.any (fun p => s.badTiles p.2) || g.dmas.any (fun p => s.badSlice p.2) || g.work.any s.badList) 45 ++
  (g.dmas.flatMap fun p => g.ctx.codes p.2) ++
  when g.badSignals 60 ++ when g.badClasses 61 ++ when g.badBarriers 62 ++ when (g.classClash others) 63 ++
  when (tooMany others g) 64 ++ s.fabricCodes g ++
  (if g.buckets.isEmpty then []
   else when (s.badBuckets ((s.grx.slots.filter fun b => b.2.graph != no).length) g) 80 ++
     when (s.badContributions no g) 81 ++ when (s.badAreas no others g) 82) ++
  when (s.badJoin g) 83

/-- The lowest code. -/
def lowest (l : List Nat) : Option Nat := l.foldl (fun b c => match b with
  | none => some c
  | some d => some (min d c)) none

end Sys2Proof.Machine
end

