-- ==== Sys2Proof/Machine/GraphStore.lean ====
section
/-! DEFINITION. Machine/GraphStore.lean: graph.store, graph.drop, param.patch, task.bind and task.unbind
(R75, R240-R246, R253, R284, R324, R336). -/

namespace Sys2Proof.Machine

/-- A firing of the graph is accepted and not yet ended (R243). -/
def State.graphBusy (s : State) (no : Nat) : Bool := s.fe.firings.any fun f => f.graph == no

/-- The ladder slots of an image that are in use with the same rule by the graph that it replaces. -/
def State.sameRules (s : State) (no : Nat) (g : Graph) : List Nat :=
  match s.graph? no with
  | none => []
  | some old => (g.rules.filter fun r => old.rules.any fun x => rulSlot x == rulSlot r && rulRule x == rulRule r).map rulSlot

/-- The rules of an image come into use: a slot already in use keeps its state (R75). -/
def State.useRules (s : State) (g : Graph) (keep : List Nat) : State :=
  g.rules.foldl (fun s r =>
    if s.ruleInUse (rulSlot r) || has keep (rulSlot r) then s
    else
      let s := s.setRegWord feRuleReg (rulSlot r) (rulRule r)
      ((s.initSlot (rulSlot r)).resetReg feGaugeReg (rulSlot r))) s

/-- Bucket slots are assigned in the order of the bucket table, and both instances cleared (R336). -/
def State.takeBuckets (s : State) (no : Nat) (g : Graph) : State :=
  (g.bucketList no).foldl (fun s k =>
    match (List.range 1024).find? fun b => !s.grx.slots.any fun p => p.1 == b with
    | none => s
    | some b =>
      let s := { s with grx := { s.grx with slots := tput s.grx.slots b k } }
      (((s.clearInst b 0).clearInst b 1).clearCopy b 0).clearCopy b 1) s

/-- Make a graph resident under a number: the image's bytes, rules, buckets and windows take their places. -/
def State.install (s : State) (no : Nat) (g : Graph) (image : Bytes) : State :=
  let keep := s.sameRules no g
  let s := s.leaveGraph no keep
  let bytes := image.take (imgImageBytes g.header)
  let s := (s.store g.base bytes).sitterMoves bytes.length
  let s := s.useRules g keep
  let s := { s with fe := { s.fe with graphs := tput s.fe.graphs no g } }
  s.takeBuckets no g

/-- Host memory is read only while port H carries the module's requests (R345). -/
def State.sourceReady (s : State) : Source → Bool
  | .host _ => s.hostReady
  | .drive _ _ _ => true
  | .busFragments => true

/-- A namespace that a command cannot use: its link down, absent, or with LBAs that are not 4 KiB (R351,
R354). -/
def State.nsRefusal (s : State) (link ns : Nat) : Option Code :=
  if !has s.pci.sUp link then some (.s 312)
  else if ns = 0 ∨ 16 < ns ∨ Config.namespaceLba link ns = 0 ∨ Config.namespaceLbaBytes link ns ≠ 4096 then some (.s 311)
  else none

def State.sourceRefusal (s : State) : Source → Option Code
  | .drive link ns _ => s.nsRefusal link ns
  | _ => none

/-- graph.store (R242): the lowest code of the checks that fail, with the PARAM_ID of L-043. -/
def execGraphStore (o : Origin) (graph stackBase : Nat) (src : Source) (image : Bytes) (s : State) : Out :=
  onUnit (graph < 1024) <| .next <| s.command o 0x0100 fun s =>
    if s.graphBusy graph then s.refuse o (.s 255)
    else if !s.sourceReady src then s
    else if (s.sourceRefusal src).isSome then s.refuse o ((s.sourceRefusal src).getD (.s 311))
    else if imageBroken image then s.refuse o (.l 1)
    else
      let g := readImage image stackBase
      let others := s.fe.graphs.filter fun p => p.1 != graph
      match lowest (s.imageCodes graph others g) with
      | some 43 => s.reply o (.l 43) false [((g.badParams others).min?).getD 0]
      | some c => s.refuse o (.l c)
      | none => (s.install graph g image).done o []

/-- graph.drop (R243): S-250 where no graph is resident (log 36). -/
def execGraphDrop (o : Origin) (graph : Nat) (s : State) : Out :=
  onUnit (graph < 1024) <| .next <| s.command o 0x0101 fun s =>
    if s.graphBusy graph then s.refuse o (.s 255)
    else if (s.graph? graph).isNone then s.refuse o (.s 250)
    else (s.dropGraph graph).done o []

/-- param.patch (R246). -/
def execParamPatch (o : Origin) (graph offset : Nat) (data : Bytes) (s : State) : Out :=
  onUnit (graph < 1024) <| .next <| s.command o 0x0112 fun s =>
    match s.graph? graph with
    | none => s.refuse o (.s 250)
    | some g =>
      if 4096 < data.length ∨ g.pblock.length < offset + data.length then s.refuse o (.s 256)
      else
        let graphs := tput s.fe.graphs graph { g with pblock := patchBytes g.pblock offset data }
        ({ s with fe := { s.fe with graphs := graphs } }).done o []

/-- task.bind (R253, R243): the graph must be PERSISTENT and the queue unbound, and no other task may hold
parts of the claim (log 36). The claim is granted at binding: while a firing holds parts of it, the command waits
(log 124). -/
def execTaskBind (o : Origin) (graph queue : Nat) (s : State) : Out :=
  onUnit (graph < 1024 && queue < 64) <| .next <| s.command o 0x0113 fun s =>
    if s.graphBusy graph then s.refuse o (.s 255)
    else
      match s.graph? graph with
      | none => s.refuse o (.s 250)
      | some g =>
        if imgPersistent g.header == 0 || s.on feSqCfgPtask queue then s.refuse o (.s 254)
        else if s.taskHolds graph g.claim then s.refuse o (.l 10)
        else if s.fe.firings.any fun f => f.claimHeld && !s.opsOver f && claimsMeet g.claim (s.claimOf f) then s
        else ((s.wr feSqCfgPtask queue 1).wr feSqCfgPtaskGraph queue graph).done o []

/-- task.unbind returns the claim (R253). -/
def execTaskUnbind (o : Origin) (queue : Nat) (s : State) : Out :=
  onUnit (queue < 64) <| .next <| s.command o 0x0114 fun s =>
    if !s.on feSqCfgPtask queue then s.refuse o (.s 254)
    else if s.graphBusy (s.rd feSqCfgPtaskGraph queue) then s.refuse o (.s 255)
    else ((s.wr feSqCfgPtask queue 0).wr feSqCfgPtaskGraph queue 0).done o []

end Sys2Proof.Machine
end

