-- ==== Sys2Proof/Machine/Stack.lean ====
section
/-! DEFINITION. Machine/Stack.lean: lines and channels of the stacks (R173-R181), the accumulate adders
(R190) and copies between a slice and its tiles (R173). -/

namespace Sys2Proof.Machine

/-- The address lies in stack memory: below 2^40 and in no lost stack (Table 7.3, R426). -/
def State.stackAddr (s : State) (a : Nat) : Bool := decide (a < 2 ^ 40) && !has s.rep.lostStacks (stackOf a)

/-! ### Lines (R175-R179) -/

/-- What the channel's code makes of a line: a line known to be bad, or in a failed channel, gives no
data; an uncorrectable line stays bad until it is written. -/
def State.lineFound (s : State) (line : Nat) (found : LineState) : State :=
  match found with
  | .uncorrectable =>
    if s.lineGone line then s else { s with mem := { s.mem with badLines := addNew s.mem.badLines line } }
  | .corrected => if s.lineBad line then s else s.satAdd stkCeCntCe (stackOf line) 1
  | .clean => s

/-- A read of a line that meets the channel's code: rebuilt from parity, or uncorrectable. -/
def State.lineRead (s : State) (line : Nat) (q : Option Nat) : State :=
  if s.unreadable line then s.uncorrectable line q
  else if s.lineBad line then s.lineRebuilt line else s

/-- STACK_LINE_READ (R177, R178, R179). -/
def execStackLineRead (fseq : Option Nat) (addr : Nat) (found : LineState) (s : State) : Out :=
  onUnit (s.stackAddr addr) <| .next <|
    if s.powered then (s.lineFound (lineOf addr) found).lineRead (lineOf addr) fseq else s

/-- STACK_LINE_WRITE (R175, R178 steps 3 and 4): bytes within one line. -/
def execStackLineWrite (fseq : Option Nat) (addr : Nat) (data : Bytes) (s : State) : Out :=
  onUnit (s.stackAddr addr && decide (addr % 64 + data.length ≤ 64)) <| .next <|
    if s.powered && !data.isEmpty then
      match s.writeBlocked addr data.length with
      | some l => s.uncorrectable l fseq
      | none =>
        s.store addr data
    else s

/-- PARITY_RECOMPUTE (R178 step 4): once all 16 data lines of the stripe read. -/
def execParityRecompute (stack stripe : Nat) (s : State) : Out :=
  onUnit (stack < 16 && stripe < 2 ^ 26) <| .next <|
    let base := 2 ^ 36 * stack + 1024 * stripe
    if s.powered && has s.mem.staleParity base && (stripeLines base).all (fun l => !s.lineBad l) then
      { s with mem := { s.mem with staleParity := s.mem.staleParity.filter (· != base) } }
    else s

/-- ACCUM_ADD (R178 step 3, R190): one element, atomically; flags outside bucket areas go to the firing. -/
def execAccumAdd (fseq : Option Nat) (opIndex accFmt addr value : Nat) (s : State) : Out :=
  let n := accElemBytes accFmt
  onUnit (accFmt < 3 && s.stackAddr addr && s.stackAddr (addr + n - 1)) <| .next <|
    if s.powered then
      match s.badIn addr n with
      | some l => s.uncorrectable l fseq
      | none =>
        let f := fseq.bind s.firing?
        let data := natLe n value
        let occs := if (s.instsMeeting addr n).isEmpty then s.accumOccs f accFmt opIndex addr addr data else []
        let s := s.takeAccum s.self accFmt addr data
        match fseq with
        | some q => s.updFiring q fun f => { f with arith := f.arith.reports occs }
        | none => s
    else s

/-! ### Failed channels (R180, R181) -/

/-- Every stripe of the stack that a line list names. -/
def inStack (n : Nat) (l : List Nat) : List Nat := l.filter fun a => stackOf a == n

/-- A whole stack is lost: F-142, a module fault (R12, R181). -/
def State.loseStack (s : State) (n : Nat) : State :=
  let s := { s with rep := { s.rep with lostStacks := addNew s.rep.lostStacks n } }
  let s := s.commitRepair
  let s := (s.wr modGeomGeomId 0 s.geomId).post (.s 361) [s.geomId]
  s.moduleFault (.f 142)

/-- A channel fails for the first time in its stack: the repair map, and the ledger's parity channel. -/
def State.channelOut (s : State) (n c : Nat) : State :=
  let s := { s with rep := { s.rep with chanFailed := tput s.rep.chanFailed n c } }
  let s := (s.wr stkStatusFailedCh n c).repEvent 1 (17 * n + c)
  (s.exhaust 4 n).commitRepair

/-- A stack runs without parity. -/
def State.noParity (s : State) (n : Nat) : State :=
  let s := ((s.wr stkStatusParityOk n 0).wr stkStatusNoParity n 1).wr stkStatusRebuilding n 0
  let stale := s.mem.staleParity.filter fun a => stackOf a != n
  { s with mem := { s.mem with
      staleParity := stale, reached := tdel s.mem.reached n, rebuilt := tdel s.mem.rebuilt n } }

/-- A channel of a stack fails; `outstanding` are the firings with a read or write to the stack
outstanding. -/
def State.failChannel (s : State) (n c : Nat) (outstanding : List Nat) : State :=
  if has s.rep.lostStacks n then s
  else if s.rd stkStatusFailedCh n = c then s
  else if s.rd stkStatusFailedCh n ≠ 31 then s.loseStack n
  else if c = 16 then (s.channelOut n 16).noParity n
  else
    let s := outstanding.foldl (fun s q => s.fault q 141) s
    let bad := s.mem.badLines.filter fun a => !(stackOf a == n && chanOf a == c)
    let s := { s with mem := { s.mem with
      badLines := bad, reached := tdel s.mem.reached n, rebuilt := tdel s.mem.rebuilt n } }
    (s.wr stkStatusRebuilding n 1).channelOut n c

/-- CHANNEL_FAIL (R180, R181). -/
def execChannelFail (stack chan : Nat) (outstanding : List Nat) (s : State) : Out :=
  onUnit (stack < 16 && chan < 17) <| .next <| if s.powered then s.failChannel stack chan outstanding else s

/-- The failed channel's line of a stripe. -/
def chanLine (n c stripe : Nat) : Nat := 2 ^ 36 * n + 1024 * stripe + 64 * c

/-- The rebuild goes on to stripe k (R180 step 2). It cannot make the failed channel's line of a stripe that has
another line that gives no data, or no parity: that line stays uncorrectable. -/
def State.rebuildTo (s : State) (n c k : Nat) : State :=
  let from_ := tget 0 s.mem.reached n
  let hurt := ((inStack n s.mem.badLines).filter (fun a => chanOf a != c)).map stripeOf ++
    (inStack n s.mem.staleParity).map stripeOf
  let lost := (hurt.eraseDups.filter fun x => decide (from_ ≤ x) && decide (x < k) && !s.stripeRebuilt n x).map (chanLine n c)
  { s with mem := { s.mem with badLines := s.mem.badLines ++ lost, reached := tput s.mem.reached n (max from_ k) } }

/-- The stripes of a stack. -/
def stripes : Nat := 2 ^ 26

/-- Time passes for the rebuilds in progress: how many stripes they do is free (R180 step 4, log 47). -/
def State.rebuildOn (s : State) : State :=
  if s.powered then
    (List.range 16).foldl (fun s n =>
      if s.on stkStatusRebuilding n then
        let k := tget 0 s.mem.reached n + Config.freeNat s.fresh % (stripes + 1)
        let t := s.rebuildTo n (s.rd stkStatusFailedCh n) (min stripes k)
        { t with fresh := t.fresh + 1 }
      else s) s
  else s

/-- REBUILD_COMPLETE (R180 steps 4 and 5). -/
def execRebuildComplete (stack : Nat) (s : State) : Out :=
  onUnit (stack < 16) <| .next <|
    if s.powered && s.on stkStatusRebuilding stack then
      let s := s.rebuildTo stack (s.rd stkStatusFailedCh stack) stripes
      (s.noParity stack).wr stkStatusRebuildProg stack 0x8000
    else s

/-! ### Tile registers (R173) -/

/-- TILE_REGISTER_COPY: the shelf's sequencer, working for the firing, copies between its slice and a
tile's registers, once nothing of its queue holds it (R201, R202). -/
def execTileRegisterCopy (fseq kiln shelf row col tileOff sliceAddr len : Nat) (toTile : Bool) (s : State) : Out :=
  onUnit (kiln < 8 && shelf < 160 && row < 8 && col < 8 && decide (tileOff + len ≤ 4096) &&
      decide (sliceAddr + len ≤ sliceBytes)) <| .next <|
    match s.onObserver (160 * kiln + shelf) with
    | none => s
    | some f =>
      let a := 2 ^ 33 * kiln + 2 ^ 25 * shelf + sliceAddr
      if f.fseq = fseq ∧ s.issues = true ∧ s.shelfHeld f (160 * kiln + shelf) [(a, len)] = false then
        let t := tileAddr kiln shelf row col tileOff
        if toTile then s.writeSpace 0 t (s.readSpace 1 a len) else s.writeSpace 1 a (s.readSpace 0 t len)
      else s

end Sys2Proof.Machine
end

