-- ==== Sys2Proof/Machine/Wheel.lean ====
section
/-! DEFINITION. Machine/Wheel.lean: turns and angles (R270-R273, R431), discipline by references and
marks (R274-R279), and the commands placed at turns (R273, R280). -/

namespace Sys2Proof.Machine

/-! ### Sources (Table 10.1, R38) -/

/-- The fabric plan names this module as the root, or its mode does. -/
def State.isRoot (s : State) : Bool := s.wheel.mode == 2 || !s.fab.plan.isEmpty && planRoot s.fab.plan == s.self

/-- Both signals of a copy are valid: 0 is A0, 1 is A2. -/
def Wheel.copyOk (w : Wheel) (copy : Nat) : Bool := !has w.lost (2 * copy) && !has w.lost (2 * copy + 1)

/-- WHEEL_SRC by mode and lost copies: A0, A2, in band, or none. -/
def Wheel.source (w : Wheel) : Nat :=
  if w.mode = 1 then 2
  else if w.copyOk 0 then 0
  else if w.copyOk 1 then 1
  else if w.mode = 2 then 3 else 2

/-- The root runs on its own oscillator and is never UNSYNC. -/
def State.freeRoot (s : State) : Bool := s.wheel.mode == 2 && s.wheel.source == 3

/-- The source of Table 10.1 as MOD_CRADLE shows it. -/
def State.source (s : State) : Nat := s.rd modCradleWheelSrc 0

/-! ### UNSYNC (R278) -/

def State.setUnsync (s : State) : State :=
  let s := if s.on whlStatusUnsync 0 then s else (s.wr whlStatusUnsync 0 1).setBit whlStatusUnsyncSeen 0
  { s with wheel := { s.wheel with good := none } }

def State.clearUnsync (s : State) : State := (s.wr whlStatusUnsync 0 0).wr whlErrMaxPs 0 0

/-- One whole turn within 10 ns clears UNSYNC; until the first turn is fixed it is held (R431). -/
def State.settleSync (s : State) : State :=
  if s.on whlStatusUnsync 0 && s.wheel.firstMark && !(s.isRoot && s.wheel.source == 2) &&
      (s.freeRoot || s.wheel.good.any fun c => decide (c + s.rd whlTurnLenLen 0 ≤ s.now)) then s.clearUnsync
  else s

/-- A measured error in ps (R277): WHL_ERR holds what its widths can hold; beyond them the value is free. -/
def State.measure (s : State) (e : Int) : State :=
  let free := Config.freeNat s.fresh
  let last := if e.natAbs < 2 ^ 31 then unsigned 32 e else free
  let most := if e.natAbs < 2 ^ 32 then max (s.rd whlErrMaxPs 0) e.natAbs else free
  let s := (s.wr whlErrLastPs 0 last).wr whlErrMaxPs 0 most
  { s with fresh := s.fresh + 1 }

/-- The error is beyond 10 ns, or the module goes on being within it. -/
def State.judge (s : State) (e : Int) : State :=
  if 10000 < e.natAbs then s.setUnsync
  else if s.wheel.good.isNone then { s with wheel := { s.wheel with good := some s.now } } else s

/-! ### Angle 0 (R271, R273, R281) -/

/-- The mode of WHL_CFG comes into force, and the source changes over as a pair (R38, R275). -/
def State.changeOver (s : State) : State :=
  let m := s.rd whlCfgMode 0
  let s := { s with wheel := { s.wheel with mode := if m = 3 then 0 else m } }
  let src := s.wheel.source
  let s := if src = s.source then s else (s.wr modCradleWheelSrc 0 src).satAdd whlStatusChangeovers 0 1
  if s.freeRoot then { s with wheel := { s.wheel with firstMark := true } } else s

/-! ### Power steps (R280) -/

def State.setSteps (s : State) (l : List (Nat × Nat × Nat)) : State :=
  ({ s with wheel := { s.wheel with steps := l } }).wr whlStatusStepsPending 0 l.length

/-- The event of a power step has come. -/
def State.stepDue (s : State) (p : Nat × Nat × Nat) : Bool :=
  decide (p.2.1 < s.rd whlPosTurnNo 0) || (p.2.1 == s.rd whlPosTurnNo 0 && decide (s.angleCount p.2.2 ≤ s.now))

/-- The later of two power steps; of two at one event, the later command. -/
def laterStep (b : Option (Nat × Nat × Nat)) (p : Nat × Nat × Nat) : Option (Nat × Nat × Nat) :=
  match b with
  | some q => if p.2.1 < q.2.1 ∨ (p.2.1 = q.2.1 ∧ p.2.2 < q.2.2) then b else some p
  | none => some p

/-- Power steps whose event has come write CAP_STEP in the order of their events. -/
def State.takeSteps (s : State) : State :=
  let l := s.wheel.steps
  let t := match (l.filter s.stepDue).foldl laterStep none with
    | some p => s.wr modClkStepCapStep 0 p.1
    | none => s
  t.setSteps (l.filter fun p => !s.stepDue p)

/-! ### Turns -/

/-- The next turn begins at T0 + L, with a pending length whose turn it is. -/
def State.nextTurn (s : State) : State :=
  let s := (s.wr whlTurnStartT0 0 (s.rd whlTurnStartT0 0 + s.rd whlTurnLenLen 0)).wrapAdd whlPosTurnNo 0 1
  match s.wheel.pendLen with
  | some (len, turn) =>
    if turn = s.rd whlPosTurnNo 0 then
      let s := s.wr whlTurnLenLen 0 len
      { s with wheel := { s.wheel with pendLen := none } }
    else s
  | none => s

/-- Packets refused for a full record table are sent again at the next turn (R211, R248, R318). -/
def State.retryPackets (s : State) : State :=
  let l := s.fab.again
  let s := { s with fab := { s.fab with again := [] } }
  l.foldl (fun s p =>
    let r := s.sendSeq p.1 p.2.p.typ p.2.p.accFmt p.2.p.addr p.2.p.data p.2.fseq p.2.engine p.2.serial p.2.action
    if r.2 then r.1 else r.1.sendAgain p.1 p.2) s

/-- A rest point begins at every turn whose number is a multiple of TURNS (R422). -/
def State.restTurn (s : State) : State :=
  let n := s.rd modRestCfgTurns 0
  if s.inService ∧ n ≠ 0 ∧ s.rd whlPosTurnNo 0 % n = 0 then
    { s with svc := { s.svc with resting := true, lastRestTurn := s.rd whlPosTurnNo 0 } }
  else s

/-- TURN_START (R271, R273, R281, R310, R399, R422). -/
def execTurnStart (s : State) : Out :=
  .next <|
    if s.powered && s.wheel.running then
      let s := ((s.advanceTo (s.rd whlTurnStartT0 0 + s.rd whlTurnLenLen 0)).takeSteps).nextTurn
      let s := (s.changeOver).settleSync
      let s := { s with meter := { s.meter with winLog2 := s.rd mtrCfgWinLog2 0 } }
      ((s.applyNotices).retryPackets).restTurn
    else s

/-! ### References (R274, R275, R431) -/

/-- A copy is declared lost: without a valid source the module is out of alignment; a root has no marks to follow. -/
def State.loseCopy (s : State) (copy : Nat) (turnSignal : Bool) : State :=
  let s := { s with wheel := { s.wheel with lost := addNew s.wheel.lost (2 * copy + b2n turnSignal) } }
  if s.wheel.source = 2 ∧ (s.isRoot ∨ s.wheel.firstMark = false ∨ 16 ≤ s.wheel.missed) then s.setUnsync else s

/-- TURN_EDGE: the root takes the first edge as angle 0 of turn 0; an edge more than 32 tk from angle 0
loses its copy. -/
def execTurnEdge (copy count : Nat) (s : State) : Out :=
  onUnit (copy < 2) <| .next <|
    if s.powered && s.wheel.running then
      let s := s.advanceTo count
      if s.isRoot && !s.wheel.firstMark && s.wheel.source == copy then
        let s := (s.wr whlTurnStartT0 0 count).wr whlPosTurnNo 0 0
        { s with wheel := { s.wheel with firstMark := true, good := some count } }
      else
        let t0 := s.rd whlTurnStartT0 0
        let near := fun (t : Nat) => decide (count ≤ t + 32) && decide (t ≤ count + 32)
        if near t0 || near (t0 + s.rd whlTurnLenLen 0) || !s.wheel.firstMark then s else s.loseCopy copy true
    else s

/-- WHEEL_REF_LOSS (R275). -/
def execWheelRefLoss (copy : Nat) (turnSignal : Bool) (s : State) : Out :=
  onUnit (copy < 2) <| .next <| if s.powered then s.loseCopy copy turnSignal else s

/-! ### Marks (R276, R277) -/

/-- The parent port and the two alternates of a module. -/
def planParents (p : Bytes) (m : Nat) : List Nat :=
  [planParent p m % 16, planParent p m / 16 % 16, planParent p m / 256 % 16]

/-- Trained ports whose neighbour takes this module as a parent or alternate. -/
def State.childPorts (s : State) : List Nat :=
  (List.range 14).filter fun d => s.neighbour? d && s.portSt d == 2 && has (planParents s.fab.plan (across s.self d)) d

def State.sendMark (s : State) (m : Mark) (except : Option Nat) : State :=
  let out := (s.childPorts.filter fun d => some d != except).map fun d => (d, m)
  { s with wheel := { s.wheel with marks := s.wheel.marks ++ out } }

/-- WHEEL_MARK_SEND: the root's count reaches a multiple of 65,536. -/
def execWheelMarkSend (s : State) : Out :=
  .next <|
    if s.powered && s.wheel.running && s.isRoot then
      let s := s.advanceTo (65536 * ceilDiv s.now 65536)
      s.sendMark ⟨s.now, s.rd whlPosTurnNo 0, s.rd whlTurnStartT0 0, s.rd whlTurnLenLen 0, s.wheel.pendLen⟩ none
    else s

/-- The first trained alternate parent. -/
def State.alternate (s : State) : Option Nat :=
  (planParents s.fab.plan s.self).find? fun d => d < 14 && d != s.rd whlStatusParent 0 && s.portSt d == 2

/-- The turn length that a mark carries, for this turn or one to come (R276, R431). -/
def State.takeLength (s : State) (m : Mark) : State :=
  let turn := s.rd whlPosTurnNo 0
  let pend := fun (s : State) (p : Option (Nat × Nat)) => { s with wheel := { s.wheel with pendLen := p } }
  if !s.wheel.firstMark then pend s m.pend
  else if m.turnNo = turn then pend (s.wr whlTurnLenLen 0 m.len) m.pend
  else if turn < m.turnNo then pend s (if m.len = s.rd whlTurnLenLen 0 then m.pend else some (m.len, m.turnNo))
  else
    match m.pend with
    | some (l, t) => if t ≤ turn then pend (s.wr whlTurnLenLen 0 l) none else pend s m.pend
    | none => pend s none

/-- A mark on the parent port: measured, steered by, forwarded. -/
def State.takeMark (s : State) (port : Nat) (m : Mark) : State :=
  let ps := s.rd fabPortStatusDelayPs port
  let e : Int := ((m.count : Int) - (s.now : Int)) * 1000 + (ps : Int)
  let m' := { m with count := m.count + ps / 1000 }
  let s := s.measure e
  let s := ({ s with wheel := { s.wheel with missed := 0 } } : State).takeLength m
  let s := if s.wheel.firstMark && decide (e.natAbs ≤ 1000000000) then
      { s with wheel := { s.wheel with step := none } }
    else { s with wheel := { s.wheel with step := some (s.now, m') } }
  let s := if s.wheel.firstMark then (s.judge e).settleSync else s
  s.sendMark m' (some port)

/-- WHEEL_MARK: from the parent port, or from the first trained alternate after 16 missing marks. -/
def execWheelMark (port : Nat) (mark : Mark) (s : State) : Out :=
  onUnit (port < 14) <| .next <|
    if s.powered && s.wheel.running && !s.isRoot && s.linkRuns port then
      if s.rd whlStatusParent 0 = port then s.takeMark port mark
      else if 16 ≤ s.wheel.missed ∧ s.alternate = some port then
        ((s.wr whlStatusParent 0 port).satAdd whlStatusChangeovers 0 1).takeMark port mark
      else s
    else s

/-- WHEEL_MARK_LOSS: sixteen marks in a row are missing on the parent port. -/
def execWheelMarkLoss (s : State) : Out :=
  .next <|
    if s.powered && s.wheel.running && !s.isRoot then
      let s := { s with wheel := { s.wheel with missed := 16 } }
      if s.wheel.source = 2 then s.setUnsync else s
    else s

/-! ### A step of the count (R279, R431) -/

/-- Move a registered count by the step. -/
def moved (t old new : Nat) : Nat := t + new - old

/-- A mark's turn as it is at a later count, past a pending length's turn too (R273, R431). -/
def Mark.at_ (m : Mark) (count : Nat) : Mark :=
  let from_ := fun (t0 turn len : Nat) (pend : Option (Nat × Nat)) =>
    let n := (count - t0) / len
    (⟨count, turn + n, t0 + n * len, len, pend⟩ : Mark)
  match m.pend with
  | some (l, t) =>
    let change := m.t0 + (t - m.turnNo) * m.len
    if change ≤ count then from_ change t l none else from_ m.t0 m.turnNo m.len m.pend
  | none => from_ m.t0 m.turnNo m.len none

/-- WHL_COUNT takes the source's count, with the turn the mark carries; timeouts and hints move with it, and so do the
times that dampers are busy for (log 129). -/
def State.stepTo (s : State) (loc : Nat) (m : Mark) : State :=
  let old := s.now
  let new := m.count + (old - loc)
  let r := m.at_ new
  let s := (((s.wr whlCountCount 0 new).wr whlTurnLenLen 0 r.len).wr whlTurnStartT0 0 r.t0).wr whlPosTurnNo 0 r.turnNo
  let waits := s.flue.waits.map fun w => { w with tick := moved w.tick old new }
  let s := { s with flue := { s.flue with waits := waits } }
  let hint := fun (h : Nat × Nat × Nat) => (h.1, moved h.2.1 old new, h.2.2)
  let ds := s.dampers.map fun d => (d.1, { d.2 with
    hints := d.2.hints.map hint
    closes := moved d.2.closes old new
    freeAt := moved d.2.freeAt old new
    holder := d.2.holder.map fun h => (h.1, moved h.2 old new) })
  let s := { s with dampers := ds, wheel := { s.wheel with step := none, firstMark := true, good := some new, pendLen := r.pend } }
  (s.setBit whlStatusStepSeen 0).repEvent 10 0

/-- WHEEL_STEP: at an angle 0 at which no firing is in flight. -/
def execWheelStep (s : State) : Out :=
  .next <|
    match s.wheel.step with
    | none => s
    | some (loc, m) =>
      if s.powered && s.wheel.running && s.now == s.rd whlTurnStartT0 0 && s.fe.firings.all (fun f => !f.launched)
      then s.stepTo loc m
      else s

/-! ### wheel.turn and power.step (R273, R280) -/

def State.turnRefused (s : State) (len turn : Nat) : Bool :=
  decide (turn < s.rd whlPosTurnNo 0 + 2) ||
  s.fe.firings.any (fun f => ((s.graph? f.graph).map fun g => !g.slots.isEmpty).getD false) ||
  s.fe.graphs.any (fun g => g.2.slots.any fun w => decide (windowTicks w len < 64)) ||
  decide (len < 65536) || decide (2 ^ 40 < len) || (decide (s.source < 2) && decide (len % 8 ≠ 0))

def execWheelTurn (o : Origin) (len turn : Nat) (s : State) : Out :=
  .next <| s.command o 0x0140 fun s =>
    if s.turnRefused len turn then s.refuse o (.s 260)
    else ({ s with wheel := { s.wheel with pendLen := some (len, turn) } }).done o []

/-- power.step: cap, turn and angle. -/
def execPowerStep (o : Origin) (cap turn angle : Nat) (s : State) : Out :=
  .next <| s.command o 0x0141 fun s =>
    if turn ≤ s.rd whlPosTurnNo 0 ∨ 16 ≤ s.wheel.steps.length then s.refuse o (.s 261)
    else (s.setSteps (s.wheel.steps ++ [(cap, turn, angle % 65536)])).done o []

end Sys2Proof.Machine
end

