-- ==== Sys2Proof/Machine/Windows.lean ====
section
/-! DEFINITION. Machine/Windows.lean: the commands of the dampers, and ANGLE_EVENT (R272, R281-R294). -/

namespace Sys2Proof.Machine

/-! ### Transfers and grants -/

/-- A transfer of a size that Table 10.3 allows. -/
def transferOk (d : Nat) (t : Transfer) : Bool := decide (0 < t.units) && decide (t.units ≤ maxUnits d)

/-- DAMPER_TRANSFER_ARRIVAL (R282, R283, R286, R289, R291): an engine's transfers are those of its descriptors. -/
def execDamperTransferArrival (damper : Nat) (t : Transfer) (s : State) : Out :=
  onUnit (damper < 272 && requesterOk t.req && transferOk damper t) <| .next <|
    if !s.powered then s
    else if isEngineObs t.req then
      let e := t.req - 1280
      if s.engineRuns e then (s.issue e damper t).takeInbox else s
    else (s.reach damper t none true).takeInbox

/-- DAMPER_GRANT (R288). -/
def execDamperGrant (damper : Nat) (s : State) : Out :=
  onUnit (damper < 272) <| .next <| if s.powered then (s.serveDamper damper).takeInbox else s

/-! ### Windows -/

/-- WINDOW_OPEN: the window is named by its place among the damper's slot entries; its event is past once it has
opened in this turn (R272). -/
def execWindowOpen (damper window : Nat) (s : State) : Out :=
  onUnit (damper < 272) <| .next <|
    match (s.windows damper)[window]? with
    | some w =>
      if s.powered && s.wheel.running then ((s.advanceTo (s.openCount w)).settleDamper damper).takeInbox else s
    | none => s

/-- WINDOW_CLOSE. -/
def execWindowClose (damper window : Nat) (s : State) : Out :=
  onUnit (damper < 272) <| .next <|
    match (s.windows damper)[window]? with
    | some w =>
      if s.powered && s.wheel.running && (s.damper damper).window == some w then
        ((s.advanceTo (s.damper damper).closes).settleDamper damper).takeInbox
      else s
    | none => s

/-! ### Cut-off and release (R292) -/

/-- A holder is cut off at the next unit boundary: an ACCUM keeps the adds made, any other transfer restarts. -/
def State.cutOff (s : State) (d : Nat) (q : Waiting) (g : Nat) : State :=
  let b := boundary q.t g s.now
  let back := if q.t.accum && q.pkt.isNone then { q with t := q.t.after b.1, since := s.now }
    else { q with since := s.now, counted := false }
  let s := if q.t.accum && q.pkt.isNone then s else s.countStop d q
  let s := s.stopHolder d back b.1 b.2
  let s := s.setDamper d { s.damper d with held := addNew (s.damper d).held q.t.req }
  let s := ((s.reqSlot d q.t.req).2.setBit dmpStatusCutSeen d).wr dmpCutLastReq d q.t.req
  (s.showHeld d).post (.s 270) [d, q.t.req]

/-- CUT_OFF: a loose grant held longer than HOLD_LIMIT. A window that opens at that count, and pre-empts it, comes
first. -/
def execCutOff (damper : Nat) (s : State) : Out :=
  onUnit (damper < 272) <| .next <|
    let x := s.damper damper
    let limit := max 100 (s.rd dmpCfgHoldLimit damper)
    match x.holder with
    | none => s
    | some (q, g) =>
      if (q.sched && x.window.any fun w => inWindow w q.t) || decide (q.t.ticks ≤ limit) || !s.powered then s
      else
        let s := ((s.advanceTo (g + limit)).settleDamper damper).takeInbox
        if (s.damper damper).holder = some (q, g) then s.cutOff damper q g else s

/-- A held requester, or all of them, may be granted again. -/
def State.releaseReq (s : State) (d r : Nat) : State :=
  let x := s.damper d
  (s.setDamper d { x with held := if r = 0xFFFF then [] else x.held.filter (· != r) }).showHeld d

/-- DMP_RELEASE. -/
def execDmpRelease (damper req : Nat) (s : State) : Out :=
  onUnit (damper < 272) <| .next <| if s.powered then s.releaseReq damper (req % 65536) else s

/-- damper.release. -/
def execDamperRelease (o : Origin) (damper req : Nat) (s : State) : Out :=
  onUnit (damper < 272) <| .next <| s.command o 0x0142 fun s => (s.releaseReq damper (req % 65536)).done o []

/-! ### Angles -/

/-- Dampers that some window of a resident graph names. -/
def State.windowed (s : State) : List Nat := ((s.fe.graphs.flatMap fun g => g.2.slots.map slotDamper)).eraseDups

/-- ANGLE_EVENT (R272, R281): power steps, then windows closing, then windows opening at the angle; the event of an
angle is one count, and has no part once the count is past it. -/
def execAngleEvent (angle : Nat) (s : State) : Out :=
  onUnit (angle < 65536) <| .next <|
    if s.powered && s.wheel.running then
      let s := (s.advanceTo (s.angleCount angle)).takeSteps
      let ended := fun (s : State) (d : Nat) => (s.damper d).window.isSome && decide ((s.damper d).closes ≤ s.now)
      let s := s.windowed.foldl (fun s d => let s := s.endHolder d; if ended s d then s.shutWindow d else s) s
      (s.windowed.foldl (fun s d => s.settleDamper d) s).takeInbox
    else s

/-! ### Idling -/

/-- One tick with no command waiting (log 12): the count rises; the ctl cycle that was open is over (log 43), the
Sitter's held operations and the held grants are looked at again, rebuilds go on (log 47), and a
vector that its rate has kept back is raised. -/
def State.idle (s : State) : State :=
  let s := s.tick
  if s.powered then ((((s.closeCycle).sitterOn).grantHeld).rebuildOn).raiseOwed else s

end Sys2Proof.Machine
end

