-- ==== Sys2Proof/Machine/Host.lean ====
section
/-! DEFINITION. Machine/Host.lean: ports H and S as links, functions and their resets (R341-R349), the
Sitter, its restarts and its mailboxes (R355-R361, R373, R374). -/

namespace Sys2Proof.Machine

/-! ### Firmware copies (R373, R374) -/

/-- A copy the boot ROM may boot: checked as valid, its VERSION at or above SEC_FLOOR. -/
def State.copyValid (s : State) (i : Nat) : Bool :=
  match s.sec.fw[i]? with
  | some c => c.valid && decide (s.rd secFloorFloor 0 ≤ c.version)
  | none => false

def State.copyVersion (s : State) (i : Nat) : Nat := ((s.sec.fw[i]?).map (·.version)).getD 0

/-- The copy that SEC_FW_SEL names. -/
def State.selCopy (s : State) : Nat := s.rd secFwSelSel 0

/-- The boot ROM boots the named copy, else the other; with neither valid, recovery. The second part says
that some copy runs. -/
def State.boot (s : State) : State × Bool :=
  let sel := s.selCopy
  if s.copyValid sel then
    (({ s with sec := { s.sec with running := sel } }.wr secStateFallback 0 0).wr secStateRecovery 0 0, true)
  else if s.copyValid (1 - sel) then
    (({ s with sec := { s.sec with running := 1 - sel } }.wr secStateFallback 0 1).wr secStateRecovery 0 0, true)
  else ((s.wr secStateRecovery 0 1).post (.s 342) [], false)

/-- A copy that fails its CRC-64 while it is inactive is rewritten from the active one (R394). -/
def State.rewriteCopy (s : State) (k : Nat) : State :=
  let m := s.meter
  let active := fun (l : List Bytes) (i : Nat) => (l[i]?).getD []
  match k with
  | 0 =>
    let i := s.rd prsCopySelRepair 0
    { s with maps := s.maps.set (1 - i) ((s.maps[i]?).getD s.mapNow) }
  | 1 =>
    let i := s.rd prsCopySelCal 0
    { s with meter := { m with cal := m.cal.set (1 - i) (active m.cal i) } }
  | 2 =>
    let i := s.rd prsCopySelRules 0
    { s with meter := { m with rules := m.rules.set (1 - i) (active m.rules i) } }
  | 3 => { s with sec := { s.sec with oldKeys := s.sec.keys } }
  | _ => s

/-- The boot's check of the keys region and of the active copies (F-195). -/
def BootFindings.ok (b : BootFindings) : Bool := b.keysOk && b.copiesOk

/-! ### Links of ports H and S (R39, R341, R350) -/

def linkWidths : List Nat := [16, 8, 4, 2, 1]

/-- The widest link that so many good lanes allow. -/
def widestLink (good : Nat) : Option Nat := linkWidths.find? fun w => w ≤ good

/-- Lanes of a port still good once routed spares (two at most) have come in. -/
def laneSpares (routed : Bool) (failed : List Nat) : Nat := if routed then min 2 failed.length else 0

def State.hSpares (s : State) : Nat := laneSpares (s.on modCradleSpareH 0) s.pci.hFailed

def State.hWidth (s : State) : Option Nat := widestLink (16 - (s.pci.hFailed.length - s.hSpares))

/-- Port H trains to 128 GT/s in Flit Mode at the width its lanes allow. -/
def State.trainH (s : State) : State :=
  let s := s.wr pciHStatusSparesUsed 0 s.hSpares
  match s.hWidth with
  | some w => ((s.wr pciHStatusSpeed 0 7).wr pciHStatusWidth 0 w).wr pciHStatusFlit 0 1
  | none => ((s.wr pciHStatusSpeed 0 0).wr pciHStatusWidth 0 0).wr pciHStatusFlit 0 0

def State.downH (s : State) : State := ((s.wr pciHStatusSpeed 0 0).wr pciHStatusWidth 0 0).wr pciHStatusFlit 0 0

/-- Links and lanes per link of a split (Table 13.5). -/
def splitLinks (split : Nat) : Nat := if split = 1 then 2 else if split = 2 then 4 else 1
def splitLanes (split : Nat) : Nat := if split = 1 then 8 else if split = 2 then 4 else 16

/-- Lanes lost for good by a storage link: those beyond the routed spares, the first two lost. -/
def State.sLost (s : State) (link : Nat) : Nat :=
  let n := splitLanes s.pci.split
  ((s.pci.sFailed.drop (laneSpares (s.on modCradleSpareS 0) s.pci.sFailed)).filter fun l => l / n == link).length

def State.sWidth (s : State) (link : Nat) : Option Nat := widestLink (splitLanes s.pci.split - s.sLost link)

/-! ### Mailboxes (R358-R360) -/

def fnBoxes (fn : Nat) : Nat := if fn = 0 then 8 else 4

/-- The mailbox exists: of a function, or of a bus peer. -/
def originOk : Origin → Bool
  | .box fn m => decide (fn < 3) && decide (m < fnBoxes fn)
  | .bus _ => true

/-- A doorbell: a saved reply again, a busy doorbell counted, or the request taken; a request that no
command can serve is refused at once (R359, R362). -/
def State.takeRequest (s : State) (o : Origin) (req : MbReq) : State :=
  let b := s.box o
  if b.st = 1 then
    match o with
    | .box _ _ => s.satAdd sitMbStateBusyDb (boxNo o) 1
    | .bus _ => s
  else
    match b.reply.filter fun r => r.seq == req.seq with
    | some r => s.signalReply o r.payload
    | none =>
      let s := s.setBox o { b with st := 1, req := req, crossed := false }
      match s.gate o req.cmd with
      | some c => s.refuse o c
      | none => if req.malformed then s.refuse o (.s 302) else s

/-- A request arrives: latched while the Sitter restarts. -/
def State.ringDoorbell (s : State) (o : Origin) (req : MbReq) : State :=
  if !s.powered then s
  else if s.on sitCoreRestarting 0 then { s with sit := { s.sit with latched := s.sit.latched ++ [(o, req)] } }
  else s.takeRequest o req

/-- A write of SIT_MB_DOORBELL that no MB_DOORBELL command stands for: the mailbox's request is what the last doorbell
left there, nothing but zeros before the first (log 104). -/
def State.writeDoorbell (s : State) (fn m : Nat) : State :=
  if originOk (.box fn m) && !has s.pci.inReset fn then s.ringDoorbell (.box fn m) (s.box (.box fn m)).req else s

/-- MB_DOORBELL: numbers beyond the function's mailboxes are ignored, and a function in reset takes
none. -/
def execMbDoorbell (o : Origin) (req : MbReq) (s : State) : Out :=
  .next <|
    match o with
    | .box fn _ => if originOk o && !has s.pci.inReset fn then s.ringDoorbell o req else s
    | .bus p => if s.peerCommands p then s.ringDoorbell o req else s

/-- EVENT_POST (R361). -/
def execEventPost (code : Code) (params : List Nat) (s : State) : Out :=
  .next <| if s.powered then s.post code params else s

/-! ### Function resets (R347-R349, R357) -/

def fromFn (fn : Nat) : Origin → Bool
  | .box f _ => f == fn
  | .bus _ => false

/-- A signing request that belongs to a mailbox of the function. -/
def itemOf (fn : Nat) : SignItem → Bool
  | .report o _ => fromFn fn o
  | .ack o _ => fromFn fn o
  | _ => false

/-- The next FSEQ comes from a block that no firing has drawn from (R236): at every reset and every restart. -/
def State.skipFseqs (s : State) : State := s.wr feFseqNext 0 (s.rd feFseqEndEnd 0)

/-- The Sitter's sync operations of a function are undone: its held arrival no longer counts (R230). -/
def State.dropSync (s : State) (fn : Nat) : State :=
  let gone := s.flue.sitter.filter fun x => fromFn fn x.1
  let s := { s with flue := { s.flue with sitter := s.flue.sitter.filter fun x => !fromFn fn x.1 } }
  gone.foldl (fun s x =>
    match x.2 with
    | (.arrive g, true) =>
      match s.bar? g with
      | some b => s.setBar g { b with second := b.second.filter (· != 1417) }
      | none => s
    | _ => s) s

/-- The function's configuration space, MSI-X, mailboxes and events are cleared, its nonces end, and a
command in progress is undone with S-313 in place of its reply. -/
def State.clearFn (s : State) (fn : Nat) : State :=
  let s := s.dropSync fn
  let mine := fun (k : Nat) => k < 24 && k / 8 == fn
  let stopped := s.sit.boxes.filter fun p => mine p.1 && p.2.st == 1
  let boxes := s.sit.boxes.filter fun p => !mine p.1
  let latched := s.sit.latched.filter fun p => !fromFn fn p.1
  let s := { s with sit := { s.sit with boxes := boxes, events := tdel s.sit.events fn, latched := latched } }
  let s := { s with fe := { s.fe with asked := s.fe.asked.filter fun a => !fromFn fn a.2.2 } }
  let s := { s with pci := { s.pci with
    fns := s.pci.fns.mapIdx (fun i f => if i = fn then ⟨false, false⟩ else f)
    nvme := s.pci.nvme.filter fun c => !fromFn fn c.o } }
  let s := { s with sec := { s.sec with
    nonces := s.sec.nonces.filter (fun n => n.dest != fn), queue := s.sec.queue.filter fun i => !itemOf fn i } }
  let s := (List.range 8).foldl (fun s m => s.wr sitMbStateBusyDb (8 * fn + m) 0) s
  stopped.foldl (fun s p => s.postTo fn (.s 313) [p.2.req.cmd, p.2.req.seq]) s

/-- Completion actions without their record are performed again (R248). -/
def State.repeatActions (s : State) : State :=
  let l := s.fe.actions.map fun a => { a with performed := false }
  let s := { s with fe := { s.fe with actions := l } }
  l.foldl State.perform s

/-- An F0 reset stops every firing in flight for replay, the queues and the host ring. -/
def State.stopF0 (s : State) : State :=
  let s := (s.fe.firings.map (·.fseq)).foldl State.replay s
  let s := (List.range 64).foldl (fun s q => s.wr feSqCfgEnable q 0) s
  let s := (s.wr feHringCtlEnable 0 0).resetReg feHringPtrReg 0
  ({ s with fe := { s.fe with copying := none } }).repeatActions

/-- Table 13.3. -/
def State.resetFn (s : State) (fn : Nat) : State :=
  let s := (s.clearFn fn).skipFseqs
  if fn = 0 then s.stopF0 else s

/-- FUNCTION_LEVEL_RESET. -/
def execFunctionLevelReset (fn : Nat) (s : State) : Out :=
  onUnit (fn < 3) <| .next <| if s.powered then s.resetFn fn else s

/-- F0, F1 and F2 reset together (R348). -/
def State.resetFns (s : State) : State := ((s.resetFn 0).resetFn 1).resetFn 2

/-- PERST_N: low, it also holds the PHY and TRST_N (R40); otherwise a hot reset or a link down. -/
def execPerstN (pinLow : Bool) (s : State) : Out :=
  .next <|
    let s := if s.powered then s.resetFns else s
    if pinLow then
      let s := { s with power := { s.power with perstN := false, trstN := false, tap := none } }
      ({ s with pci := { s.pci with inReset := [0, 1, 2] } }).downH
    else s

/-- PERST_N_RELEASE. -/
def execPerstNRelease (s : State) : Out :=
  .next <|
    if s.power.perstN then s
    else
      let s := { s with power := { s.power with perstN := true, trstN := true } }
      let s := { s with pci := { s.pci with inReset := [] } }
      if s.powered then s.trainH else s

/-- CONFIGURATION_WRITE: Bus Master Enable and the power state of a function; D3hot to D0 is a function
reset (R347). -/
def execConfigurationWrite (fn : Nat) (bme d3hot : Bool) (s : State) : Out :=
  onUnit (fn < 3) <| .next <|
    if !s.powered || has s.pci.inReset fn then s
    else if ((s.pci.fns[fn]?).map (·.d3hot)).getD false && !d3hot then s.resetFn fn
    else { s with pci := { s.pci with fns := s.pci.fns.mapIdx fun i f => if i = fn then ⟨bme, d3hot⟩ else f } }

/-! ### Lanes of ports H and S (R39) -/

/-- HOST_LANE_LOSS: a routed spare comes in, or the link narrows; without a width it goes down. -/
def State.loseHLane (s : State) (lane : Nat) : State :=
  if has s.pci.hFailed lane then s
  else
    let used := s.hSpares
    let s := { s with pci := { s.pci with hFailed := s.pci.hFailed ++ [lane] } }
    let s := if used < s.hSpares then (s.repEvent 11 0).commitRepair else s
    let s := if used < s.hSpares ∧ s.hSpares = 2 then s.exhaust 7 0 else s
    if s.hWidth.isNone then (s.resetFns).downH
    else if s.rd pciHStatusSpeed 0 = 0 then s else s.trainH

/-! ### The Sitter's restarts (R355-R357) -/

/-- A restart begins: Sitter work stops at descriptor boundaries. -/
def State.startRestart (s : State) (cause : Nat) : State :=
  if s.on sitCoreRestarting 0 then s
  else
    let sitter := fun (h : HeldDesc) => h.fseq.isNone
    let anew := fun (h : HeldDesc) =>
      if sitter h && !h.placed then
        { h with started := false, waiting := false, met := false, readHeld := false, sent := 0, offs := [], src := []
                 todo := [] }
      else h
    let s := (s.engines.map (·.1)).foldl (fun s e =>
      let x := s.engine e
      if e < 128 then s
      else
        let gone := (x.held.filter fun h => sitter h && !h.placed).map (·.serial)
        let s := (x.held.filter sitter).foldl State.dmaUndone s
        (s.setEngine e { x with held := x.held.map anew }).leaveDampers (engineObserver e) gone) s
    let s := (s.skipFseqs.wr sitCoreRestarting 0 1).satAdd sitCoreRestarts 0 1
    { s with sit := { s.sit with restartCause := cause } }

/-- F-190: no core is left for the pair (R355). -/
def State.sitterLost (s : State) : State := (s.post (.f 190) []).moduleFault (.f 190)

/-- A core of the pair is retired and the spare takes its place. -/
def State.retireCore (s : State) (first : Bool) : State :=
  let core := if first then s.rd sitCorePairA 0 else s.rd sitCorePairB 0
  let spare := s.rd sitCoreSpare 0
  let s := if first then s.wr sitCorePairA 0 spare else s.wr sitCorePairB 0 spare
  let s := { s with rep := { s.rep with coresRetired := s.rep.coresRetired ++ [core] } }
  (((s.wr sitCoreSpare 0 3).repEvent 8 core).exhaust 10 0).commitRepair

/-- LOCKSTEP_MISMATCH (R355). -/
def execLockstepMismatch (aFails bFails : Bool) (s : State) : Out :=
  .next <|
    if !s.powered then s
    else if !aFails && !bFails then (s.satAdd sitCoreTransient 0 1).startRestart 0
    else if (aFails && bFails) || s.rd sitCoreSpare 0 == 3 then s.sitterLost
    else (s.retireCore aFails).startRestart 0

/-- HEARTBEAT_LOSS (R355). -/
def execHeartbeatLoss (s : State) : Out := .next <| if s.powered then s.startRestart 0 else s

/-- A command that was in progress: completed when its effect is visible, else undone. A launch whose
slot is written and a token that is applied go on to their reply; sitter.restart, fw.activate and
reset.warm are done; what the others reply is not stated. -/
def State.settleBox (s : State) (k : Nat) (b : Box) (o : Origin) : State :=
  let slotWritten := s.fe.asked.any fun a => decide (a.2.2 = o)
  let applied := s.sec.queue.any fun i => match i with
    | .ack p _ => decide (p = o)
    | _ => false
  if slotWritten || applied then
    { s with sit := { s.sit with boxes := tput s.sit.boxes k { b with crossed := true } } }
  else if has [3, 0x0403, 0x0500] b.req.cmd then s.reply o (.s 0) true []
  else
    let nvme := s.pci.nvme.filter fun c => decide (c.o ≠ o)
    let keep := fun (i : SignItem) => match i with
      | .report p _ => decide (p ≠ o)
      | _ => true
    let queue := s.sec.queue.filter keep
    let s := { s with pci := { s.pci with nvme := nvme }, sec := { s.sec with queue := queue } }
    ({ s with fresh := s.fresh + 1 }).reply o (.s (Config.freeNat s.fresh % 2 ^ 16)) true []

/-- The origin of a mailbox number. -/
def boxOrigin (k : Nat) : Origin := if k < 24 then .box (k / 8) (k % 8) else .bus (k - 24)

/-- Every command in progress is completed or undone, then the latched doorbells are served in order. -/
def State.serveLatched (s : State) : State :=
  let running := s.sit.boxes.filter fun p => p.2.st == 1
  let s := running.foldl (fun s p => s.settleBox p.1 p.2 (boxOrigin p.1)) s
  let l := s.sit.latched
  let s := { s with sit := { s.sit with latched := [] } }
  l.foldl (fun s p => s.takeRequest p.1 p.2) s

/-- SITTER_RESTART_COMPLETE (R356, R357, R371, R374): a keys region or an active copy that fails its check is a
module fault. Without a valid firmware copy service gives way to recovery; a warm reset waits in it. -/
def execSitterRestartComplete (s : State) (found : BootFindings := ⟨true, true, []⟩) : Out :=
  .next <|
    if s.powered && s.on sitCoreRestarting 0 then
      if !found.ok then ((s.wr sitCoreRestarting 0 0).post (.f 195) []).moduleFault (.f 195)
      else
        let r := (found.stale.foldl State.rewriteCopy s).boot
        let s := (r.1.wr sitCoreRestarting 0 0).wr secIdNextNext 0 (r.1.rd secKeystateIdEnd 0)
        let s := match s.svc.phase, r.2 with
          | .recovery c, true => { s with svc := { s.svc with phase := if c = 0 then .service else .down c } }
          | .service, false => { s with svc := { s.svc with phase := .recovery 0 } }
          | _, _ => s
        s.serveLatched
    else s

/-! ### mb.poll, sitter.status, sitter.restart (R361, R356) -/

/-- The destination that a mailbox asks for. -/
def destOf : Origin → Nat
  | .box fn _ => fn
  | .bus p => 3 + p

/-- An event in a reply: the letter of its code (0 L, 1 F, 2 S), the number, its count, its parameters. -/
def PEvent.payload (e : PEvent) : List Nat :=
  (match e.code with
    | .l n => [0, n]
    | .f n => [1, n]
    | .s n => [2, n]) ++ [e.count, e.params.length] ++ e.params

def execMbPoll (o : Origin) (s : State) : Out :=
  .next <| s.command o 0x0001 fun s =>
    let l := tget [] s.sit.events (destOf o)
    let s := { s with sit := { s.sit with events := tset [] s.sit.events (destOf o) (l.drop 64) } }
    s.done o ((l.take 64).flatMap PEvent.payload)

def execSitterStatus (o : Origin) (s : State) : Out :=
  .next <| s.command o 0x0002 fun s => s.done o [s.regWord sitCoreReg 0, s.copyVersion s.sec.running]

def execSitterRestart (o : Origin) (s : State) : Out :=
  .next <| s.command o 0x0003 fun s =>
    let b := s.box o
    (s.setBox o { b with st := 1, req := { b.req with cmd := 3 } }).startRestart 1

end Sys2Proof.Machine
end

