-- ==== Sys2Proof/Machine/Store.lean ====
section
/-! DEFINITION. Machine/Store.lean: port S, its drives and the storage commands (R350-R354), and lost
lanes of ports H and S (R39). -/

namespace Sys2Proof.Machine

/-! ### Links (R350, R354) -/

/-- Every storage command in progress on a link ends with a code. -/
def State.endStores (s : State) (link : Nat) (c : Code) : State :=
  let l := s.pci.nvme.filter fun n => n.link == link
  let s := { s with pci := { s.pci with nvme := s.pci.nvme.filter fun n => n.link != link } }
  l.foldl (fun s n => s.refuse n.o c) s

/-- A link trains to 128 GT/s at the width its lanes allow, and its controller becomes ready. -/
def State.trainS (s : State) (link : Nat) : State :=
  match s.sWidth link with
  | none => s
  | some w =>
    let s := { s with pci := { s.pci with sUp := addNew s.pci.sUp link } }
    ((s.wr pciSStatusSpeed link 7).wr pciSStatusWidth link w).wr pciSStatusReady link 1

/-- A link goes down: its commands end with S-312. -/
def State.downS (s : State) (link : Nat) : State :=
  let s := { s with pci := { s.pci with sUp := s.pci.sUp.filter (· != link) } }
  let s := ((s.wr pciSStatusSpeed link 0).wr pciSStatusWidth link 0).wr pciSStatusReady link 0
  s.endStores link (.s 312)

/-- PCI_S_CFG.SPLIT takes effect, and every link trains anew. -/
def State.applySplit (s : State) : State :=
  let s := (List.range 4).foldl State.downS s
  let v := s.rd pciSCfgSplit 0
  let s := { s with pci := { s.pci with split := if v = 3 then 0 else v } }
  (List.range (splitLinks s.pci.split)).foldl State.trainS s

/-- STORAGE_LINK_DOWN. -/
def execStorageLinkDown (link : Nat) (s : State) : Out :=
  onUnit (link < 4) <| .next <| if has s.pci.sUp link then (s.downS link).post (.s 312) [link] else s

/-- STORAGE_LINK_RETRAIN: each 100 ms while the link is down. -/
def execStorageLinkRetrain (link : Nat) (up : Bool) (s : State) : Out :=
  onUnit (link < 4) <| .next <|
    if s.powered && up && !has s.pci.sUp link && decide (link < splitLinks s.pci.split) then
      let t := s.trainS link
      if has t.pci.sUp link then t.post (.s 312) [link] else s
    else s

/-! ### Drives (R352, R354) -/

/-- The command has its stack extent mapped into the inbound window. -/
def NvmeCmd.mapped (c : NvmeCmd) (link a n : Nat) : Bool := c.link == link && !c.flushing && inside a n c.addr c.bytes

/-- The transfers of a drive's access: at the channels, and for a read at the storage port (Table 10.3). -/
def driveParts (addr n : Nat) (read : Bool) : List (Nat × Nat) :=
  (extentPieces false read (3, addr, n)).map (fun p => (p.damper, p.units)) ++
    (if read then (extentPieces false true (5, addr, n)).map fun p => (271, p.units) else [])

/-- DRIVE_REQUEST: a write (with data) or a read by a drive, inside a mapped extent, or completed with
Unsupported Request. A port-die engine carries it, and it waits while a damper does not grant it (R352, log 130). -/
def execDriveRequest (link addr len : Nat) (data : Option Bytes) (s : State) : Out :=
  onUnit (link < 4) <| .next <|
    if !has s.pci.sUp link then s
    else
      let n := match data with
        | some b => b.length
        | none => len
      if s.pci.nvme.any fun c => c.mapped link addr n then
        let t : Transfer := ⟨engineObserver s.pieceEngine, 0, 2 ^ 32, false, false, data.isNone, 0, 0⟩
        let l := driveParts addr n data.isNone
        if !s.passesAll t l then s
        else
          let s := s.countParts t l
          match data with
          | some b => (s.store addr b).sitterMoves b.length
          | none => s.sitterMoves n
      else s.satAdd pciSStatusUrCnt link 1

/-- NVME_COMPLETION: the oldest command of the link. A store.write goes on to its Flush, whose completion
ends it; an error status ends a command with S-310 and the status. -/
def execNvmeCompletion (link : Nat) (status : Nat) (s : State) : Out :=
  onUnit (link < 4) <| .next <|
    match s.pci.nvme.find? fun c => c.link == link with
    | none => s
    | some c =>
      let rest := s.pci.nvme.erase c
      if status ≠ 0 then ({ s with pci := { s.pci with nvme := rest } }).reply c.o (.s 310) false [status]
      else if c.write && !c.flushing then
        let l := updFirst (fun d => decide (d = c)) (fun d => { d with flushing := true, holds := none }) s.pci.nvme
        { s with pci := { s.pci with nvme := l } }
      else ({ s with pci := { s.pci with nvme := rest } }).done c.o (if c.write then [c.crc] else [])

/-! ### Commands (R351, R353) -/

/-- store.list: link, namespace, LBAs and LBA size of every namespace of the links that are up. -/
def execStoreList (o : Origin) (s : State) : Out :=
  .next <| s.command o 0x0200 fun s =>
    let all := s.pci.sUp.flatMap fun l => (List.range 16).map fun i => (l, i + 1)
    s.done o ((all.filter fun p => Config.namespaceLba p.1 p.2 != 0).flatMap fun p =>
      [p.1, p.2, Config.namespaceLba p.1 p.2, Config.namespaceLbaBytes p.1 p.2])

/-- A resident graph's region by REGION_ID. -/
def State.regionById (s : State) (id : Nat) : Option Nat :=
  s.fe.graphs.findSome? fun g => g.2.regions.find? fun r => regId r == id

/-- A resident graph's parameter by PARAM_ID, with its graph. -/
def State.paramById (s : State) (id : Nat) : Option (Nat × Nat) :=
  s.fe.graphs.findSome? fun g => (g.2.params.find? fun p => parId p == id).map fun p => (g.1, p)

/-- Where a storage command's bytes lie, and the copied thing and copy they are; current copies where
there are two (R258, R353). -/
def State.sideExtent (s : State) : StoreSide → Option (Nat × Nat × Option (Nat × Nat))
  | .extent a n => if spaceOk 3 a n then some (a, n, none) else none
  | .region id =>
    match s.regionById id with
    | none => none
    | some r =>
      if regSpace r != 3 then none
      else if regKind r = 1 then
        let c := tget 0 s.fe.cur (regId r)
        some (regBase r + c * copyStride (regBytes r), regBytes r, some (regId r, c))
      else some (regBase r, regBytes r, none)
  | .param id =>
    match s.paramById id with
    | none => none
    | some (g, p) =>
      let k := parKey g (parId p)
      let c := tget 0 s.fe.cur k
      some (parBase p + c * copyStride (parBytes p), parBytes p, some (k, c))

/-- Bytes of stack memory that a resident graph declares: regions and parameters, both copies, and its
image. -/
def Graph.declaresBytes (g : Graph) (a n : Nat) : Bool :=
  g.regions.any (fun r => regSpace r == 3 &&
    overlaps a n (regBase r) (if regKind r = 1 then copyStride (regBytes r) + regBytes r else regBytes r)) ||
  g.params.any (fun p => overlaps a n (parBase p) (copyStride (parBytes p) + parBytes p)) ||
  overlaps a n g.base (imgImageBytes g.header)

/-- A store.read destination that cannot be taken: no INPUT region, in use, or declared (R353). -/
def State.readRefusal (s : State) : StoreSide → Option Code
  | .extent a n => if s.fe.graphs.any fun g => g.2.declaresBytes a n then some (.s 314) else none
  | .region id =>
    match s.regionById id with
    | none => some (.s 302)
    | some r =>
      if regKind r ≠ 0 then some (.s 302)
      else if s.fe.firings.any fun f => ((s.graph? f.graph).map fun g => g.regions.any fun x => regId x == id).getD false
      then some (.s 314) else none
  | .param _ => some (.s 302)

/-- A storage command goes to its drive. -/
def State.queueNvme (s : State) (c : NvmeCmd) : State :=
  let b := s.box c.o
  let s := s.setBox c.o { b with st := 1 }
  { s with pci := { s.pci with nvme := s.pci.nvme ++ [c] } }

/-- store.read. -/
def execStoreRead (o : Origin) (link ns lba : Nat) (side : StoreSide) (s : State) : Out :=
  .next <| s.command o 0x0201 fun s =>
    match s.nsRefusal link ns, s.readRefusal side, s.sideExtent side with
    | some c, _, _ => s.refuse o c
    | none, some c, _ => s.refuse o c
    | none, none, none => s.refuse o (.s 302)
    | none, none, some e => s.queueNvme ⟨o, link, ns, lba, false, e.1, e.2.1, false, 0, none⟩

/-- The CRC-64 of the bytes written; free when a line of the source cannot be read (R178). -/
def State.storeCrc (s : State) (a n : Nat) : Nat :=
  if (s.badIn a n).isSome then Config.freeNat s.fresh % 2 ^ 64 else crc64 (mreadN s.mem.stack a n)

/-- store.write. -/
def execStoreWrite (o : Origin) (link ns lba : Nat) (side : StoreSide) (s : State) : Out :=
  .next <| s.command o 0x0202 fun s =>
    match s.nsRefusal link ns, s.sideExtent side with
    | some c, _ => s.refuse o c
    | none, none => s.refuse o (.s 302)
    | none, some e =>
      let s := { s with fresh := s.fresh + 1 }
      s.queueNvme ⟨o, link, ns, lba, true, e.1, e.2.1, false, s.storeCrc e.1 e.2.1, e.2.2⟩

/-- store.port. -/
def execStorePort (o : Origin) (s : State) : Out := .next <| s.command o 0x0203 fun s => (s.applySplit).done o []

/-! ### Lost lanes (R39) -/

/-- A lane of a storage link is lost: a routed spare comes in, or the link narrows or goes down. -/
def State.loseSLane (s : State) (link lane : Nat) : State :=
  let n := splitLanes s.pci.split * link + lane
  if has s.pci.sFailed n || decide (splitLanes s.pci.split ≤ lane) || decide (splitLinks s.pci.split ≤ link) then s
  else
    let used := laneSpares (s.on modCradleSpareS 0) s.pci.sFailed
    let s := { s with pci := { s.pci with sFailed := s.pci.sFailed ++ [n] } }
    let now := laneSpares (s.on modCradleSpareS 0) s.pci.sFailed
    let s := if used < now then (s.repEvent 11 1).commitRepair else s
    let s := if used < now ∧ now = 2 then s.exhaust 7 1 else s
    if !has s.pci.sUp link then s
    else
      match s.sWidth link with
      | some w => s.wr pciSStatusWidth link w
      | none => (s.downS link).post (.s 312) [link]

/-- HOST_LANE_LOSS. -/
def execHostLaneLoss (link : PcieLink) (lane : Nat) (s : State) : Out :=
  onUnit (lane < 16) <| .next <|
    if s.powered then
      match link with
      | .h => s.loseHLane lane
      | .s l => s.loseSLane l lane
    else s

end Sys2Proof.Machine
end

