-- ==== Sys2Proof/Machine/Mgmt.lean ====
section
/-! DEFINITION. Machine/Mgmt.lean: the management bus: frame filters, requests, time and the loss of
PLCA beacons (R363-R367). Peers are named by their SCI. -/

namespace Sys2Proof.Machine

/-- A dropped frame is counted, and S-320 posted, at most once per second (R365). -/
def State.dropFrame (s : State) (f : Fld) : State :=
  let s := s.satAdd f 0 1
  if s.now < tget 0 s.sit.nextAt 10 then s
  else ({ s with sit := { s.sit with nextAt := tset 0 s.sit.nextAt 10 (s.now + 1000000000) } }).post (.s 320) []

/-- A peer has a right: bit 0 COMMAND, 1 TIME, 2 RECORDS. -/
def State.peerRight (s : State) (sci r : Nat) : Bool := s.mgmt.peers.any fun e => e.sci == sci && bit e.rights r

/-- The secure association of a frame. -/
def State.frameSa (s : State) (f : MgmtFrame) : Option Nat :=
  s.mgmt.peers.findIdx? fun e => e.sci == f.sci && e.an == f.an

/-- A KIND 0x01 request of a COMMAND peer; during a Sitter restart frames are not answered (R356). -/
def State.peerRequest (s : State) (sci : Nat) (req : MbReq) : State :=
  if s.peerRight sci 0 && !s.on sitCoreRestarting 0 then s.takeRequest (.bus sci) req else s

/-- A KIND 0x03 time frame of a TIME peer is stamped in wheel count. -/
def State.peerTime (s : State) (sci tai : Nat) : State :=
  if s.peerRight sci 1 then { s with mgmt := { s.mgmt with time := some (tai, s.now) } } else s

/-- MGMT_FRAME (R365, R366): the filters in their order, then the content. -/
def execMgmtFrame (f : MgmtFrame) (s : State) : Out :=
  .next <|
    if !s.powered then s
    else if !f.fcsOk then s.dropFrame sitMgmtCntNoise
    else if !f.secTag || !s.mgmt.peers.any (fun e => e.sci == f.sci) then s.dropFrame sitMgmtCntStranger
    else
      match s.frameSa f with
      | none => s.dropFrame sitMgmtCntBadIcv
      | some i =>
        if !f.icvOk then s.dropFrame sitMgmtCntBadIcv
        else
          let next := tget 0 s.mgmt.seen i
          if f.pn + 16 < next then s.dropFrame sitMgmtCntReplay
          else
            let s := { s with mgmt := { s.mgmt with seen := tset 0 s.mgmt.seen i (max next (f.pn + 1)) } }
            if f.kind = 1 then s.peerRequest f.sci f.req
            else if f.kind = 3 then s.peerTime f.sci f.tai
            else if f.kind = 2 ∨ f.kind = 4 then s
            else s.dropFrame sitMgmtCntStranger

/-- MGMT_REQUEST: a request that has passed the filters. -/
def execMgmtRequest (peer : Nat) (req : MbReq) (s : State) : Out :=
  .next <| if s.powered then s.peerRequest peer req else s

/-- MGMT_TIME: a time frame that has passed the filters. -/
def execMgmtTime (peer tai : Nat) (s : State) : Out := .next <| if s.powered then s.peerTime peer tai else s

/-- PLCA_BEACON_LOSS (R363): with PLCA on (a NODE_ID of 0 reads as 255), CSMA/CD and S-321. -/
def execPlcaBeaconLoss (s : State) : Out :=
  .next <|
    let id := s.rd sitMgmtCfgNodeId 0
    if s.powered && id != 0 && id != 255 then
      ({ s with mgmt := { s.mgmt with csma := true } }).post (.s 321) []
    else s

end Sys2Proof.Machine
end

