-- ==== Sys2Proof/Machine/Cal.lean ====
section
/-! DEFINITION. Machine/Cal.lean: exact fractions, the calibration table (R400-R402) and the attribution
rule table (R404). -/

namespace Sys2Proof.Machine

/-! ### Fractions -/

/-- A number as numerator over a denominator that is not 0. -/
structure Frac where
  num : Int
  den : Nat
  deriving DecidableEq, Repr

def Frac.ofInt (n : Int) : Frac := ⟨n, 1⟩
def Frac.add (a b : Frac) : Frac := ⟨a.num * b.den + b.num * a.den, a.den * b.den⟩
def Frac.sub (a b : Frac) : Frac := ⟨a.num * b.den - b.num * a.den, a.den * b.den⟩
def Frac.mul (a b : Frac) : Frac := ⟨a.num * b.num, a.den * b.den⟩

/-- Quotient; 0 where the divisor is 0. -/
def Frac.div (a b : Frac) : Frac :=
  if b.num = 0 then ⟨0, 1⟩
  else if 0 < b.num then ⟨a.num * b.den, a.den * b.num.natAbs⟩ else ⟨-(a.num * b.den), a.den * b.num.natAbs⟩

def Frac.le (a b : Frac) : Bool := decide (a.num * b.den ≤ b.num * a.den)
def Frac.lt (a b : Frac) : Bool := !b.le a
def Frac.floor (a : Frac) : Int := a.num / (a.den : Int)
def Frac.ceil (a : Frac) : Int := -((-a.num) / (a.den : Int))

/-- A finite float as a fraction. -/
def fracOf : Val → Option Frac
  | .num neg m e =>
    let n : Int := if neg then -(m : Int) else m
    some (if 0 ≤ e then ⟨n * (2 ^ e.toNat : Nat), 1⟩ else ⟨n, 2 ^ (-e).toNat⟩)
  | _ => none

/-! ### Calibration (Table 15.2) -/

/-- A calibration point: load in per cent of 8.4 kW, then GAIN_I, GAIN_V, OFFSET_I (µA), OFFSET_V (µV), ETA1. -/
structure CalPoint where
  load : Nat
  coef : List Frac
  deriving DecidableEq, Repr

def calLoads : List Nat := [5, 25, 50, 75, 100]

/-- A binary64 or binary32 field as a fraction. -/
def calFloat (b : Bytes) (off fmt : Nat) : Option Frac :=
  fracOf (decodeFlt fmt (field b off (if fmt = 0 then 8 else 4)))

/-- The valid point of a temperature and a load, when its floats are finite. -/
def calPoint (b : Bytes) (t l : Nat) : Option CalPoint :=
  let o := 32 + 32 * (5 * t + l)
  if bit (field b (o + 28) 1) 0 then
    match calFloat b o 0, calFloat b (o + 8) 0, calFloat b (o + 24) 1 with
    | some gi, some gv, some eta =>
      some ⟨calLoads[l]?.getD 0, [gi, gv, .ofInt (signed 32 (field b (o + 16) 4)),
        .ofInt (signed 32 (field b (o + 20) 4)), eta]⟩
    | _, _, _ => none
  else none

def calTemp (b : Bytes) (t : Nat) : Int := signed 16 (field b (24 + 2 * t) 2)

/-- The valid points of a temperature, in load order. -/
def calRow (b : Bytes) (t : Nat) : List CalPoint := (List.range 5).filterMap (calPoint b t)

/-- The valid temperatures with their points. -/
def calRows (b : Bytes) : List (Int × List CalPoint) :=
  ((List.range 3).map fun t => (calTemp b t, calRow b t)).filter fun p => !p.2.isEmpty

def domainGain (b : Bytes) (d : Nat) : Option Frac := calFloat b (512 + 8 * d) 0

def within (x : Option Frac) (lo hi : Nat) : Bool :=
  match x with
  | some f => (Frac.mk lo 100).le f && f.le ⟨hi, 100⟩
  | none => false

/-- A valid point of the table keeps the limits of R400. -/
def calPointOk (b : Bytes) (t l : Nat) : Bool :=
  let o := 32 + 32 * (5 * t + l)
  !bit (field b (o + 28) 1) 0 ||
    (within (calFloat b o 0) 95 105 && within (calFloat b (o + 8) 0) 95 105 && within (calFloat b (o + 24) 1) 90 100)

/-- A calibration table that a CAL token may carry (R400). -/
def calOk (b : Bytes) : Bool :=
  b.length == 616 && field b 0 4 == 0x4C414B53 && field b 4 2 == 1 && !(calRows b).isEmpty &&
    decide (calTemp b 0 < calTemp b 1) && decide (calTemp b 1 < calTemp b 2) &&
    (List.range 3).all (fun t => (List.range 5).all (calPointOk b t)) &&
    (List.range 13).all fun d => within (domainGain b d) 95 105

/-- Linear interpolation of coefficients over rising positions; beyond the ends the nearest segment is
extended; one position gives its own values (R401). -/
def interpolate (x : Frac) : List (Frac × List Frac) → List Frac
  | [] => []
  | [p] => p.2
  | p :: q :: r =>
    if r = [] ∨ x.le q.1 then
      let t := (x.sub p.1).div (q.1.sub p.1)
      (p.2.zip q.2).map fun c => c.1.add ((c.2.sub c.1).mul t)
    else interpolate x (q :: r)

/-- The two positions used: those that bracket x, or the nearest two. -/
def segment (x : Frac) : List (Frac × List CalPoint) → List (Frac × List CalPoint)
  | p :: q :: r => if r = [] ∨ x.le q.1 then [p, q] else segment x (q :: r)
  | l => l

/-- The rows of the temperatures used at a shunt temperature (0.01 °C). -/
def calUsed (b : Bytes) (temp : Int) : List (Frac × List CalPoint) :=
  segment (.ofInt temp) ((calRows b).map fun p => (Frac.ofInt p.1, p.2))

/-- The coefficients at a load in per cent and a shunt temperature. -/
def calAt (b : Bytes) (load : Frac) (temp : Int) : List Frac :=
  interpolate (.ofInt temp) ((calUsed b temp).map fun p =>
    (p.1, interpolate load (p.2.map fun c => (Frac.ofInt c.load, c.coef))))

/-- Per cent of load beyond the valid load points of the temperatures used, and beyond which of them
(R402). -/
def loadBeyond (b : Bytes) (load : Frac) (temp : Int) : Frac :=
  (calUsed b temp).foldl (fun m p =>
    let ls := p.2.map (·.load)
    let lo := Frac.ofInt ((ls.min?).getD 0)
    let hi := Frac.ofInt ((ls.max?).getD 0)
    let d := if load.lt lo then lo.sub load else if hi.lt load then load.sub hi else ⟨0, 1⟩
    if m.lt d then d else m) ⟨0, 1⟩

/-- °C (in 0.01) beyond the span of the valid temperatures. -/
def tempBeyond (b : Bytes) (temp : Int) : Int :=
  let ts := (calRows b).map (·.1)
  let lo := ts.foldl min ((ts.head?).getD 0)
  let hi := ts.foldl max ((ts.head?).getD 0)
  if temp < lo then lo - temp else if hi < temp then temp - hi else 0

/-! ### Rules (Table 15.4) -/

def ruleCounter (b : Bytes) (d : Nat) : Nat := bits (field b (64 + 32 * d) 1) 0 2
def ruleIdleHouse (b : Bytes) (d : Nat) : Bool := bit (field b (64 + 32 * d) 1) 2
def ruleIdle (b : Bytes) (d step : Nat) : Nat := field b (66 + 32 * d + 2 * step) 2
def ruleHouse (b : Bytes) : Nat := field b 16 8
def ruleSitter (b : Bytes) : Nat := field b 24 8

/-- A rule table that a RULES token may carry (R404). -/
def rulesOk (b : Bytes) : Bool :=
  b.length == 480 && field b 0 4 == 0x4C524B53 && field b 4 2 == 1 && (List.range 8).all fun d => ruleCounter b d ≤ 1

/-- A point of the factory's calibration: all 15 are valid (R400); its values are not stated (log 8). -/
def factoryPoint (i : Nat) : Bytes :=
  let v := fun (k n : Nat) => natLe n (Config.factoryCal (8 * i + k))
  v 0 8 ++ v 1 8 ++ v 2 4 ++ v 3 4 ++ v 4 4 ++ natLe 4 1

/-- The factory's calibration table (Table 15.2). -/
def factoryCal : Bytes :=
  let v := fun (k n : Nat) => natLe n (Config.factoryCal (120 + k))
  natLe 4 0x4C414B53 ++ natLe 4 1 ++ v 0 10 ++ natLe 6 0 ++ v 1 2 ++ v 2 2 ++ v 3 2 ++ natLe 2 0 ++
    (List.range 15).flatMap factoryPoint ++ (List.range 13).flatMap fun d => v (4 + d) 8

/-- The active copies, as PRS_COPY_SEL names them; an empty one is the factory's (log 8). -/
def State.calActive (s : State) : Bytes :=
  let b := (s.meter.cal[s.rd prsCopySelCal 0]?).getD []
  if b = [] then factoryCal else b

def State.rulesActive (s : State) : Bytes :=
  let b := (s.meter.rules[s.rd prsCopySelRules 0]?).getD []
  if b = [] then Config.factoryRules else b

/-- The tables in force in this batch (R403). -/
def State.calInForce (s : State) : Bytes := if s.meter.calNow = [] then factoryCal else s.meter.calNow
def State.rulesInForce (s : State) : Bytes := if s.meter.rulesNow = [] then Config.factoryRules else s.meter.rulesNow

/-- The TAI time of a wheel count by the latest time pair; without any, it is not stated. -/
def State.taiAt (s : State) (t : Nat) : Nat :=
  match s.mgmt.time with
  | some p => p.1 + t - p.2
  | none => Config.freeNat s.fresh % 2 ^ 80

/-- No time frame within the last 60 s (R367). -/
def State.timeStale (s : State) : Bool :=
  match s.mgmt.time with
  | some p => decide (p.2 + 60000000000 < s.now)
  | none => true

end Sys2Proof.Machine
end

