-- ==== Sys2Proof/Machine/Trust.lean ====
section
/-! DEFINITION. Machine/Trust.lean: the identity key and its indices (R369-R372), firmware (R373-R376),
attestation (R377-R379), two-party tokens (R380-R387) and test access (R40). -/

namespace Sys2Proof.Machine

/-! ### Identity indices (R371, R372) -/

/-- The first index of the kept block. -/
def keptIndex : Nat := 2 ^ 40 - 1024

def State.idNext (s : State) : Nat := s.rd secIdNextNext 0

/-- Unspent indices, the kept block excluded. -/
def State.idLeft (s : State) : Nat := keptIndex - s.idNext

def keyState (ver idEnd : Nat) : Nat := ver % 2 ^ 16 + 2 ^ 16 * (idEnd % 2 ^ 41)

/-- ID_LOW and ID_OUT as the key runs down. -/
def State.idFlags (s : State) : State :=
  let s := if s.idLeft < 2 ^ 30 ∧ s.on secStateIdLow 0 = false then (s.wr secStateIdLow 0 1).post (.s 343) [] else s
  if s.idLeft = 0 ∧ s.on secStateIdOut 0 = false then (s.wr secStateIdOut 0 1).post (.s 344) [] else s

/-- The next index is spent, after its block is reserved; none where only the kept block is left or the
reservation is refused. -/
def State.spendIndex (s : State) : Option (Nat × State) :=
  let i := s.idNext
  if keptIndex ≤ i then none
  else
    let r := if s.rd secKeystateIdEnd 0 ≤ i then
        s.prsWrite 2 (keyState (s.rd secKeystateKeysVer 0) (s.rd secKeystateIdEnd 0 + 1024)) false
      else (s, true)
    if r.2 ∧ i < r.1.rd secKeystateIdEnd 0 then some (i, (r.1.wr secIdNextNext 0 (i + 1)).idFlags) else none

/-! ### Attestation (R377, Table 14.3) -/

def State.fwDigest (s : State) : Nat :=
  match s.sec.fw[s.sec.running]? with
  | some c => if c.digest = 0 then Config.factoryFwDigest else c.digest
  | none => Config.factoryFwDigest

def State.fwOther (s : State) : Nat :=
  if s.copyValid (1 - s.sec.running) then s.copyVersion (1 - s.sec.running) else 0

def digest32 (b : Bytes) : Bytes := shake256 b 32

def State.stateBits (s : State) : Nat :=
  s.rd secStateOwned 0 + 2 * s.rd secStateDebug 0 + 4 * s.rd secStateRecovery 0 + 8 * s.rd secStateFallback 0 +
    16 * s.rd secStateIdLow 0 + 32 * b2n s.timeStale

/-- The 1,600 bytes of a report. -/
def State.report (s : State) (challenge nonce dk : Nat) : Bytes :=
  let owned := s.on secStateOwned 0
  let fpr := fun (k : Bytes) => if owned then digest32 k else natLe 32 0
  natLe 4 0x54414B53 ++ natLe 2 1 ++ natLe 2 s.stateBits ++ natLe 8 Config.serial ++ natLe 32 challenge ++
  natLe 16 nonce ++ digest32 (Config.identityPublic s.sec.keys.idKey) ++ natLe 4 (s.copyVersion s.sec.running) ++
  natLe 4 s.fwOther ++ natLe 4 (s.rd secFloorFloor 0) ++ natLe 4 0 ++ natLe 32 s.fwDigest ++
  fpr s.sec.keys.owner ++ fpr s.sec.keys.auditor ++ digest32 s.calActive ++ digest32 s.rulesActive ++
  natLe 32 (Config.repairDigest s.mapCommits) ++
  digest32 (s.sec.keys.mgmt.flatMap fun e => natLe 8 e.sci ++ natLe 1 e.rights) ++
  natLe 8 s.idLeft ++ natLe 2 s.self ++ natLe 4 (s.rd fabIncInc 0) ++ natLe 2 0 ++ natLe 8 s.now ++
  natLe 10 (s.taiAt s.now) ++ natLe 14 0 ++ Config.kemPublic dk ++ natLe 32 0

/-- Four live nonces at most for each destination; a fifth ends the oldest (R379). -/
def addNonce (l : List Nonce) (n : Nonce) : List Nonce :=
  let mine := l.filter fun x => x.dest == n.dest
  (if 4 ≤ mine.length then
    match mine.head? with
    | some old => l.erase old
    | none => l
  else l) ++ [n]

/-- A command that waits for its signature. -/
def State.waitsFor (s : State) (o : Origin) (i : SignItem) : State :=
  let b := s.box o
  let s := s.setBox o { b with st := 1 }
  { s with sec := { s.sec with queue := s.sec.queue ++ [i] } }

/-- 1,400 bytes of a large reply from an offset (R378). -/
def largePart (b : Bytes) (offset : Nat) : List Nat := ((b.drop offset).take 1400).map BitVec.toNat

/-- A large reply is kept for its peer; the bus gets 1,400 bytes of it from the request's offset, a function gets it at
the host address that its request names, before STATUS (R378). -/
def State.largeDone (s : State) (o : Origin) (b : Bytes) : State :=
  let x := s.box o
  let s := s.setBox o { x with large := b }
  match o with
  | .box _ _ => (if s.hostReady then s.writeSpace 5 x.req.place b else s).done o []
  | .bus _ => s.done o (largePart b x.req.place)

/-- A request on the bus for a further part of the peer's latest large reply is answered from that reply and does
nothing else (log 132). -/
def State.large (s : State) (o : Origin) (k : State → State) : State :=
  let x := s.box o
  match o with
  | .box _ _ => k s
  | .bus _ => if x.req.place = 0 then k s else s.done o (largePart x.large x.req.place)

/-- attest.report: the certificate of the identity key, or a report (R369, R377). -/
def execAttestReport (o : Origin) (challenge : Nat) (s : State) (certificate : Bool := false) : Out :=
  .next <| s.command o 0x0400 fun s =>
    if s.on secStateIdOut 0 then s.refuse o (.s 344)
    else s.large o fun s =>
      if certificate then s.largeDone o Config.identityCertificate
      else
        let n : Nonce := ⟨destOf o, Config.freeNat s.fresh % 2 ^ 128, Config.freeNat (s.fresh + 1)⟩
        let s := { s with fresh := s.fresh + 2, sec := { s.sec with nonces := addNonce s.sec.nonces n } }
        s.waitsFor o (.report o (s.report challenge n.value n.dk))

/-! ### The signing engine (R370) -/

/-- A batch that is staged and not signed, and not yet asked for. -/
def State.batchWaits (s : State) (seq : Nat) : Bool :=
  s.meter.staging.any (fun b => b.seq == seq && b.signature.isNone) && !has (s.sec.queue.filterMap fun i =>
    match i with
    | .batch n => some n
    | _ => none) seq

/-- SIGNATURE_REQUEST: requests wait in order of arrival. A rotation certificate is signed within its
token (R387). -/
def execSignatureRequest (item : SignItem) (s : State) : Out :=
  .next <|
    let ask := match item with
      | .batch seq => s.batchWaits seq
      | .rotation _ => false
      | _ => true
    if s.powered && ask then { s with sec := { s.sec with queue := s.sec.queue ++ [item] } } else s

/-- A batch header as it is signed: PREV_DIGEST of the header signed before it, and the keys version that
signs (Table 15.6, R411). -/
def finalHeader (h : Bytes) (prev ver : Nat) : Bytes :=
  h.take 24 ++ natLe 32 prev ++ (h.drop 56).take 152 ++ natLe 2 ver ++ h.drop 210

/-- What a signature with an index makes of an item. A report shows the state committed when its
signature begins (R377). -/
def State.signed (s : State) (idx : Nat) (item : SignItem) : State :=
  let sign := fun (m : Bytes) => Config.identitySign s.sec.keys.idKey idx m
  match item with
  | .batch seq =>
    let h := finalHeader (((s.meter.staging.find? fun b => b.seq == seq).map (·.header)).getD []) s.meter.prevDigest
      s.sec.keys.ver
    let l := updFirst (fun b => b.seq == seq) (fun b => { b with header := h, signature := some (sign h) }) s.meter.staging
    { s with meter := { s.meter with staging := l, prevDigest := leNat (digest32 h) } }
  | .report o old =>
    match s.sec.nonces.find? fun n => n.value == field old 48 16 with
    | some n =>
      let body := s.report (field old 16 32) n.value n.dk
      s.largeDone o (body ++ sign body)
    | none => s.largeDone o (old ++ sign old)
  | .ack o msg => s.largeDone o (msg ++ sign msg)
  | .rotation _ => s

/-- SIGNATURE_COMPLETE: the oldest request, with the next unspent index. -/
def execSignatureComplete (s : State) : Out :=
  .next <|
    if s.powered && !s.on sitCoreRestarting 0 then
      match s.sec.queue with
      | [] => s
      | item :: rest =>
        match s.spendIndex with
        | none => s
        | some (i, t) => ({ t with sec := { t.sec with queue := rest } }).signed i item
    else s

/-! ### Token checks (R380, R381, Table 14.6) -/

/-- Header bytes of a token (Table 14.4). -/
def Token.header (t : Token) (kind : Nat) : Bytes :=
  natLe 4 t.magic ++ natLe 1 kind ++ natLe 3 0 ++ natLe 8 t.serial ++ natLe 16 t.nonce ++ natLe 4 t.bodyLen ++ natLe 28 0

def Token.bytes (t : Token) (kind : Nat) : Bytes := t.header kind ++ t.body ++ t.ownerSig ++ t.auditorSig

/-- The keys whose signatures a token needs: those enrolled, or for ENROL those of its body. -/
def State.tokenKeys (s : State) (kind : Nat) (t : Token) : Bytes × Bytes :=
  if kind = 8 then (t.body.take 68, (t.body.drop 68).take 68) else (s.sec.keys.owner, s.sec.keys.auditor)

/-- KIND is allowed in the present state (Table 14.5). -/
def State.kindAllowed (s : State) (kind : Nat) (t : Token) : Bool :=
  if kind = 8 then !s.on secStateOwned 0
  else s.on secStateOwned 0 &&
    (kind != 3 || decide (s.rd secFloorFloor 0 ≤ field t.body 0 4) && decide (field t.body 0 4 ≤ s.copyVersion s.sec.running))

/-- Owner and auditor keys that a body sets, zeros keeping the present ones. -/
def State.newKeys (s : State) (b : Bytes) : Bytes × Bytes :=
  let keep := fun (k old : Bytes) => if k.all (fun x => x == 0) then old else k
  (keep (b.take 68) s.sec.keys.owner, keep ((b.drop 68).take 68) s.sec.keys.auditor)

/-- One entry of a MGMT_KEYS plaintext (R384). -/
def peerOf (b : Bytes) : Peer :=
  ⟨field b 0 8, field b 8 4, field b 12 12, field b 24 32, field b 56 1, field b 57 1⟩

/-- The entries that a MGMT_KEYS body unwraps to. -/
def State.unwrapped (s : State) (t : Token) : Option (List Peer) :=
  match s.sec.nonces.find? fun n => n.value == t.nonce with
  | none => none
  | some n =>
    match Config.unwrapKeys n.dk (t.header 5) t.nonce t.body with
    | none => none
    | some p =>
      if p.length % 64 = 0 ∧ 1 ≤ p.length / 64 ∧ p.length / 64 ≤ 8 then
        some ((List.range (p.length / 64)).map fun i => peerOf (p.drop (64 * i)))
      else none

/-- The body is what its KIND needs (S-336). -/
def State.bodyOk (s : State) (kind : Nat) (t : Token) : Bool :=
  let b := t.body
  if kind = 1 then calOk b
  else if kind = 2 then rulesOk b
  else if kind = 3 then b.length == 4
  else if kind = 4 then b.length == 1 && decide (field b 0 1 ≤ 1)
  else if kind = 5 then (s.unwrapped t).isSome
  else if kind = 6 then
    let k := s.newKeys b
    b.length == 136 && Config.keyAllowed k.1 && Config.keyAllowed k.2 && k.1 != k.2
  else if kind = 8 then
    b.length == 136 && Config.keyAllowed (b.take 68) && Config.keyAllowed (b.drop 68) && b.take 68 != b.drop 68
  else b.isEmpty

/-- The first check that fails. -/
def State.tokenRefusal (s : State) (kind : Nat) (t : Token) : Option Nat :=
  let k := s.tokenKeys kind t
  let m := t.header kind ++ t.body
  if t.magic ≠ 0x4E4B4F54 ∨ t.bodyLen ≠ t.body.length ∨ 8388608 < t.bodyLen ∨
      t.ownerSig.length ≠ Config.signatureSize k.1 ∨ t.auditorSig.length ≠ Config.signatureSize k.2 then some 330
  else if t.serial ≠ Config.serial then some 331
  else if !s.sec.nonces.any (fun n => n.value == t.nonce) then some 332
  else if !Config.xmssVerify k.1 m t.ownerSig then some 333
  else if !Config.xmssVerify k.2 m t.auditorSig then some 334
  else if !s.kindAllowed kind t then some 335
  else if !s.bodyOk kind t then some 336
  else none

/-- token.apply: a refusal changes nothing; a commit that the persistent register refuses answers S-345;
an applied token ends its nonce and is acknowledged with a signature (R381, R382). `extra` is what the
acknowledgement carries besides. -/
def State.applyToken (s : State) (o : Origin) (kind : Nat) (t : Token) (k : State → State × Bool)
    (extra : State → Bytes) : State :=
  s.command o 0x0401 fun s => s.large o fun s =>
    match s.tokenRefusal kind t with
    | some c => s.refuse o (.s c)
    | none =>
      let r := k s
      if !r.2 then r.1.refuse o (.s 345)
      else
        let s := r.1
        let s := { s with sec := { s.sec with nonces := s.sec.nonces.filter fun n => n.value != t.nonce } }
        let msg := digest32 (t.bytes kind) ++ natLe 8 (s.regWord secKeystateReg 0) ++ extra s
        s.waitsFor o (.ack o msg)

def noExtra (_ : State) : Bytes := []

/-- New contents go into the inactive keys copy and are committed by SEC_KEYSTATE (R382, R394). -/
def State.commitKeys (s : State) (idEnd : Nat) (f : Keys → Keys) : State × Bool :=
  let ver := (s.rd secKeystateKeysVer 0 + 1) % 2 ^ 16
  let new : Keys := { f s.sec.keys with ver := ver }
  let r := s.prsWrite 2 (keyState ver idEnd) false
  if r.2 then
    let s := r.1
    let s := { s with sec := { s.sec with keys := new, oldKeys := s.sec.keys } }
    let sa := s.mgmt.seen
    let seen := if new.mgmt = s.mgmt.peers then sa else []
    ({ s with mgmt := { s.mgmt with peers := new.mgmt, seen := seen } }, true)
  else r

/-- Mailboxes and events of peers that lost their channel. -/
def State.dropPeers (s : State) : State :=
  let known := s.busPeers
  let boxes := s.sit.boxes.filter fun p => p.1 < 24 || has known (p.1 - 24)
  let events := s.sit.events.filter fun p => p.1 < 3 || has known (p.1 - 3)
  { s with sit := { s.sit with boxes := boxes, events := events } }

/-! ### Tokens (Table 14.5) -/

/-- CAL: the inactive calibration copy, committed by PRS_COPY_SEL; it ends the batch in progress (R403). -/
def execTokenApplyCal (o : Origin) (t : Token) (s : State) : Out :=
  .next <| s.applyToken o 1 t (fun s =>
    let r := s.prsWrite 5 (s.prsValue 5 ^^^ 2) false
    let m := { r.1.meter with cal := r.1.meter.cal.set (1 - s.rd prsCopySelCal 0) t.body, sealAsked := true }
    if r.2 then ({ r.1 with meter := m }, true) else r) noExtra

/-- RULES. -/
def execTokenApplyRules (o : Origin) (t : Token) (s : State) : Out :=
  .next <| s.applyToken o 2 t (fun s =>
    let r := s.prsWrite 5 (s.prsValue 5 ^^^ 4) false
    let m := { r.1.meter with rules := r.1.meter.rules.set (1 - s.rd prsCopySelRules 0) t.body, sealAsked := true }
    if r.2 then ({ r.1 with meter := m }, true) else r) noExtra

/-- FLOOR: a copy below the new floor is no longer valid (R383). -/
def execTokenApplyFloor (o : Origin) (t : Token) (s : State) : Out :=
  .next <| s.applyToken o 3 t (fun s =>
    let floor := field t.body 0 4
    let r := s.prsWrite 3 floor false
    if r.2 then
      let s := r.1
      let fw := s.sec.fw.map fun c => if c.version < floor then { c with valid := false } else c
      ({ s with sec := { s.sec with fw := fw } }, true)
    else r) noExtra

/-- Debug is unlocked or relocked; a relock ends a debug instruction that is served (R40, R385). -/
def State.setDebug (s : State) (v : Nat) : State :=
  let s := s.wr secStateDebug 0 v
  match s.power.tap with
  | some (.debug _) => if s.on secStateDebug 0 then s else { s with power := { s.power with tap := none } }
  | _ => s

/-- DEBUG (R385). -/
def execTokenApplyDebug (o : Origin) (t : Token) (s : State) : Out :=
  .next <| s.applyToken o 4 t (fun s => (s.setDebug (field t.body 0 1), true)) noExtra

/-- MGMT_KEYS (R384): the new set replaces the old one whole. -/
def execTokenApplyMgmtKeys (o : Origin) (t : Token) (s : State) : Out :=
  .next <| s.applyToken o 5 t (fun s =>
    let r := s.commitKeys (s.rd secKeystateIdEnd 0) fun k => { k with mgmt := (s.unwrapped t).getD k.mgmt }
    if r.2 then (r.1.dropPeers, true) else r) noExtra

/-- OWNER_KEYS. -/
def execTokenApplyOwnerKeys (o : Origin) (t : Token) (s : State) : Out :=
  .next <| s.applyToken o 6 t (fun s =>
    let n := s.newKeys t.body
    s.commitKeys (s.rd secKeystateIdEnd 0) fun k => { k with owner := n.1, auditor := n.2 }) noExtra

/-- The rotation certificate of the old key over both fingerprints and the new public key. -/
def rotationBody (old new : Nat) : Bytes :=
  digest32 (Config.identityPublic old) ++ digest32 (Config.identityPublic new) ++ Config.identityPublic new

/-- ID_ROTATE (R387). -/
def execTokenApplyIdRotate (o : Origin) (t : Token) (s : State) : Out :=
  .next <| s.applyToken o 7 t (fun s =>
    let old := s.sec.keys.idKey
    let body := rotationBody old (old + 1)
    let r := s.commitKeys 1024 fun k => { k with idKey := old + 1 }
    if r.2 then
      let s := r.1
      let s := { s with sec := { s.sec with rotation := body ++ Config.identitySign old keptIndex body } }
      (((s.wr secIdNextNext 0 0).wr secStateIdLow 0 0).wr secStateIdOut 0 0, true)
    else r) fun s => s.sec.rotation

/-- ENROL (R386). -/
def execTokenApplyEnrol (o : Origin) (t : Token) (s : State) : Out :=
  .next <| s.applyToken o 8 t (fun s =>
    let r := s.commitKeys (s.rd secKeystateIdEnd 0) fun k => { k with owner := t.body.take 68, auditor := t.body.drop 68 }
    if r.2 then (r.1.wr secStateOwned 0 1, true) else r) noExtra

/-- RELEASE: owner, auditor and management keys cleared, debug relocked. -/
def execTokenApplyRelease (o : Origin) (t : Token) (s : State) : Out :=
  .next <| s.applyToken o 9 t (fun s =>
    let r := s.commitKeys (s.rd secKeystateIdEnd 0) fun k => { k with owner := [], auditor := [], mgmt := [] }
    if r.2 then (((r.1.wr secStateOwned 0 0).setDebug 0).dropPeers, true) else r) noExtra

/-! ### Firmware (R373, R375, R376) -/

def vendorSigBytes : Nat := 2820

/-- An image's checks but for the floor. -/
def imageValid (b : Bytes) : Bool :=
  let n := field b 8 4
  let off := field b 12 4
  decide (256 ≤ b.length) && field b 0 4 == 0x57464B53 && decide (n ≤ 33554432) && decide (n ≤ b.length) &&
    off + vendorSigBytes == n && Config.xmssVerify Config.vendorPublic (b.take off) ((b.drop off).take vendorSigBytes)

/-- fw.load: the copy that is not running, valid only once the image has passed. -/
def execFwLoad (o : Origin) (src : Source) (image : Bytes) (s : State) : Out :=
  .next <| s.command o 0x0402 fun s =>
    if !s.sourceReady src then s
    else if (s.sourceRefusal src).isSome then s.refuse o ((s.sourceRefusal src).getD (.s 311))
    else
      let i := 1 - s.sec.running
      let ver := field image 4 4
      let ok := imageValid image
      let good := ok && decide (s.rd secFloorFloor 0 ≤ ver)
      let copy : FwCopy := if good then ⟨true, ver, leNat (digest32 image)⟩ else ⟨false, 0, 0⟩
      let s := { s with sec := { s.sec with fw := s.sec.fw.set i copy, fwBytes := s.sec.fwBytes.set i image } }
      if good then s.done o [] else s.refuse o (if ok then .s 339 else .s 338)

/-- fw.activate: SEC_FW_SEL names the other copy, then a Sitter restart. -/
def execFwActivate (o : Origin) (s : State) : Out :=
  .next <| s.command o 0x0403 fun s =>
    let i := 1 - s.sec.running
    if !s.copyValid i then s.refuse o (.s 340)
    else
      let r := s.prsWrite 4 i false
      if !r.2 then r.1.refuse o (.s 345)
      else
        let s := r.1
        let b := s.box o
        (s.setBox o { b with st := 1, req := { b.req with cmd := 0x0403 } }).startRestart 1

/-! ### Test access (R40) -/

/-- TEST_ACCESS: boundary scan and identification always, everything else while debug is unlocked; none
while TRST_N is held low. -/
def execTestAccess (i : JtagInstr) (s : State) : Out :=
  .next <|
    let allowed := match i with
      | .debug _ => s.on secStateDebug 0
      | _ => true
    if s.powered && s.power.trstN && allowed then { s with power := { s.power with tap := some i } } else s

end Sys2Proof.Machine
end

