-- ==== Sys2Proof/Machine/Meter.lean ====
section
/-! DEFINITION. Machine/Meter.lean: metering windows (R396-R406), energy records and batches
(R407-R414) and their delivery (R415). Energies are in nJ until a batch is sealed. -/

namespace Sys2Proof.Machine

/-! ### Whom an energy belongs to (R398): 0 the house record, 1 the Sitter record, 2 + FSEQ a firing -/

/-- The firing, in flight or ended in this window, that an FSLOT names. -/
def State.slotPayer (s : State) (fslot : Nat) : Nat :=
  if fslot = 0xFFFF then 1
  else match s.fe.firings.find? fun f => f.fslot == fslot && 0 < f.attempts with
    | some f => 2 + f.fseq
    | none => match s.meter.ended.reverse.find? fun p => p.1 == fslot with
      | some p => 2 + p.2
      | none => 0

/-- The lower of two payers, where there is one. -/
def lowerPayer (b : Option Nat) (q : Nat) : Option Nat := some (min q (b.getD q))

/-- The record that a count belongs to (R398): bytes that arrive from another module count to the firing in flight with
the lowest FSEQ whose graph declares the bytes they go to, forwarded flits and what no firing declares to the
house. -/
def State.payer (s : State) : Work → Nat
  | .issued n => s.slotPayer n
  | .transit => 0
  | .arrived a =>
    let mine := s.fe.firings.filter fun f =>
      f.launched && match s.graph? f.graph with
        | some g => g.ctx.declared 3 a 1
        | none => false
    match (mine.map (·.fseq)).foldl lowerPayer none with
    | some q => 2 + q
    | none => 0

/-- What one payer drew in one window: active energy by class (kiln, memory, port) and shared. -/
structure Share where
  kiln : Nat
  mem : Nat
  port : Nat
  shared : Nat
  deriving DecidableEq, Repr

def noShare : Share := ⟨0, 0, 0, 0⟩

def Share.act (x : Share) : Nat := x.kiln + x.mem + x.port

def Share.sum (x : Share) : Nat := x.act + x.shared

/-- Add active energy of a domain. -/
def Share.credit (x : Share) (d e : Nat) : Share :=
  if d < 8 then { x with kiln := x.kiln + e } else if d = 8 then { x with mem := x.mem + e } else { x with port := x.port + e }

/-- The counts of a domain by payer. -/
def domainCounts (counts : List (Nat × Nat × Nat)) (d : Nat) : Tab Nat :=
  (counts.filter fun c => c.1 == d).foldl (fun t c => tput t c.2.1 (tget 0 t c.2.1 + c.2.2)) []

/-- The idle energy of a domain: IDLE of each step times its ticks (R405). -/
def idleEnergy (rules : Bytes) (steps : List Nat) (d : Nat) : Nat :=
  ((List.range 6).map fun i => ruleIdle rules d i * steps[i]?.getD 0).sum / 10

/-- One domain of R405: the active energy credited to its payers, and what joins the pool. `g` is the
domain's energy grossed up to the input. -/
def attributeDomain (rules : Bytes) (steps : List Nat) (counts : List (Nat × Nat × Nat)) (d g : Nat)
    (acc : Tab Share × Nat) : Tab Share × Nat :=
  let c := domainCounts counts d
  let total := (c.map (·.2)).sum
  let idle := if ruleCounter rules d = 0 ∨ total = 0 then g else min g (idleEnergy rules steps d)
  let t := c.foldl (fun t p =>
    if 0 < p.2 then tput t p.1 ((tget noShare t p.1).credit d ((g - idle) * p.2 / total)) else t) acc.1
  (t, if ruleIdleHouse rules d then acc.2 else acc.2 + idle)

/-- R405: what each payer but the house's remainder draws in a window of input energy `ein`. -/
def attributeWindow (rules : Bytes) (steps : List Nat) (counts : List (Nat × Nat × Nat)) (gross : List Nat) : Tab Share :=
  let r := (List.range 13).foldl (fun acc d => attributeDomain rules steps counts d (gross[d]?.getD 0) acc) ([], 0)
  let base := (r.1.map fun p => p.2.act).sum
  r.1.map fun p => (p.1, { p.2 with shared := if 0 < base then r.2 * p.2.act / base else 0 })

/-! ### The energy of a window (R401, R402, R406, R414) -/

/-- A coefficient of the calibration, by its place; none is used when the table has no valid point. -/
def coef (cs : List Frac) (i : Nat) : Frac := (cs[i]?).getD ⟨1, 1⟩

/-- The input energy in nJ: sums in mV, µA and nW, 500 ns a sample; OFFSET_I in µA, OFFSET_V in µV. -/
def inputEnergy (w : WindowSample) (c : List Frac) : Frac :=
  let gi := coef c 0
  let gv := coef c 1
  let oi := coef c 2
  let ov := (coef c 3).mul ⟨1, 1000⟩
  let p := (((gv.mul gi).mul (.ofInt w.sumVI)).add ((gv.mul oi).mul (.ofInt w.sumV))).add
    (((ov.mul gi).mul (.ofInt w.sumI)).add ((Frac.ofInt w.n).mul (ov.mul oi)))
  p.mul ⟨1, 2000000⟩

/-- A fraction kept as a whole number: the manual does not say how it is rounded, so one that is not
whole is the number below or the one above; a negative one is left open. -/
def wholeOf (x : Frac) (fresh : Nat) : Nat :=
  let n := x.floor
  if n < 0 then Config.freeNat fresh
  else if Frac.le x (.ofInt n) then n.toNat else n.toNat + Config.freeNat fresh % 2

/-- What the meter makes of one window. -/
structure Win where
  ein : Nat
  ed : List Nat
  gross : List Nat
  unc : Nat
  rho : Int
  flags : Nat
  deriving DecidableEq, Repr

/-- Load in per cent of 8.4 kW by the mean raw power. -/
def rawLoad (w : WindowSample) : Frac := ⟨w.sumVI * 100, w.n * 8400000000000⟩

/-- UNC of a measured window: its mean power is that of its E_in. -/
def uncOf (w : WindowSample) (ein : Nat) (beyond : Frac) (hot : Int) : Nat :=
  let mw : Frac := ⟨ein * 2000, w.n * 1000⟩
  let base := if Frac.le ⟨840000, 1⟩ mw then 5000
    else if ein = 0 then 65535 else ((Frac.ofInt 4200000000).div mw).ceil.toNat
  min 65535 (base + 100 * beyond.ceil.toNat + 200 * (Frac.mk hot 100).ceil.toNat)

/-- ρ in ppm; the manual does not say how it is rounded, and states none for a window without input
energy. The second part is whether it lies outside ±1,000 ppm. -/
def closureOf (eta : Frac) (ed ein fresh : Nat) : Int × Bool :=
  if ein = 0 then
    let r := signed 32 (Config.freeNat fresh)
    (r, decide (1000 < r.natAbs))
  else
    let x := (eta.sub ⟨ed, ein⟩).mul (.ofInt 1000000)
    let n := x.floor
    let out := Frac.lt (.ofInt 1000) x || x.lt (.ofInt (-1000))
    (if Frac.le x (.ofInt n) then n else n + (Config.freeNat fresh % 2 : Nat), out)

/-- ETA1 of a window without samples: within the limits of R400, not otherwise stated. -/
def freeEta (fresh : Nat) : Frac := ⟨9000 + (Config.freeNat fresh % 1001 : Nat), 10000⟩

/-- The window's measurement with the calibration in force; 32 free values are used from `fresh`. -/
def measureWindow (cal : Bytes) (w : WindowSample) (failed : Bool) (fresh : Nat) : Win :=
  let sampled := decide (0 < w.n)
  let load := rawLoad w
  let c := calAt cal load w.temp
  let eta := if sampled then coef c 4 else freeEta fresh
  let ed := (List.range 13).map fun d =>
    wholeOf (((domainGain cal d).getD ⟨1, 1⟩).mul (.ofInt (w.rawD[d]?.getD 0))) (fresh + 1 + d)
  let sum := ed.sum
  let measured := sampled && !failed
  let ein := wholeOf (if measured then inputEnergy w c else (Frac.ofInt sum).div eta) (fresh + 14)
  let gross := (List.range 13).map fun d =>
    if sum = 0 then Config.freeNat (fresh + 15 + d) % (ein / 13 + 1) else ein * ed[d]?.getD 0 / sum
  let beyond := loadBeyond cal load w.temp
  let hot := tempBeyond cal w.temp
  let extrap := !measured || Frac.lt ⟨0, 1⟩ beyond || decide (0 < hot)
  let low := measured && !Frac.le ⟨840000, 1⟩ ⟨ein * 2000, w.n * 1000⟩
  let rho := closureOf eta sum ein (fresh + 28)
  let unc := if measured then uncOf w ein beyond hot else 50000
  { ein := ein, ed := ed, gross := gross, unc := unc, rho := rho.1
    flags := b2n extrap + 2 * b2n low + 4 * b2n rho.2 + 32 * b2n failed }

/-! ### Records (R407, R408) -/

/-- A new record of a payer. -/
def State.newRec (s : State) (payer : Nat) : ERec :=
  if payer = 0 then ⟨3, 0, ruleHouse s.rulesInForce, 0, 0, 0, 0, 0, 0, 0, 0, 0, 0, 0, 0, 0⟩
  else if payer = 1 then ⟨4, 0, ruleSitter s.rulesInForce, 0, 0, 0, 0, 0, 0, 0, 0, 0, 0, 0, 0, 0⟩
  else match s.firing? (payer - 2) with
    | some f => ⟨1, f.fseq, subAccount f.word, subCtag f.word, f.graph, f.queue, f.attempts, 0, 0, 0, 0, 0, 0, 0, 0, 0⟩
    | none => ⟨1, payer - 2, 0, 0, 0, 0, 0, 0, 0, 0, 0, 0, 0, 0, 0, 0⟩

def ERec.payer (r : ERec) : Nat := if r.kind = 3 then 0 else if r.kind = 4 then 1 else 2 + r.fseq

def ERec.energy (r : ERec) : Nat := r.eKiln + r.eMem + r.ePort + r.eShared

/-- A window's share joins a record, with the window's flags, UNC and bounds. -/
def ERec.add (r : ERec) (x : Share) (flags unc t0 t1 : Nat) : ERec :=
  { r with
    eKiln := r.eKiln + x.kiln, eMem := r.eMem + x.mem, ePort := r.ePort + x.port, eShared := r.eShared + x.shared
    flags := r.flags ||| flags, unc := max r.unc unc
    first := if r.energy = 0 then t0 else r.first, last := t1 }

/-- Add a share to its payer's record of the batch. -/
def State.addShare (s : State) (payer : Nat) (x : Share) (flags unc t0 t1 : Nat) : State :=
  if x.sum = 0 then s
  else
    let found := s.meter.recs.any fun r => r.payer == payer
    let recs := if found then updFirst (fun r => r.payer == payer) (fun r => r.add x flags unc t0 t1) s.meter.recs
      else s.meter.recs ++ [(s.newRec payer).add x flags unc t0 t1]
    { s with meter := { s.meter with recs := recs } }

/-- Every share of a window, and the house's remainder. -/
def State.addShares (s : State) (ein : Nat) (l : Tab Share) (flags unc t0 t1 : Nat) : State :=
  let s := l.foldl (fun s p => s.addShare p.1 p.2 flags unc t0 t1) s
  s.addShare 0 ⟨0, 0, 0, ein - (l.map fun p => p.2.sum).sum⟩ flags unc t0 t1

def ERec.isFiring (r : ERec) : Bool := r.kind == 1 || r.kind == 2

/-! ### Sealing (R407-R411) -/

/-- Energy of a record in µJ. -/
def ERec.part (r : ERec) : Nat := r.energy / 1000

def insertRec (x : ERec) : List ERec → List ERec
  | [] => [x]
  | y :: r => if x.fseq ≤ y.fseq then x :: y :: r else y :: insertRec x r

/-- The records of a batch in their order: firings by FSEQ, house, Sitter. -/
def State.sealRecs (s : State) : List ERec :=
  let get := fun (k p : Nat) => (s.meter.recs.find? fun r => r.kind == k).getD (s.newRec p)
  let now := fun (r : ERec) => match s.firing? r.fseq with
    | some f => if r.kind = 1 then { r with attempts := f.attempts } else r
    | none => r
  ((s.meter.recs.filter ERec.isFiring).map now).foldr insertRec [] ++ [get 3 0, get 4 1]

/-- The 124 bytes before the CRC of a record (Table 15.5). `part` is E_PART and `total` E_TOTAL; fields the
manual does not state for the record take free values from `fresh`. -/
def ERec.word (r : ERec) (seq part total fresh : Nat) : Nat :=
  let open_ := fun (stated : Bool) (v i w : Nat) => if stated then v else Config.freeNat (fresh + i) % 2 ^ w
  let fir := r.isFiring
  let drew := decide (0 < r.energy)
  let k := r.eKiln / 1000
  let m := r.eMem / 1000
  let p := r.ePort / 1000
  r.kind + 2 ^ 8 * r.flags + 2 ^ 16 * r.unc + 2 ^ 32 * r.fseq + 2 ^ 96 * r.account + 2 ^ 160 * r.ctag +
    2 ^ 224 * (part % 2 ^ 64) + 2 ^ 288 * (open_ fir total 0 64 % 2 ^ 64) + 2 ^ 352 * open_ drew r.first 1 64 +
    2 ^ 416 * open_ drew r.last 2 64 + 2 ^ 480 * (seq % 2 ^ 64) + 2 ^ 544 * open_ fir r.graph 3 10 +
    2 ^ 554 * open_ fir r.queue 4 6 + 2 ^ 560 * open_ fir (min r.attempts (2 ^ 16 - 1)) 5 16 + 2 ^ 576 * (k % 2 ^ 40) +
    2 ^ 616 * (m % 2 ^ 40) + 2 ^ 656 * (p % 2 ^ 40) + 2 ^ 696 * ((part - k - m - p) % 2 ^ 40) + 2 ^ 736 * r.code

def ERec.bytes (r : ERec) (seq part total fresh : Nat) : Bytes :=
  let b := natLe 124 (r.word seq part total fresh)
  b ++ natLe 4 (crc32c b)

/-- Pairs of one level of a Merkle tree; an odd last node goes up as it is. -/
def merkleUp : List Bytes → List Bytes
  | a :: b :: r => shake256 ([1] ++ a ++ b) 32 :: merkleUp r
  | l => l

def merkleFold : Nat → List Bytes → List Bytes
  | 0, l => l
  | n + 1, l => if l.length ≤ 1 then l else merkleFold n (merkleUp l)

def leafHash (r : Bytes) : Bytes := shake256 ([0] ++ r) 32

/-- ROOT (R410). -/
def merkleRoot (recs : List Bytes) : Bytes := ((merkleFold 17 (recs.map leafHash)).head?).getD []

/-- The inclusion path of leaf i, from the leaf up (RFC 9162, 2.1.3). -/
def merklePath : Nat → Nat → List Bytes → List Bytes
  | 0, _, _ => []
  | n + 1, i, l =>
    if l.length ≤ 1 then []
    else ((l[i ^^^ 1]?).map fun h => [h]).getD [] ++ merklePath n (i / 2) (merkleUp l)

/-- What a sealed batch is made of. -/
structure Sealing where
  seq : Nat
  flags : Nat
  start : Nat
  stop : Nat
  ein : Nat
  root : Bytes
  records : Nat
  deriving DecidableEq, Repr

/-- The 256-byte header (Table 15.6). KEYS_VER and PREV_DIGEST are final when the batch is signed. -/
def State.batchHeader (s : State) (b : Sealing) : Bytes :=
  let windows := if s.meter.windows < 2 ^ 16 then s.meter.windows else Config.freeNat s.fresh
  let tai := fun (i t : Nat) => ({ s with fresh := s.fresh + i }).taiAt t
  natLe 4 0x42544B53 ++ natLe 2 1 ++ natLe 2 b.flags ++ natLe 8 Config.serial ++ natLe 8 b.seq ++
  natLe 32 s.meter.prevDigest ++ b.root ++ digest32 s.calInForce ++ digest32 s.rulesInForce ++ natLe 8 b.start ++
  natLe 8 b.stop ++ natLe 10 (tai 1 b.start) ++ natLe 10 (tai 2 b.stop) ++ natLe 8 b.ein ++ natLe 4 b.records ++
  natLe 4 (unsigned 32 s.meter.resid) ++ natLe 2 s.meter.uncMax ++ natLe 2 windows ++
  natLe 2 (s.rd secKeystateKeysVer 0) ++ natLe 46 0

/-- The notice to every peer with RECORDS (R415). -/
def State.sendNotice (s : State) (b : Sealing) : State :=
  let peers := (s.mgmt.peers.filter fun e => bit e.rights 2).map (·.sci)
  let msg := [b.seq, leNat b.root, b.ein, b.records, b.flags]
  if s.on sitMgmtCfgTxEn 0 then
    { s with sit := { s.sit with busOut := s.sit.busOut ++ peers.eraseDups.map fun p => (p, msg) } }
  else s

/-- A new batch with the active tables (R403). -/
def State.newBatch (s : State) : State :=
  let cal := (s.meter.cal[s.rd prsCopySelCal 0]?).getD []
  let rules := (s.meter.rules[s.rd prsCopySelRules 0]?).getD []
  { s with meter := { s.meter with
      calNow := cal, rulesNow := rules, batchStart := s.meter.winStart, windows := 0, ein := 0, resid := 0, uncMax := 0
      flags := 0, recs := [], sealAsked := false, closeFailPosted := false, gap := false } }

/-- Running totals with the parts of a batch; a firing's total ends with its FINAL record. -/
def newTotals (t : Tab Nat) (recs : List ERec) : Tab Nat :=
  recs.foldl (fun t r =>
    if r.kind = 1 then tput t r.fseq (tget 0 t r.fseq + r.part) else if r.kind = 2 then tdel t r.fseq else t) t

/-- The batch in progress is sealed, staged and queued for its signature; `extra` holds PF_END or
LATE_SEAL. -/
def State.sealBatch (s : State) (extra : Nat) : State :=
  let recs := s.sealRecs
  let ein := s.meter.ein / 1000
  let seq := s.rd mtrBatchNextSeq 0
  let others := ((recs.filter fun r => r.kind != 3).map ERec.part).sum
  let bytes := recs.mapIdx fun i r =>
    let part := if r.kind = 3 then ein - others else r.part
    r.bytes seq part (tget 0 s.meter.totals r.fseq + part) (s.fresh + 3 + 6 * i)
  let flags := recs.foldl (fun n r => n ||| r.flags % 64) 0 ||| extra ||| (if s.meter.gap then 256 else 0)
  let b : Sealing := ⟨seq, flags, s.meter.batchStart, s.meter.winStart, ein, merkleRoot bytes, recs.length⟩
  let staged : Staged := ⟨seq, s.batchHeader b, bytes, none, ein, flags⟩
  let was := s.stagingFull
  let s := if s.meter.gap then s.setBit mtrStatusGapSeen 0 else s
  let s := { s with
    fresh := s.fresh + 3 + 6 * recs.length
    meter := { s.meter with staging := s.meter.staging ++ [staged], totals := newTotals s.meter.totals recs }
    sec := { s.sec with queue := s.sec.queue ++ [SignItem.batch seq] } }
  let s := ((s.wr mtrBatchNextSeq 0 (seq + 1)).sendNotice b).newBatch
  if s.stagingFull && !was then s.post (.s 352) [] else s

/-! ### Window ends (R399, R409) -/

def clampWin (n : Nat) : Nat := max 8 (min 16 n)

/-- A full batch: 65,534 firing records. -/
def State.batchFull (s : State) : Bool := decide (65534 ≤ (s.meter.recs.filter ERec.isFiring).length)

/-- The first angle that is a multiple of 2^n and lies at or after a count, in this turn or a later one; a pending
length holds from the next turn on. -/
def State.nextAngle (s : State) (n t : Nat) : Nat :=
  let end_ := s.nextTurnCount 0
  let at_ := fun (a : Nat) =>
    if t ≤ end_ then s.angleCount a
    else end_ + (t - end_) / s.nextLen * s.nextLen + ceilDiv (a * s.nextLen) 65536
  (((List.range (2 ^ (16 - n) + 1)).map fun k => at_ (k * 2 ^ n)).find? fun c => decide (t ≤ c)).getD t

/-- The first sample boundary at or after a count (R396, R399). -/
def sampleAt (t : Nat) : Nat := ceilDiv t 500 * 500

/-- Where the window in progress ends, on a sample boundary (R399). -/
def State.windowEnd (s : State) (powerFail : Bool) : Nat :=
  sampleAt (if powerFail || s.batchFull then s.now
    else min (s.nextAngle (clampWin s.meter.winLog2) (s.meter.winStart + 100000)) (s.meter.winStart + 100000000))

/-- SEAL_MS in ticks. -/
def State.sealTicks (s : State) : Nat := 1000000 * max 250 (min 60000 (s.rd mtrCfgSealMs 0))

/-- The boundary just reached seals the batch. -/
def State.sealDue (s : State) (powerFail : Bool) : Bool :=
  powerFail || s.meter.sealAsked || s.batchFull || decide (s.meter.batchStart + s.sealTicks ≤ s.now)

/-- MTR_WIN of a window; a ρ outside its 16 bits is not stated. -/
def State.showWindow (s : State) (x : Win) : State :=
  let rho := if -(2 ^ 15 : Int) ≤ x.rho ∧ x.rho < 2 ^ 15 then unsigned 16 x.rho else Config.freeNat s.fresh
  let s := ((s.wr mtrWinEIn 0 (min (x.ein / 1000000) (2 ^ 32 - 1))).wr mtrWinUnc 0 x.unc).wr mtrWinRho 0 rho
  let s := s.wr mtrStatusExtrapNow 0 (x.flags % 2)
  { s with fresh := s.fresh + 1 }

/-- A window that fails the closure check (R406). -/
def State.closeFail (s : State) (x : Win) : State :=
  if bit x.flags 2 then
    let s := s.setBit mtrStatusCloseFailSeen 0
    if s.meter.closeFailPosted then s
    else
      let s := s.post (.s 350) []
      { s with meter := { s.meter with closeFailPosted := true } }
  else s

/-- The window joins the batch. -/
def State.countWindow (s : State) (x : Win) (stop : Nat) (failing : Bool) : State :=
  let m := s.meter
  { s with meter := { m with
      windows := m.windows + 1, ein := m.ein + x.ein, uncMax := max m.uncMax x.unc, flags := m.flags ||| x.flags
      resid := if m.resid.natAbs < x.rho.natAbs then x.rho else m.resid
      winStart := stop, ended := [], failedIn := failing } }

/-- METER_WINDOW_CLOSE. The window the power-fail sequence closes is the last until a restart (R413). -/
def execMeterWindowClose (w : WindowSample) (s : State) : Out :=
  .next <|
    if !s.powered || !s.wheel.running || s.meter.pfClosed || (w.powerFail && s.power.seq.isNone) then s
    else
      let t1 := s.windowEnd w.powerFail
      let s := s.advanceTo t1
      let x := measureWindow s.calInForce w (s.meter.failedIn || !s.meter.inputOk) s.fresh
      let flags := x.flags + 8 * b2n s.timeStale + 16 * s.rd secStateDebug 0
      let t0 := s.meter.winStart
      let s := { s with fresh := s.fresh + 29 }
      let counts := w.counts.map fun c => (c.1, s.payer c.2.1, c.2.2)
      let s := s.addShares x.ein (attributeWindow s.rulesInForce w.stepTicks counts x.gross) flags x.unc t0 t1
      let s := ((s.showWindow x).closeFail x).countWindow { x with flags := flags } t1 (!s.meter.inputOk)
      let s := if s.sealDue w.powerFail then s.sealBatch (if w.powerFail then 64 else 0) else s
      if w.powerFail then { s with meter := { s.meter with pfClosed := true } } else s

/-! ### The input chain (R414) -/

/-- METER_INPUT_FAIL. -/
def execMeterInputFail (s : State) : Out :=
  .next <|
    if !s.powered || !s.meter.inputOk then s
    else
      let s := (s.post (.f 196) []).wr mtrStatusMeterFail 0 1
      { s with meter := { s.meter with inputOk := false, failedIn := true } }

/-- METER_INPUT_RETURN. -/
def execMeterInputReturn (s : State) : Out :=
  .next <|
    if !s.powered || s.meter.inputOk then s
    else
      let s := s.wr mtrStatusMeterFail 0 0
      { s with meter := { s.meter with inputOk := true } }

/-! ### Commands (R409, R412, R415) -/

/-- meter.seal. -/
def execMeterSeal (o : Origin) (s : State) : Out :=
  .next <| s.command o 0x0300 fun s =>
    let s := { s with meter := { s.meter with sealAsked := true } }
    s.done o []

def State.staged (s : State) (seq : Nat) : Option Staged := s.meter.staging.find? fun b => b.seq == seq

/-- meter.batch FETCH: header, signature, records; a signature that is not made yet reads as free bytes. -/
def execMeterBatchFetch (o : Origin) (seq : Nat) (s : State) : Out :=
  .next <| s.command o 0x0301 fun s => s.large o fun s =>
    match s.staged seq with
    | none => s.refuse o (.s 353)
    | some b =>
      let sig := b.signature.getD ((List.range 9893).map (Config.freeByte s.fresh))
      ({ s with fresh := s.fresh + 1 }).largeDone o (b.header ++ sig ++ b.records.flatten)

/-- meter.batch RELEASE: every batch up to the number, but for the newest (R411). -/
def execMeterBatchRelease (o : Origin) (seq : Nat) (s : State) : Out :=
  .next <| s.command o 0x0301 fun s =>
    let mine := s.meter.staging.filter fun b => decide (b.seq ≤ seq)
    if mine.any fun b => b.signature.isNone then s.refuse o (.s 353)
    else
      let newest := ((s.meter.staging.getLast?).map (·.seq)).getD 0
      let kept := s.meter.staging.filter fun b => decide (seq < b.seq) || b.seq == newest
      ({ s with meter := { s.meter with staging := kept } }).done o []

/-- meter.batch PROOF: the record, then the hashes of its path. -/
def execMeterBatchProof (o : Origin) (seq index : Nat) (s : State) : Out :=
  .next <| s.command o 0x0301 fun s =>
    match s.staged seq with
    | none => s.refuse o (.s 353)
    | some b =>
      match b.records[index]? with
      | none => s.refuse o (.s 302)
      | some r => s.done o (leNat r :: (merklePath 17 index (b.records.map leafHash)).map leNat)

end Sys2Proof.Machine
end

