-- ==== Sys2Proof/Machine/Power.lean ====
section
/-! DEFINITION. Machine/Power.lean: the tile clock's steps and throttles (R23, R26, R35, R36, R44, R6),
the power-fail sequence (R29-R33, R37) and regulator phases (R28). -/

namespace Sys2Proof.Machine

/-! ### The tile clock (Table 1.6, Table 1.10) -/

/-- CAP_STEP as it is read: 6 and 7 read as 5. -/
def State.capStep (s : State) : Nat := min 5 (s.rd modClkStepCapStep 0)

/-- The step that the cap, the junctions, the inlet, a low input and the draw ask for: the slowest. -/
def State.targetStep (s : State) : Nat :=
  max s.capStep (max s.power.thermStep (max s.power.inletStep (max s.power.lowVStep s.power.drawStep)))

/-- The step that a draw asks for (R26, Table 1.2): above 8.4 kW one slower than the clock's or slower
still, else none slower than it asked for before. How many steps hold the draw is not stated (log 111). -/
def State.drawRequest (s : State) (draw : Nat) : Nat :=
  let n := Config.freeNat s.fresh
  if 8400 < draw then min 5 (s.rd modClkStepStep 0 + 1 + n % 5) else n % (s.power.drawStep + 1)

/-- No pass streams: every pass boundary. -/
def State.passBoundary (s : State) : Bool := s.passes.all (·.stopped)

/-- SLOW_POWER_STEP (R26, R36): the draw in W makes its request, and at a pass boundary the pending step
comes into force. -/
def execSlowPowerStep (s : State) (draw : Nat := 0) : Out :=
  .next <|
    if s.powered then
      let s := { s with fresh := s.fresh + 1, power := { s.power with drawStep := s.drawRequest draw } }
      if s.passBoundary then s.wr modClkStepStep 0 s.targetStep else s
    else s

/-- CAP_STEP is written; 6 and 7 are kept as 5, which is what they read as (Table 1.10). -/
def State.setCap (s : State) (v : Nat) : State := if s.powered then s.wr modClkStepCapStep 0 (min 5 (v % 8)) else s

/-- CAP_STEP_WRITE. -/
def execCapStepWrite (v : Nat) (s : State) : Out := .next <| s.setCap v

/-- THERMAL_STEP_DOWN: one step below the step in force and the step down still pending; a cap written in the
same ctl cycle counts beside it (R44). -/
def execThermalStepDown (tj : Nat) (s : State) : Out :=
  .next <|
    if s.powered && decide (95 < tj) then
      let s := s.wr modClkStepTjMaxC 0 tj
      { s with power := { s.power with thermStep := min 5 (max s.power.thermStep (s.rd modClkStepStep 0) + 1) } }
    else s

/-- THERMAL_STEP_UP: one step up, never above the cap. -/
def execThermalStepUp (tj : Nat) (s : State) : Out :=
  .next <|
    if s.powered && decide (tj ≤ 88) then
      let s := s.wr modClkStepTjMaxC 0 tj
      { s with power := { s.power with thermStep := s.power.thermStep - 1 } }
    else s

/-- COOLANT_INLET_HIGH (R6): above 35 °C the clock goes down in steps; how many is not stated. -/
def execCoolantInletHigh (tin : Nat) (s : State) : Out :=
  .next <|
    if s.powered then
      let s := s.wr modClkStepTinC 0 tin
      let n := if tin ≤ 35 then 0 else 1 + Config.freeNat s.fresh % 5
      { s with fresh := s.fresh + 1, power := { s.power with inletStep := n } }
    else s

/-- LOW_V_SEEN (R23): between 53.0 and 54.0 V. How many steps hold 156 A is not stated, nor when the
request ends: it stands until the next LOW_V_SEEN or a cold restart (log 112). -/
def execLowVSeen (mv : Nat) (s : State) : Out :=
  .next <|
    if s.powered && decide (53000 ≤ mv) && decide (mv < 54000) then
      let s := (s.wr modPwrStatusVinMv 0 mv).setBit modPwrStatusLowVSeen 0
      { s with fresh := s.fresh + 1, power := { s.power with lowVStep := Config.freeNat s.fresh % 6 } }
    else s

/-- FAST_THROTTLE (R26, R35, R168): every pass that has not begun its drain is abandoned, to run again from
its start; at 100 °C the lowest step follows. -/
def execFastThrottle (cause : ThrottleCause) (s : State) : Out :=
  .next <|
    if s.powered then
      let s := (s.haltPasses fun _ => true).setBit modPwrStatusFastThrSeen 0
      let s := { s with power := { s.power with throttled := true } }
      if cause = .junction100 then
        let s := { s with power := { s.power with thermStep := 5 } }
        s.wr modClkStepStep 0 s.targetStep
      else s
    else s

/-- FAST_THROTTLE_END: abandoned passes start again at PASS_START. -/
def execFastThrottleEnd (s : State) : Out :=
  .next <| if s.powered then { s with power := { s.power with throttled := false } } else s

/-! ### The power-fail sequence (R30, Table 1.3) -/

/-- The sequence starts: normal service or a warm reset ends, with the code and cause of the restart it may
lead to. In recovery and after a module fault it runs too, with no service to end. -/
def State.startPowerFail (s : State) (seq code cause : Nat) : State :=
  let s := { s with power := { s.power with seq := some seq, seqLive := s.inService || decide (s.svc.phase = Phase.warm) } }
  if s.power.seqLive then
    { s with svc := { s.svc with phase := .down code, causeNext := cause, resting := false } }
  else s

/-- A cause of the sequence: it starts one unless one is running, and shows itself as that one's cause. -/
def State.powerFailBy (s : State) (seq code cause : Nat) (seen : Option Fld) : State :=
  if !s.powered || s.power.seq.isSome then s
  else
    let s := match seen with
      | some f => s.setBit f 0
      | none => s
    s.startPowerFail seq code cause

/-- PWR_FAIL_N_LOW: held low for 2 µs. -/
def execPwrFailNLow (s : State) : Out :=
  .next <| ({ s with power := { s.power with pwrFailN := false } }).powerFailBy 1 162 0 (some modPwrStatusPwrFailSeen)

/-- UNDERVOLTAGE: below 53.0 V for 5 µs. -/
def execUndervoltage (mv : Nat) (s : State) : Out :=
  .next <|
    if s.powered && decide (mv < 53000) then
      let s := s.wr modPwrStatusVinMv 0 mv
      ({ s with power := { s.power with below53 := true } }).powerFailBy 2 162 0 (some modPwrStatusUvSeen)
    else s

/-- A fault that is recorded and reported beside a sequence: F-102, F-103. -/
def State.recordFault (s : State) (c : Code) : State :=
  ({ s with power := { s.power with faults := s.power.faults ++ [c] } }).post c []

/-- OVERVOLTAGE: above 63.0 V for 10 µs, F-102. -/
def execOvervoltage (mv : Nat) (s : State) : Out :=
  .next <|
    if s.powered && decide (63000 < mv) then
      ((s.wr modPwrStatusVinMv 0 mv).recordFault (.f 102)).powerFailBy 3 162 0 (some modPwrStatusOvSeen)
    else s

/-- A trip meets a sequence that began in service: no warm reset ends it any more, and the firings are
abandoned by the trip (R37). -/
def State.tripInSequence (s : State) : State :=
  if s.power.seqLive then
    { s with power := { s.power with seqLive := false }, svc := { s.svc with phase := .down 103, causeNext := 2 } }
  else s

/-- THERMAL_TRIP: F-103; the firings are reported abandoned by it (R37). -/
def execThermalTrip (cause : TripCause) (s : State) : Out :=
  .next <|
    if s.powered then
      let s := if cause = .junction110 then s.wr modClkStepTjMaxC 0 (max 110 (s.rd modClkStepTjMaxC 0)) else s
      let s := s.recordFault (.f 103)
      if s.power.seq.isSome then s.tripInSequence else s.powerFailBy 4 103 2 none
    else s

/-- POWER_FAIL_SEQUENCE: within 50 µs passes in flight are abandoned and DMA stops (R199, R256). -/
def execPowerFailSequence (s : State) : Out :=
  .next <| if s.powered && s.power.seq.isSome then (s.stopAll).setBit modPwrStatusFastThrSeen 0 else s

/-- The POWER_MARK record (R262): every record below its LSEQ has been taken by the host ring. Where the
ledger has not been rebuilt since power-up, the mark before it still says how far that is (log 99). -/
def State.powerMarkRec (s : State) : LogRec :=
  match s.svc.phase with
  | .recovery c => if c = 0 then s.markRec 4 else { s.markRec 4 with lseq := s.copyPoint }
  | _ => s.markRec 4

/-- POWER_MARK, in the sequence wherever the module stands (Table 1.3). -/
def execPowerMark (s : State) : Out :=
  .next <| if s.powered && s.power.seq.isSome then s.logNow s.powerMarkRec else s

/-- Records being written never land; the positions after the last landed record are free again. -/
def trimPos (lost : List Nat) : Nat → Nat → Nat
  | 0, p => p
  | n + 1, p => if has lost ((p + logSize - 1) % logSize) then trimPos lost n ((p + logSize - 1) % logSize) else p

def State.loseWriting (s : State) : State :=
  let lost := s.fe.writing.map (·.pos)
  { s with fe := { s.fe with writing := [], nextPos := trimPos lost lost.length s.fe.nextPos } }

/-- A batch in progress that was never staged is lost (R413). -/
def State.loseBatch (s : State) : State :=
  let gap := s.meter.gap || (s.wheel.running && !s.meter.pfClosed)
  { s with meter := { s.meter with
      gap := gap, windows := 0, ein := 0, resid := 0, uncMax := 0, flags := 0, recs := [], ended := [] } }

/-- INPUT_POWER_LOSS (R11). -/
def execInputPowerLoss (s : State) : Out :=
  .next <|
    if s.powered then
      let s := s.loseWriting.loseBatch
      let s := { s with power := { s.power with input := false, seq := none, seqLive := false, below53 := false, throttled := false, tap := none } }
      let s := { s with svc := { s.svc with phase := .off (s.svc.phase.endCode 162), causeNext := 0, resting := false } }
      { s with wheel := { s.wheel with running := false } }
    else { s with power := { s.power with input := false } }

/-! ### Regulator phases and module faults (R12, R28) -/

/-- A rail loses a phase: its two spares first, then the module. -/
def State.losePhase (s : State) (rail : Nat) : State :=
  let n := tget 0 s.power.phasesLost rail + 1
  let s := { s with power := { s.power with phasesLost := tput s.power.phasesLost rail n } }
  let s := (s.wr modPwrStatusPhasesLeft 0 (min (s.rd modPwrStatusPhasesLeft 0) (2 - n))).repEvent 5 rail
  let s := (if n = 2 then s.exhaust 8 rail else s).commitRepair
  if 2 < n then s.moduleFault (.f 163) else s

/-- REGULATOR_PHASE_FAIL. -/
def execRegulatorPhaseFail (rail : Nat) (s : State) : Out :=
  .next <| if s.powered then s.losePhase rail else s

/-- A kiln is lost with its two stacks. -/
def State.loseKiln (s : State) (k : Nat) : State :=
  let s := { s with rep := { s.rep with
    lostKilns := addNew s.rep.lostKilns k
    lostStacks := addNew (addNew s.rep.lostStacks (2 * k)) (2 * k + 1) } }
  let s := s.commitRepair
  let s := (s.wr modGeomGeomId 0 s.geomId).post (.s 361) [s.geomId]
  s.moduleFault (.f 163)

/-- MODULE_FAULT (R12, R426). -/
def execModuleFault (loss : LossKind) (s : State) : Out :=
  match loss with
  | .kiln k => onUnit (k < 8) <| .next <| if s.powered then s.loseKiln k else s
  | .stack n => onUnit (n < 16) <| .next <| if s.powered then s.loseStack n else s
  | .phase rail => .next <| if s.powered then s.losePhase rail else s
  | .code n => .next <| s.moduleFault (.f n)

end Sys2Proof.Machine
end

