-- ==== Sys2Proof/Machine/Startup.lean ====
section
/-! DEFINITION. Machine/Startup.lean: rest points and ageing (R422-R426), the module resets (R418-R420) and
power-up (R421). -/

namespace Sys2Proof.Machine

/-! ### Rest work (Table 16.3) -/

/-- The position in its built shelf that a built tile serves; an idle spare and a replaced tile serve none. -/
def State.servedPos (s : State) (t : TileId) : Option Nat :=
  let n := builtNo t.kiln t.shelf
  if t.row = 8 then (if s.on (tileSpare t.col).2.1 n then some (s.rd (tileSpare t.col).1 n) else none)
  else
    let pos := 8 * t.row + t.col
    if (List.range 4).any fun i => s.on (tileSpare i).2.1 n && s.rd (tileSpare i).1 n == pos then none else some pos

/-- The logical shelf that a built shelf serves; an idle spare and a replaced shelf serve none. -/
def State.servedShelf (s : State) (k b : Nat) : Option Nat :=
  let sh := if b < 160 then b else s.rd (shelfSpare (b - 160)).1 k
  if s.builtShelf k sh = b then some sh else none

/-- The logical shelf and position that a built tile serves. -/
def State.servedBy (s : State) (t : TileId) : Option (Nat × Nat) :=
  match s.servedShelf t.kiln t.shelf, s.servedPos t with
  | some sh, some pos => some (sh, pos)
  | _, _ => none

/-- A tile that serves no logical position has lost columns beyond its spare: a tile of an idle spare shelf gives
way to a spare tile of that shelf, and leaves service when there is none and `third` is set; an idle spare
tile with a third bad column is never brought in. Log 119. -/
def State.idleColumns (s : State) (t : TileId) (third : Bool) : State :=
  match s.servedPos t with
  | some pos =>
    match s.freeTile t.kiln t.shelf with
    | some i => s.swapTile t pos i
    | none => if third then s.tileGone t else s
  | none =>
    if third && decide (t.row = 8) then s.wr (tileSpare t.col).2.2 (builtNo t.kiln t.shelf) 1 else s

/-- A second bad column narrows the tile: a spare tile, a spare shelf, or it stays in service narrowed (R154). -/
def State.secondColumn (s : State) (t : TileId) (c : Nat) : State :=
  let s := (s.wr tileColmapBypass2 (tileInst t) c).wr tileColmapNarrow (tileInst t) 1
  match s.servedBy t with
  | none => s.idleColumns t false
  | some (sh, pos) =>
    if (s.freeTile t.kiln t.shelf).isSome || (s.freeShelf t.kiln).isSome then s.replaceTile t.kiln sh pos false
    else s.relist t.kiln sh

/-- A physical column found bad (R152-R154). A third one is never bypassed. -/
def State.badColumn (s : State) (t : TileId) (c : Nat) : State :=
  let i := tileInst t
  let b1 := s.rd tileColmapBypass1 i
  let b2 := s.rd tileColmapBypass2 i
  if b1 = c ∨ b2 = c ∨ 16 < c ∨ s.on tileColmapOut i = true then s
  else if b1 = 31 then ((s.wr tileColmapBypass1 i c).repEvent 6 i).exhaust 0 i
  else
    let s := s.repEvent 6 i
    if b2 = 31 then s.secondColumn t c
    else match s.servedBy t with
      | some (sh, pos) => s.replaceTile t.kiln sh pos false
      | none => s.idleColumns t true

/-- Tiles with RETIRE_PEND, by the instances of their registers. -/
def State.retirePending (s : State) : List Nat :=
  let k := tileColmapRetirePend.key 0
  (s.regs.filter fun p => keyField p.1 == k && p.2 == 1).map fun p => keyEntry p.1

def tileOfInst (i : Nat) : TileId := ⟨i / 2 ^ 16, i / 2 ^ 8 % 2 ^ 8, i / 16 % 16, i % 16⟩

/-- A tile due for replacement (R162). -/
def State.retireTile (s : State) (i : Nat) : State :=
  match s.servedBy (tileOfInst i) with
  | some (sh, pos) => s.replaceTile (tileOfInst i).kiln sh pos false
  | none => s

/-- A flagged scratchpad row goes to a spare row of its slice; without one the slice fails, F-132. -/
def State.remapRow (s : State) (k sh : Nat) : State :=
  let n := s.shfInst (160 * k + sh)
  let used := tget 0 s.rep.rowsUsed n
  if used < Config.sliceSpareRows then
    let s := ({ s with rep := { s.rep with rowsUsed := tput s.rep.rowsUsed n (used + 1) } }).repEvent 2 n
    if used + 1 = Config.sliceSpareRows then s.exhaust 3 n else s
  else s.hardFault k sh 132 none

/-- Spare DQ lanes left of a channel (STK_DQ_SPARE.LEFT, two bits for each). -/
def State.dqLeft (s : State) (n c : Nat) : Nat := bits (s.rd stkDqSpareLeft n) (2 * c) 2

/-- A flagged DQ lane is replaced by a spare of its channel; without one it stays in use (R177). -/
def State.spareDq (s : State) (n c : Nat) : State :=
  if s.dqLeft n c = 0 then s
  else
    let s := (s.wr stkDqSpareLeft n (s.rd stkDqSpareLeft n - 2 ^ (2 * c))).repEvent 0 (17 * n + c)
    if s.dqLeft n c = 0 then s.exhaust 5 (17 * n + c) else s

/-- The Sitter's spare core fails its self-test. -/
def State.retireSpareCore (s : State) : State :=
  let core := s.rd sitCoreSpare 0
  if core = 3 then s
  else
    let s := { s with rep := { s.rep with coresRetired := s.rep.coresRetired ++ [core] } }
    ((s.wr sitCoreSpare 0 3).repEvent 8 core).exhaust 10 0

/-- Spares not in service that fail are marked (R167). -/
def State.failSpareTile (s : State) (k b i : Nat) : State :=
  let n := builtNo k b
  if s.on (tileSpare i).2.1 n || s.on (tileSpare i).2.2 n then s
  else
    let s := s.wr (tileSpare i).2.2 n 1
    if (s.freeTile k b).isNone then s.exhaust 1 n else s

def State.failSpareShelf (s : State) (k i : Nat) : State :=
  if s.on (shelfSpare i).2.1 k || s.on (shelfSpare i).2.2 k then s
  else
    let s := s.wr (shelfSpare i).2.2 k 1
    if (s.freeShelf k).isNone then s.exhaust 2 k else s

/-- The rest work, with what its tests find; the repair map is committed once (R422). -/
def State.restWork (s : State) (f : RestFindings) : State :=
  let s := (s.rep.colsFlagged ++ f.cols).foldl (fun s p => s.badColumn p.1 p.2) s
  let s := s.retirePending.foldl State.retireTile s
  let rows := s.rep.rowsFlagged
  let dqs := s.rep.dqFlagged
  let s := { s with rep := { s.rep with rowsFlagged := [], dqFlagged := [], colsFlagged := [] } }
  let s := rows.foldl (fun s p => s.remapRow p.1 p.2) s
  let s := dqs.foldl (fun s p => s.spareDq p.1 p.2) s
  let s := if f.sitterSpareBad then s.retireSpareCore else s
  let s := f.spareTiles.foldl (fun s p => s.failSpareTile p.1 p.2.1 p.2.2) s
  let s := f.spareShelves.foldl (fun s p => s.failSpareShelf p.1 p.2) s
  (s.commitRepair.newGeometry).wr modRestStatusLastUs 0 (min f.us (2 ^ 16 - 1))

/-! ### REST_POINT (R422) -/

/-- Switch out every firing that can be. -/
def State.switchAllOut (s : State) : State :=
  (s.fe.firings.map (·.fseq)).foldl (fun s q =>
    match s.firing? q with
    | some f => if s.canSwitch f then s.switchOut f else s
    | none => s) s

/-- Firings that the rest point has still to wait for. -/
def State.restWaits (s : State) : Bool := s.fe.firings.any fun f => f.running && f.claimHeld

/-- Restore the firings whose turn it is. -/
def State.switchAllIn (s : State) : State :=
  (s.fe.firings.map (·.fseq)).foldl (fun s q =>
    match s.firing? q with
    | some f => match f.ctx with
      | some c => if f.st == .switched && s.mayTake f then s.switchIn f c else s
      | none => s
    | none => s) s

/-- Normal service is entered again after a warm reset: completion actions that lack their record are
performed again (R248). -/
def State.warmDone (s : State) : State :=
  let s := { s with svc := { s.svc with phase := .service } }
  s.repeatActions

/-- REST_POINT: firings are switched out; once none runs, the rest work is done, and they are restored. The
rest point of a warm reset ends the reset (R419 steps 5 to 7). -/
def execRestPoint (found : RestFindings) (s : State) : Out :=
  .next <|
    if !s.svc.resting then s
    else
      let done := fun (s : State) =>
        let s := s.restWork found
        { s with svc := { s.svc with resting := false } }
      match s.svc.phase with
      | .service =>
        let s := s.switchAllOut
        if s.restWaits then s else (done s).switchAllIn
      | .warm => if s.on sitCoreRestarting 0 || s.recovering then s else (done s).warmDone
      | _ => s

/-! ### AGEING_THRESHOLD (Table 16.4) -/

/-- Flag work for the next rest point. -/
def State.flag (s : State) (f : Repair → Repair) : State := { s with rep := f s.rep }

def execAgeingThreshold (m : Monitor) (s : State) : Out :=
  match m with
  | .dqLane n c => onUnit (n < 16 && c < 17) <| .next <|
      if s.powered then s.flag fun r => { r with dqFlagged := r.dqFlagged ++ [(n, c)] } else s
  | .reconRate n c out => onUnit (n < 16 && c < 16) <| .next <| if s.powered then s.failChannel n c out else s
  | .scratchRow k sh => onUnit (k < 8 && sh < 160) <| .next <|
      if s.powered then s.flag fun r => { r with rowsFlagged := r.rowsFlagged ++ [(k, sh)] } else s
  | .scratchBank k sh => onUnit (k < 8 && sh < 160) <| .next <|
      if s.powered && !s.shelfOut k sh then s.hardFault k sh 132 none else s
  | .fabricLane d l => execLaneFail d l s
  | .phase rail => .next <| if s.powered then s.losePhase rail else s
  | .column t c => onUnit (tileInstOk (tileInst t) && c < 17) <| .next <|
      if s.powered then s.flag fun r => { r with colsFlagged := r.colsFlagged ++ [(t, c)] } else s

/-! ### repair.status (R424) -/

/-- The ledger: exhausted kinds and units, uses of tile and shelf spares, DQ lanes, failed channels, rows,
retired cores. -/
def State.sparesLedger (s : State) : List Nat :=
  [s.rd modSparesExhausted 0, s.rep.exhausted.length] ++ s.rep.exhausted.flatMap (fun p => [p.1, p.2]) ++
  (List.range 8).flatMap (fun k => [s.regWord klnSpareMap0Reg k, s.regWord klnSpareMap1Reg k]) ++
  (List.range 1312).map (fun n => s.regWord shfSpareMapReg n) ++
  (List.range 16).flatMap (fun n => [s.rd stkDqSpareLeft n, s.rd stkStatusFailedCh n]) ++
  [s.rep.rowsUsed.length] ++ s.rep.rowsUsed.flatMap (fun p => [p.1, p.2]) ++ s.rep.coresRetired

/-- The column maps that differ from an unrepaired tile's, by instance. -/
def State.columnMaps (s : State) : List Nat :=
  let insts := (s.regs.filter fun p => keyBlock p.1 == blockNum .tile).map fun p => keyEntry p.1
  insts.eraseDups.flatMap fun i => [i, s.regWord tileColmapReg i]

def RepEvent.payload (e : RepEvent) : List Nat := [e.kind, e.unit, e.count, e.turn]

/-- repair.status: geometry and list, stack memory that remains, ledger, column maps, repair events; a
large reply (log 38 for its layout). -/
def execRepairStatus (o : Origin) (s : State) : Out :=
  .next <| s.command o 0x0170 fun s =>
    s.done o ([s.rd modGeomGeomId 0, leNat s.geomBytes, (16 - s.rep.lostStacks.length) * 2 ^ 36] ++ s.sparesLedger ++
      s.columnMaps ++ s.rep.events.flatMap RepEvent.payload)

/-! ### Warm reset (R418, R419) -/

/-- LOCAL signals of every firing read 0 again. -/
def State.clearLocals (s : State) : State :=
  let l := s.fe.firings.flatMap fun f =>
    match s.graph? f.graph with
    | some g => if f.launched then (g.signals.filter fun e => sigCls e == 0).map sigSig else []
    | none => []
  l.foldl (fun s n => s.wr fluSigValueValue n 0) s

/-- Scratchpad, tile registers, commons and constant stores are lost. -/
def State.loseKilnMemory (s : State) : State :=
  ((s.forget 0 0 (2 ^ 29)).forget 1 0 (2 ^ 36)).forget 2 0 (2 ^ 26)

/-- DMA engine state is lost; its counters stay. -/
def State.resetEngines (s : State) : State :=
  let s := (List.range 136).foldl (fun s e =>
    [dmaRingBaseReg, dmaRingCtlReg, dmaHeadReg, dmaStatusReg].foldl (fun s r => s.resetReg r e) s) s
  { s with engines := [] }

/-- Table 16.1, warm: firings stop and will replay, the Sitter restarts, and a rest point follows. -/
def State.warmReset (s : State) (cause : Nat) : State :=
  let s := (s.closeCycle.clearLocals).stopAll
  let s := (s.fe.firings.map (·.fseq)).foldl State.replay s
  let s := (s.fe.firings.map (·.fseq)).foldl State.freeBars s
  let s := (s.loseKilnMemory).resetEngines
  let stays := fun (d : Nat) (q : Waiting) => decide (256 ≤ d) && q.pkt.isSome && q.numbered
  let idle := fun (d : Nat) (x : Damper) => { x with
    waiting := x.waiting.filter (stays d), holder := x.holder.filter (fun h => stays d h.1), hints := [] }
  let ds := s.dampers.map fun d => (d.1, idle d.1 d.2)
  let s := { s with dampers := ds, passes := [], cells := [], fe := { s.fe with copying := none } }
  let s := (List.range 1280).foldl (fun s n => s.resetReg shfGangReg (s.shfInst n)) s
  let s := (List.range 8).foldl (fun s k => s.resetReg klnGangReg k) s
  let s := ((s.wr modResetLastKind 0 2).wr modResetCause 0 cause).satAdd modResetWarmCnt 0 1
  let s := { s with power := { s.power with seq := none, seqLive := false, below53 := false, throttled := false } }
  let m := { s.meter with pfClosed := false, winStart := if s.meter.pfClosed then sampleAt s.now else s.meter.winStart
                          batchStart := if s.meter.pfClosed then sampleAt s.now else s.meter.batchStart }
  let s := { s with meter := m, svc := { s.svc with phase := .warm, resting := true } }
  s.startRestart 2

/-- A reset is in progress, or the power-fail sequence. -/
def State.resetting (s : State) : Bool :=
  s.power.seq.isSome || match s.svc.phase with
    | .warm => !s.recovering
    | .down _ => true
    | _ => false

/-- reset.warm. During a rest point the repair map is committed first (Table 16.6). -/
def execResetWarm (o : Origin) (s : State) : Out :=
  .next <| s.command o 0x0500 fun s =>
    if s.resetting then s.refuse o (.s 363)
    else
      let b := s.box o
      let s := s.setBox o { b with st := 1, req := { b.req with cmd := 0x0500 } }
      (if s.svc.resting then s.commitRepair else s).warmReset 4

/-- PWR_FAIL_N_RELEASE (R33): high for 10 ms with the input never below 53.0 V ends the sequence, with a
warm reset where it began in normal service or a warm reset; in recovery, and after a module fault, it ends
with none (log 113). -/
def execPwrFailNRelease (s : State) : Out :=
  .next <|
    let s := { s with power := { s.power with pwrFailN := true } }
    if s.power.seq = some 1 ∧ s.power.below53 = false then
      if s.power.seqLive then s.warmReset 5 else { s with power := { s.power with seq := none } }
    else s

/-- POWER_MARK, then everything stops; POWER_UP runs Table 16.2. -/
def State.coldReset (s : State) : State := (s.logNow s.powerMarkRec).endService 165 1

/-- reset.cold (R420). In the ctl cycle in which a reset.warm began, the cold reset takes its place (Table 16.6). -/
def execResetCold (o : Origin) (s : State) (sameCycle : Bool := false) : Out :=
  .next <|
    if sameCycle && decide (s.svc.phase = .warm) && s.power.seq.isNone && s.on sitCoreRestarting 0 &&
        s.sit.restartCause == 2 && (s.gate o 0x0501).isNone then s.coldReset
    else s.command o 0x0501 fun s => if s.resetting then s.refuse o (.s 363) else s.coldReset

/-! ### Power-up (R421, Table 16.2) -/

/-- Registers whose contents the non-volatile array holds beside the persistent registers. -/
def keptFields : List Fld :=
  mapFields ++ [modSparesReg, mtrBatchReg].flatMap (·.fields) ++ [modPwrStatusPhasesLeft]

/-- Everything but the non-volatile array is lost: stack contents and every other memory read undefined,
registers read their reset values (Table 16.1). -/
def State.loseAll (s : State) : State :=
  let kept := keptFields.map fun f => f.key 0
  let mine := fun (k : Nat) => kept.any fun x => keyField k == x
  let s := { s with regs := s.regs.filter fun p => mine p.1 }
  let s := ((s.loseKilnMemory).forget 3 0 (2 ^ 40))
  let r := State.reset
  { s with
    power := { s.power with input := true, seq := none, seqLive := false, below53 := false, throttled := false, thermStep := 0
                            inletStep := 0, lowVStep := 0, drawStep := 0, cradle := none, tap := none }
    mem := { s.mem with badLines := [], staleParity := [], reached := [], rebuilt := [] }
    passes := [], cells := [], engines := [], flue := r.flue, dampers := [], grx := r.grx
    fe := { r.fe with log := s.fe.log, nextPos := s.fe.nextPos }
    wheel := { r.wheel with marks := s.wheel.marks }
    fab := { r.fab with sent := s.fab.sent, floods := s.fab.floods, frames := s.fab.frames
                        ports := s.fab.ports.map fun p => (p.1, { idlePort with failed := p.2.failed, fpr := p.2.fpr }) }
    pci := { r.pci with hFailed := s.pci.hFailed, sFailed := s.pci.sFailed
                        inReset := if s.power.perstN then [] else [0, 1, 2] }
    sit := { r.sit with vectors := s.sit.vectors, busOut := s.sit.busOut }
    mgmt := { r.mgmt with peers := s.sec.keys.mgmt }
    sec := { s.sec with nonces := [], queue := [] }
    prs := { s.prs with tokens := [] }
    meter := { s.meter with inputOk := true, failedIn := false, pfClosed := false }
    svc := { s.svc with resting := false, lastRestTurn := 0 } }

/-- What the repair map says of channels and cores (R180, R355, R394). -/
def State.loadMap (s : State) : State :=
  let s := s.loadRepair
  let s := s.rep.chanFailed.foldl (fun s p =>
    let s := ((s.wr stkStatusFailedCh p.1 p.2).wr stkStatusNoParity p.1 1).wr stkStatusParityOk p.1 0
    if p.2 = 16 then s else s.wr stkStatusRebuildProg p.1 0x8000) s
  s.wr modGeomGeomId 0 s.geomId

/-- The cradle's identity memory (R41-R43). -/
def State.loadCradle (s : State) (c : Option CradleId) : State :=
  let s := { s with power := { s.power with cradle := c } }
  match c with
  | some c => ((((s.wr modCradlePlanPos 0 c.planPos).wr modCradleCradleOk 0 1).wr modCradleSpareH 0 (b2n c.spareH)).wr
      modCradleSpareS 0 (b2n c.spareS)).wr fabStatusModule 0 c.planPos
  | none => (List.range 14).foldl (fun s d => s.wr fabPortStatusState d 4) ((s.post (.s 210) []).setBit fabStatusQuarSeen 0)

/-- The module stays without service until the next power-up; `c` is the code still owed (R268). -/
def State.stayDown (s : State) (c : Nat) (fault : Code) (cause : Nat) : State :=
  let s := { s with power := { s.power with faults := s.power.faults ++ [fault] } }
  ({ s with svc := { s.svc with phase := .down c, causeNext := cause } }).post fault []

/-- Stacks that do not train are lost (R12, R421). -/
def State.trainStacks (s : State) (bad : List Nat) : State :=
  let new := bad.filter fun n => decide (n < 16) && !has s.rep.lostStacks n
  let s := { s with rep := { s.rep with lostStacks := s.rep.lostStacks ++ new.eraseDups } }
  if new.isEmpty then s
  else (new.eraseDups.foldl (fun s _ => s.recordFault (.f 142)) s).commitRepair.newGeometry

/-! ### The acceptance log at a restart (R263, R268) -/

/-- ACCEPT records whose firing has no end record, in FSEQ order. -/
def State.unended (s : State) : List LogRec :=
  s.fe.log.filter fun r => r.kind == 1 && !s.fe.log.any fun e => e.isEnd && e.fseq == r.fseq

/-- The ABANDON record of a firing that had not ended. -/
def State.abandonRec (s : State) (a : LogRec) (code : Nat) : State :=
  let n := s.fe.nextLseq
  let s := s.logNow { a with kind := 3, lseq := n, result := code, attempts := 0, tick := s.now, cplKind := 0
                             cplAbandon := false, cplSig := 0, cplMod := 0, cplVal := 0, cplAddr := 0, acked := false }
  { s with fe := { s.fe with nextLseq := n + 1 } }

/-- A rebuilt completion record, from the end record and the ACCEPT record. -/
def rebuiltRec (a e : LogRec) : CplRec :=
  { outcome := if e.kind = 2 then 1 else 2, rebuilt := true, code := if e.kind = 2 then 0 else e.result
    fseq := e.fseq, lseq := e.lseq, graph := e.graph, queue := e.queue, attempts := e.attempts, account := a.account
    ctag := a.ctag, tickAccept := a.tick, tickEnd := e.tick, epoch := 0
    arith := if e.kind = 2 then { Arith.empty with flags := e.result } else .empty }

def insertCpl (x : CplRec) : List CplRec → List CplRec
  | [] => [x]
  | y :: r => if x.fseq ≤ y.fseq then x :: y :: r else y :: insertCpl x r

/-- The records that the ledger takes again: every end record at or above the copy point, in FSEQ order. -/
def State.rebuiltLedger (s : State) (copyPoint : Nat) : List CplRec :=
  let ends := s.fe.log.filter fun e => e.isEnd && decide (copyPoint ≤ e.lseq)
  let recs := ends.map fun e =>
    rebuiltRec ((s.fe.log.find? fun a => a.kind == 1 && a.fseq == e.fseq).getD e) e
  recs.foldr insertCpl []

/-- Completion actions that lack their ACTION_DONE record. -/
def State.owedActions (s : State) : List Action :=
  (s.fe.log.filter fun a => a.kind == 1 && a.cplKind != 0 &&
      s.fe.log.any (fun e => e.isEnd && e.fseq == a.fseq && (e.kind == 2 || a.cplAbandon)) &&
      !s.fe.log.any fun d => d.kind == 6 && d.fseq == a.fseq).map
    fun a => ⟨a.fseq, a.cplKind, a.cplSig, a.cplMod, a.cplVal, a.cplAddr, false⟩

/-- Step 6: LSEQ and FSEQ go on, firings that had not ended are abandoned with a code, the ledger is rebuilt. -/
def State.scanLog (s : State) (code : Nat) : State :=
  let point := s.copyPoint
  let s := { s with fe := { s.fe with nextLseq := s.nextLseqFromLog } }
  let owed := s.unended
  let s := owed.foldl (fun s a => s.abandonRec a code) s
  let s := s.skipFseqs
  let log := s.fe.log.map fun r => if r.kind = 6 then { r with acked := false } else r
  let fe := { s.fe with log := log, ledger := [], rebuilt := s.rebuiltLedger point, actions := s.owedActions }
  ({ s with fe := fe }).fillLedger

/-- The retire notice of every remote action whose ACTION_DONE record the log holds is sent again (R248). -/
def State.resendRetires (s : State) : State :=
  (s.fe.log.filter fun r => r.kind == 6).foldl (fun s r =>
    match s.acceptRec r.fseq with
    | some a => if a.cplKind = 1 ∧ a.cplMod ≠ s.self then s.retireFlow r.fseq a.cplMod 1416 true else s
    | none => s) s

/-! ### The meter at a restart (R32, R411, R413) -/

/-- A staged batch without its signature is signed with LATE_SEAL. -/
def lateSeal (b : Staged) : Staged :=
  if b.signature.isSome then b
  else { b with flags := b.flags ||| 128, header := b.header.take 6 ++ natLe 2 (b.flags ||| 128) ++ b.header.drop 8 }

/-- FINAL records, without energy, of the firings reported abandoned at this restart with F-162 (R413). -/
def finalRec (a : LogRec) (code : Nat) (gap : Bool) : ERec :=
  ⟨2, a.fseq, a.account, a.ctag, a.graph, a.queue, a.attempts, code, 64 + (if gap then 128 else 0), 0, 0, 0, 0, 0, 0, 0⟩

/-- Step 7: a batch in progress is sealed late, unsigned batches wait for their signatures in order, and
windows begin with a new batch. `owed` are the firings reported abandoned. -/
def State.meterUp (s : State) (owed : List LogRec) (code : Nat) : State :=
  let s := if s.meter.windows = 0 then s else s.sealBatch 128
  let staging := s.meter.staging.map lateSeal
  let waits := (staging.filter fun b => b.signature.isNone).map fun b => SignItem.batch b.seq
  let gap := s.meter.gap
  let s := { s with meter := { s.meter with staging := staging, winLog2 := s.rd mtrCfgWinLog2 0, winStart := sampleAt s.now }
                    sec := { s.sec with queue := waits } }
  let s := s.newBatch
  { s with meter := { s.meter with
      gap := gap, recs := if code = 162 then owed.map fun a => finalRec a code gap else [], ended := [] } }

/-! ### POWER_UP -/

/-- Steps 3 to 11, once the firmware runs. -/
def State.bringUp (s : State) (c : Nat) (env : PowerUpEnv) : State :=
  if s.prsBroken || !env.boot.copiesOk then s.stayDown c (.f 195) 3
  else
    let s := s.prsLost
    let s := s.persist 1 (s.prsValue 1 + 1)
    let s := (s.loadMap).loadCradle env.cradle
    if env.railFail4 then s.stayDown c (.f 197) 0
    else
      let s := (s.trainStacks env.stacksFail).restWork env.rest
      let owed := s.unended
      let s := (s.scanLog c).meterUp owed c
      let s := (List.range 14).foldl State.trainPort s
      let m := s.rd whlCfgMode 0
      let s := { s with wheel := { s.wheel with running := true, mode := m } }
      let s := if s.power.perstN then s.trainH else s
      let s := s.applySplit
      let s := ({ s with svc := { s.svc with phase := .service } }).idFlags
      (s.owedActions.foldl State.perform s).resendRetires

/-- The kind of a restart: cold by power, or by command or fault. -/
def State.restartKind (s : State) : Nat := if s.svc.causeNext = 0 then 0 else 1

/-- Table 16.2 from step 2. -/
def State.coldStart (s : State) (c : Nat) (env : PowerUpEnv) : State :=
  let kind := s.restartKind
  let cause := s.svc.causeNext
  let s := (s.loseWriting.loseAll).prsShowAll
  let s := (s.wr modPwrStatusVinMv 0 env.vinMv).wr secStateOwned 0 (b2n (!s.sec.keys.owner.isEmpty))
  let s := ((s.wr modResetLastKind 0 kind).wr modResetCause 0 cause).wr secIdNextNext 0 (s.rd secKeystateIdEnd 0)
  let s := { s with svc := { s.svc with causeNext := 0 } }
  if !env.boot.keysOk then s.stayDown c (.f 195) 3
  else
    let r := (env.boot.stale.foldl State.rewriteCopy s).boot
    if r.2 then r.1.bringUp c env else { r.1.idFlags with svc := { r.1.svc with phase := .recovery c } }

/-- POWER_UP: once the input has held 54.0-63.0 V for 10 ms and PWR_FAIL_N is high. -/
def execPowerUp (env : PowerUpEnv) (s : State) : Out :=
  .next <|
    if env.vinMv < 54000 ∨ 63000 < env.vinMv ∨ s.power.pwrFailN = false then s
    else
      match s.svc.phase with
      | .off c =>
        if env.railFail1 then
          { s with power := { s.power with input := true, faults := s.power.faults ++ [.f 197] } }
        else s.coldStart c env
      | .down c => s.coldStart c env
      | _ => s

end Sys2Proof.Machine
end

