-- ==== Sys2Proof/Machine/Views.lean ====
section
/-! DEFINITION. Machine/Views.lean: what a register field reads as. A field that shows another part of the
state is computed from it; every other field reads as it is kept. -/

namespace Sys2Proof.Machine

/-- A value that the manual leaves open at a read: measured or time-dependent. -/
def State.openField (s : State) (f : Fld) : Nat := bits (Config.freeNat s.fresh) f.lo f.width

/-- MOD_ fields (Tables 1.9, 1.10, 16.9): input current and power are measured; 6 and 7 read as 5. -/
def State.viewMod (s : State) (f : Fld) : Nat :=
  if f = modPwrInputIin ∨ f = modPwrInputPinW then s.openField f
  else if f = modClkStepCapStep then s.capStep
  else if f = modRestStatusInRest then b2n (s.svc.resting || decide (s.svc.phase = .warm))
  else s.rd f 0

/-- STK_ fields (Table 7.14): a rebuild in progress shows the stripes rebuilt, those that writes put into channel 16
included. -/
def State.viewStk (s : State) (f : Fld) (i : Nat) : Nat :=
  if f = stkStatusRebuildProg ∧ s.on stkStatusRebuilding i then
    let k := tget 0 s.mem.reached i
    (k + ((tget [] s.mem.rebuilt i).filter fun x => decide (k ≤ x)).length) / 2048
  else s.rd f i

/-- The slot that the engine reads next: of the ring that a firing on it gives (R183), else of its ring in memory. -/
def State.viewHead (s : State) (e : Nat) : Nat :=
  match (s.onObserver (engineObserver e)).map fun f => (f, f.items (engineObserver e)) with
  | some (f, _ :: _) => ((f.next (engineObserver e)).map (·.1)).getD 0
  | _ => s.rd dmaHeadHead e

/-- DMA_ fields (Tables 7.9, 7.10, 7.12, 7.13). -/
def State.viewDma (s : State) (f : Fld) (e : Nat) : Nat :=
  let held := (s.engine e).held
  if f = dmaHeadHead then s.viewHead e else
  if f = dmaBytesBytes then (s.rd f e + s.piecesOn e) % 2 ^ 64 else
  if f = dmaStatusIdle then b2n held.isEmpty
  else if f = dmaStatusWaiting then b2n (held.any (·.waiting))
  else if f = dmaStatusHeld then held.length
  else if f = dmaRingCtlLog2Size then clampLog2 (s.rd f e)
  else s.rd f e

/-- The slot number of a firing, 0xFFFF for none. -/
def fslotOf (f : Option Firing) : Nat := (f.map (·.fslot)).getD 0xFFFF

/-- FLU_ fields (Tables 8.8, 8.11, 8.13, 8.14); an inactive group reads GEN 0. -/
def State.viewFlu (s : State) (f : Fld) (i : Nat) : Nat :=
  if f = fluStatusInService then b2n s.inService
  else if f = fluRecordUseInUse then s.flue.records.length
  else if f = fluSigStateClass then b2n (s.sigFabric i)
  else if f = fluSigStateHeld then b2n (s.sigHolder i).isSome
  else if f = fluSigStateWaiters then (s.flue.waits.filter (·.sig == i)).length
  else if f = fluSigStateFslot then fslotOf (s.sigHolder i)
  else if f = fluBarStateGen then ((s.bar? i).map (·.gen)).getD 0
  else if f = fluBarStateArrived then ((s.bar? i).map (·.arrived.length)).getD 0
  else if f = fluBarStateActive then b2n (s.bar? i).isSome
  else if f = fluBarStateFslot then fslotOf ((s.bar? i).bind fun b => s.firing? b.fseq)
  else s.rd f i

/-- FE_ fields (Tables 9.13, 9.16, 9.18, 9.20). -/
def State.viewFe (s : State) (f : Fld) (i : Nat) : Nat :=
  if f = feStatusFirings then s.fe.firings.length
  else if f = feStatusOps then s.opsInFlight
  else if f = feStatusRingDetached then s.rd feHringCtlDetached 0
  else if f = feSqCfgSlice then s.slice i
  else if f = feHringCtlLog2Size then clampLog2 (s.rd f 0)
  else if f = feLedgerUsed then s.ledgerUsed
  else if f = feLedgerOldestLseq then s.oldestLseq % 2 ^ 32
  else s.rd f i

/-- WHL_ fields (Tables 10.7, 10.11). -/
def State.viewWhl (s : State) (f : Fld) : Nat :=
  if f = whlCfgMode then (if s.rd f 0 = 3 then 0 else s.rd f 0)
  else if f = whlPosAngle then s.angle
  else s.rd f 0

/-- DMP_ fields (Tables 10.14, 10.15) of entry i of damper d. -/
def State.viewDmp (s : State) (f : Fld) (d i : Nat) : Nat :=
  if f = dmpCfgHoldLimit then max 100 (s.rd f i)
  else if f = dmpStatusWindowOpen then b2n (s.damper d).window.isSome
  else if f = dmpStatusWindows then (s.windows d).length
  else s.rd f i

/-- FAB_ fields (Tables 11.12, 11.14). -/
def State.viewFab (s : State) (f : Fld) (i : Nat) : Nat :=
  if f = fabJobIncLow then s.rd fabIncInc 0 % 256
  else if f = fabHoldUsedKib then ceilDiv s.holdUsed 1024
  else s.rd f i

/-- GRX_ fields (Table 12.6); clearing takes no time here. -/
def State.viewGrx (s : State) (f : Fld) (i : Nat) : Nat :=
  if f = grxStatusSlotsUsed then s.grx.slots.length
  else if f = grxStatusSources then s.sources
  else s.rd f i

/-- SIT_ fields (Tables 13.11, 13.12) as function `fn` sees them. -/
def State.viewSit (s : State) (f : Fld) (fn i : Nat) : Nat :=
  if f = sitMbStateState then (tget idleBox s.sit.boxes i).st
  else if f = sitEventPending then b2n !(tget [] s.sit.events fn).isEmpty
  else if f = sitEventCodes then (tget [] s.sit.events fn).length
  else if f = sitMgmtCfgNodeId then (if s.rd f 0 = 0 then 255 else s.rd f 0)
  else s.rd f i

/-- PCI_ fields (Table 13.16). -/
def State.viewPci (s : State) (f : Fld) (i : Nat) : Nat :=
  if f = pciHStatusBme then b2n (((s.pci.fns[0]?).map (·.bme)).getD false) else s.rd f i

/-- MTR_ fields (Tables 15.9, 15.10). -/
def State.viewMtr (s : State) (f : Fld) : Nat :=
  if f = mtrCfgWinLog2 then clampWin (s.rd f 0)
  else if f = mtrCfgSealMs then max 250 (min 60000 (s.rd f 0))
  else if f = mtrStatusSignWait then b2n (s.meter.staging.any (·.signature.isNone))
  else if f = mtrStatusLaunchHeld then b2n s.meterHolds
  else if f = mtrStatusStaged then s.meter.staging.length
  else s.rd f 0

/-- SEC_ fields (Tables 14.11, 14.16); no copy runs in recovery, and what its VERSION reads is not
stated. -/
def State.viewSec (s : State) (f : Fld) : Nat :=
  if f = secFwActiveVer then (if s.on secStateRecovery 0 then s.openField f else s.copyVersion s.sec.running)
  else if f = secFwOtherVer then s.fwOther
  else if f = secIdLeftLeft then s.idLeft
  else s.rd f 0

/-- Writes that a persistent register still takes (R390). -/
def State.prsLeft (s : State) (r : Nat) : Nat :=
  match s.prsActive r with
  | some (3, c) => 200000000 - c.count
  | some (k, c) => 200000000 + (3 - k) * 189999999 - c.count
  | none => 0

/-- The persistent registers in use with the fewest writes left; which of several is not stated. -/
def State.prsLowest (s : State) : Nat :=
  let l := List.range 11
  let m := l.foldl (fun m r => min m (s.prsLeft r)) (s.prsLeft 0)
  let lows := l.filter fun r => s.prsLeft r == m
  (lows[Config.freeNat s.fresh % lows.length]?).getD 0

/-- PRS_ fields (Tables 14.17, 14.19, 14.20) of persistent register r. -/
def State.viewPrs (s : State) (f : Fld) (r : Nat) : Nat :=
  if f = prsStatusLowest then s.prsLowest
  else if f = prsMapBlock then ((prsReg r).map fun g => blockNum g.block).getD 0x1F
  else if f = prsMapInstance then 0
  else if f = prsMapOffset then ((prsReg r).map (·.off)).getD 0
  else if f.off = prsWearActive.off then
    match s.prsActive r with
    | none => s.openField f
    | some (k, c) =>
      if f = prsWearActive then k
      else if f = prsWearLeft then 4 - k
      else if f = prsWearWorn then b2n (s.prsWorn r)
      else c.count
  else s.rd f r

/-- What field f of entry i of instance `inst` reads as; write-only fields read 0 (Table 0.3). -/
def State.view (s : State) (f : Fld) (inst i : Nat) : Nat :=
  if f.acc = .wo then 0
  else match f.block with
    | .tile => s.rd f i
    | .shf => s.rd f i
    | .kln => s.rd f i
    | .mod => s.viewMod f
    | .stk => s.viewStk f i
    | .dma => s.viewDma f i
    | .flu => s.viewFlu f i
    | .fe => s.viewFe f i
    | .whl => s.viewWhl f
    | .dmp => s.viewDmp f inst i
    | .fab => s.viewFab f i
    | .grx => s.viewGrx f i
    | .pci => s.viewPci f i
    | .sit => s.viewSit f inst i
    | .mtr => s.viewMtr f
    | .sec => s.viewSec f
    | .prs => s.viewPrs f i

/-- What a whole register reads as; reserved bits are 0 (R15). -/
def State.viewReg (s : State) (r : Reg) (inst i : Nat) : Nat :=
  (r.fields.map fun f => s.view f inst i % 2 ^ f.width * 2 ^ f.lo).sum

end Sys2Proof.Machine
end

