-- ==== Sys2Proof/Machine/RegAccess.lean ====
section
/-! DEFINITION. Machine/RegAccess.lean: register reads and writes from BAR0 and through the mailbox (R15,
R16, R346, R391), and the submission slots (R247). -/

namespace Sys2Proof.Machine

/-- The tile that an index names (R19): a position of a logical shelf names the tile that serves it, a spare its
built position until it is brought in; after that it carries the index of the part it replaces. -/
def State.namedTile (s : State) (kiln shelf row col : Nat) : Option TileId :=
  if 160 ≤ shelf then
    if s.on (shelfSpare (shelf - 160)).2.1 kiln then none else some ⟨kiln, shelf, row, col⟩
  else if row < 8 then some (s.builtTile kiln shelf row col)
  else
    let b := s.builtShelf kiln shelf
    if s.on (tileSpare col).2.1 (builtNo kiln b) then none else some ⟨kiln, b, 8, col⟩

/-- The built shelf whose registers an index of a kiln names (R19). -/
def State.namedShelf (s : State) (kiln shelf : Nat) : Option Nat :=
  if shelf < 160 then some (s.shfInst (160 * kiln + shelf))
  else if s.on (shelfSpare (shelf - 160)).2.1 kiln then none else some (builtNo kiln shelf)

/-- Where entry `entry` of a register of an instance is kept; none when it does not exist (log 11). -/
def State.regAt (s : State) (r : Reg) (inst entry : Nat) : Option Nat :=
  match r.block with
  | .tile =>
    if tileInstOk inst then
      (s.namedTile (inst / 2 ^ 16) (inst / 2 ^ 8 % 2 ^ 8) (inst / 2 ^ 4 % 2 ^ 4) (inst % 2 ^ 4)).map tileInst
    else none
  | .shf => if inst < blockInstances .shf then s.namedShelf (inst / 164) (inst % 164) else none
  | .sit =>
    if inst < 3 then
      if r = sitMbStateReg then (if entry < fnBoxes inst then some (8 * inst + entry) else none) else some 0
    else none
  | _ => if inst < blockInstances r.block then some (inst * r.count + entry) else none

/-- The register that a block, an instance and an offset name, with the place it is kept at. -/
def State.findAt (s : State) (b : Block) (inst off : Nat) : Option (Reg × Nat) :=
  match findReg b off with
  | some (r, entry) => (s.regAt r inst entry).map fun i => (r, i)
  | none => none

/-- The submission slot at an offset of the FE_ block: its queue and number. -/
def slotAt (b : Block) (inst off : Nat) : Option (Nat × Nat) :=
  if b = .fe ∧ inst = 0 ∧ 0x100000 ≤ off ∧ off < 0x140000 ∧ off % 64 = 0 then
    some ((off - 0x100000) / 4096, (off - 0x100000) % 4096 / 64)
  else none

/-- The number of a persistent register. -/
def prsNumber (r : Reg) : Option Nat := (List.range 10).find? fun n => decide (prsReg n = some r)

/-- A write to one field by its access code (Table 0.3). -/
def State.writeField (s : State) (f : Fld) (i v : Nat) : State :=
  match f.acc with
  | .rw => s.wr f i (bits v f.lo f.width)
  | .w1c => if bit v f.lo then s.wr f i 0 else s
  | _ => s

/-- A write to the fields of a register without a rule of its own. -/
def State.writePlain (s : State) (r : Reg) (i v : Nat) : State := r.fields.foldl (fun s f => s.writeField f i v) s

/-- DMA_RING_BASE: ADDR only while ENABLE = 0 (Table 7.8). -/
def State.writeRingBase (s : State) (e v : Nat) : State :=
  let s := s.writeField dmaRingBaseSpace e v
  if s.on dmaRingCtlEnable e then s else s.writeField dmaRingBaseAddr e v

/-- DMA_RING_CTL: LOG2_SIZE only while ENABLE = 0 (Table 7.9). -/
def State.writeRingCtl (s : State) (e v : Nat) : State :=
  let s := if s.on dmaRingCtlEnable e then s else s.writeField dmaRingCtlLog2Size e v
  s.ringEnable e (bit v 8)

/-- FE_HRING_BASE: while ENABLE = 0 or DETACHED = 1 (Table 9.17). -/
def State.writeHring (s : State) (v : Nat) : State :=
  if s.on feHringCtlEnable 0 && !s.on feHringCtlDetached 0 then s else s.writeField feHringBaseAddr 0 v

/-- A write to a register that is neither persistent nor PW2, with what its fields start. -/
def State.writeReg (s : State) (r : Reg) (inst i v : Nat) : State :=
  if r = modClkStepReg then s.setCap (bits v 0 3)
  else if r = dmaRingBaseReg then s.writeRingBase i v
  else if r = dmaRingCtlReg then s.writeRingCtl i v
  else if r = dmaDoorbellReg then s.ringEngine i
  else if r = feHringBaseReg then s.writeHring v
  else if r = feSqDoorbellReg then (if s.power.seq.isNone then s.wakeQueue (bits v 0 6) else s)
  else if r = sitMbDoorbellReg then s.writeDoorbell inst (bits v 0 3)
  else if r = dmpReleaseReg then s.releaseReq inst (bits v 0 16)
  else s.writePlain r i v

/-- The value that a write puts into a persistent register. -/
def Reg.prsBits (r : Reg) (v : Nat) : Nat :=
  (r.fields.map fun f => if f.acc = .pw then bits v f.lo f.width * 2 ^ f.lo else 0).sum

def Reg.hasAcc (r : Reg) (a : Acc) : Bool := r.fields.any fun f => decide (f.acc = a)

/-- A register write; `viaSitter` that it comes through reg.write, which the bucket of R391 limits. -/
def State.writeAny (s : State) (r : Reg) (inst i v : Nat) (viaSitter : Bool) : State × Code :=
  if r.hasAcc .pw2 then (s, .s 306)
  else if r.hasAcc .pw then
    match prsNumber r with
    | some n =>
      let x := if viaSitter then s.prsHostWrite n (r.prsBits v) false else s.prsWrite n (r.prsBits v) false
      (x.1, if x.2 then .s 0 else .s 345)
    | none => (s, .s 0)
  else (s.writeReg r inst i v, .s 0)

/-- reg.read (R346). -/
def execRegRead (o : Origin) (block inst off : Nat) (s : State) : Out :=
  .next <| s.command o 0x0010 fun s =>
    match blockOf block with
    | none => s.refuse o (.s 304)
    | some b =>
      match slotAt b inst off with
      | some p => s.done o [s.subSlot p.1 p.2]
      | none =>
        match s.findAt b inst off with
        | none => s.refuse o (.s 304)
        | some (r, i) => ({ s with fresh := s.fresh + 1 }).done o [s.viewReg r inst i]

/-- reg.write (R346). -/
def execRegWrite (o : Origin) (block inst off value : Nat) (s : State) : Out :=
  .next <| s.command o 0x0011 fun s =>
    match blockOf block with
    | none => s.refuse o (.s 304)
    | some b =>
      match slotAt b inst off with
      | some p => (s.setSlot p.1 p.2 (value % 2 ^ 512)).done o []
      | none =>
        match s.findAt b inst off with
        | none => s.refuse o (.s 304)
        | some (r, i) =>
          let x := s.writeAny r inst i value true
          if x.2 = .s 0 then x.1.done o [] else x.1.refuse o x.2

/-- What BAR0 of a function maps for writing (Table 13.2); F2's MTR_ block is read-only. -/
def barWrites (fn : Nat) (b : Block) : Bool :=
  b == .sit || (fn == 0 && b == .fe) || (fn == 1 && b == .pci)

/-- A write that BAR0 maps; a function sees its own SIT_ block. -/
def State.barWrite (s : State) (fn : Nat) (b : Block) (inst off value : Nat) : State :=
  let inst := if b = .sit then fn else inst
  match slotAt b inst off with
  | some p => s.setSlot p.1 p.2 (value % 2 ^ 512)
  | none =>
    match s.findAt b inst off with
    | none => s
    | some (r, i) => (s.writeAny r inst i value false).1

/-- REGISTER_WRITE: a write through BAR0 (R16, R346); a function in reset takes none. -/
def execRegisterWrite (fn block inst off value : Nat) (s : State) : Out :=
  onUnit (fn < 3) <| .next <|
    match blockOf block with
    | none => s
    | some b => if s.powered && !has s.pci.inReset fn && barWrites fn b then s.barWrite fn b inst off value else s

end Sys2Proof.Machine
end

