-- ==== Sys2Proof/Machine/VuFns.lean ====
section
/-! DEFINITION. Machine/VuFns.lean: the functions of the shelf vector unit on single values (R133-R135,
Tables 4.5-4.7). Where Table 4.5 gives an error bound above 0.5, the exact value is computed closely
enough to say which results keep the bound, and a fixed open choice takes one of them (log 9). -/

namespace Sys2Proof.Machine

/-- A result in a working format with its flags. -/
abbrev VuRes := Val × Nat

/-- The working format's code: binary64 or binary32. -/
def vuFmt (wide : Bool) : Nat := if wide then 0 else 1

def VuRnd.code : VuRnd → Nat
  | .rne => 0 | .rtz => 1 | .rup => 3 | .rdn => 4 | .rna => 5

/-- One rounding to a working format. -/
def vuRound (c rnd : Nat) (v : Val) : VuRes :=
  let r := roundOp c rnd 0 v
  (decodeFlt c r.bits, r.flags)

/-- NAN_IN for a NaN operand, INVALID as well if one is signalling (R135). -/
def nanFlags (l : List Val) : Nat :=
  if l.any (·.isNan) then flNanIn + (if l.any (·.isSig) then flInvalid else 0) else 0

/-- A NaN operand gives the canonical NaN. -/
def unlessNan (l : List Val) (k : VuRes) : VuRes := if l.any (·.isNan) then (.nan false, nanFlags l) else k

/-- An invalid operation. -/
def vuInvalid : VuRes := (.nan false, flInvalid)

/-! ### Correctly rounded operations (Tables 2.6, 2.7, 4.7) -/

/-- A result that arose before its rounding, with the flags so far. -/
def vuFinish (c rnd : Nat) (v : Val × Nat) : VuRes :=
  let r := vuRound c rnd v.1
  (r.1, r.2 ||| v.2)

def vuAdd (c rnd : Nat) (a b : Val) : VuRes := vuFinish c rnd (addExact rnd a b)

def vuSub (c rnd : Nat) (a b : Val) : VuRes := vuAdd c rnd a b.flip

def vuMul (c rnd : Nat) (a b : Val) : VuRes := vuFinish c rnd (product a b)

/-- a × b + d, rounded once. -/
def vuFma (c rnd : Nat) (a b d : Val) : VuRes :=
  let p := product a b
  if p.1.isNan then (.nan false, p.2 ||| nanFlags [d])
  else vuFinish c rnd (addExact rnd p.1 d)

/-- m1 × 2^e1 ÷ (m2 × 2^e2) to far more bits than a format has, the rest kept as a last bit. -/
def quotient (m1 : Nat) (e1 : Int) (m2 : Nat) (e2 : Int) : Nat × Int :=
  let k := 200 + Nat.log2 m2
  let n := m1 * 2 ^ k
  (2 * (n / m2) + (if n % m2 = 0 then 0 else 1), e1 - e2 - k - 1)

def vuDiv (c rnd : Nat) (a b : Val) : VuRes :=
  unlessNan [a, b] <|
    let neg := a.neg? != b.neg?
    match a, b with
    | .inf _, .inf _ => vuInvalid
    | .inf _, _ => (.inf neg, 0)
    | _, .inf _ => (.num neg 0 0, 0)
    | .num _ m1 e1, .num _ m2 e2 =>
      if m2 = 0 then (if m1 = 0 then vuInvalid else (.inf neg, flDivzero))
      else
        let q := quotient m1 e1 m2 e2
        vuRound c rnd (.num neg q.1 q.2)
    | _, _ => vuInvalid

/-- The integer square root below 2^n. -/
def isqrt (x : Nat) : Nat → Nat → Nat
  | 0, r => r
  | n + 1, r => isqrt x n (if (r + 2 ^ n) * (r + 2 ^ n) ≤ x then r + 2 ^ n else r)

/-- The square root of m × 2^e to far more bits than a format has, the rest kept as a last bit. -/
def rootOf (m : Nat) (e : Int) : Nat × Int :=
  let odd := e % 2 = 1
  let x := (if odd then 2 * m else m) * 2 ^ 400
  let e := if odd then e - 1 else e
  let r := isqrt x (Nat.log2 x / 2 + 1) 0
  (2 * r + (if r * r = x then 0 else 1), e / 2 - 201)

def vuSqrt (c rnd : Nat) (a : Val) : VuRes :=
  unlessNan [a] <|
    match a with
    | .inf neg => if neg then vuInvalid else (.inf false, 0)
    | .num neg m e =>
      if m = 0 then (a, 0)
      else if neg then vuInvalid
      else
        let r := rootOf m e
        vuRound c rnd (.num false r.1 r.2)
    | _ => vuInvalid

/-! ### Comparisons and signs (Table 2.8) -/

def vuMax (a b : Val) : VuRes := unlessNan [a, b] (if a.lt b then b else a, 0)
def vuMin (a b : Val) : VuRes := unlessNan [a, b] (if b.lt a then b else a, 0)
def vuAbs (a : Val) : VuRes := unlessNan [a] (a.abs, 0)
def vuNeg (a : Val) : VuRes := unlessNan [a] (a.flip, 0)
def vuCopysign (a b : Val) : VuRes := unlessNan [a, b] (if b.neg? then a.abs.flip else a.abs, 0)

/-! ### Close values: fixed point with 2^-p as unit -/

/-- Sum of a series: `next n t` is the term after term n. -/
def series (next : Nat → Int → Int) : Nat → Nat → Int → Int
  | 0, _, _ => 0
  | k + 1, n, t => t + series next k (n + 1) (next n t)

/-- The number in units of 2^-p, rounded down. -/
def fixedOf (p : Nat) (neg : Bool) (m : Nat) (e : Int) : Int :=
  let x : Int := if 0 ≤ e + p then (m * 2 ^ (e + p).toNat : Nat) else (m / 2 ^ (-(e + p)).toNat : Nat)
  if neg then -x else x

/-- atan (1/n), and atanh (1/n) with `sg` 1. -/
def atanInv (p k n : Nat) (sg : Int) : Int :=
  (List.range k).foldl (fun a i =>
    a + (if i % 2 = 1 then sg else 1) * ((2 ^ p / (n ^ (2 * i + 1) * (2 * i + 1)) : Nat) : Int)) 0

def ln2Fixed (p : Nat) : Int := 2 * atanInv p (p / 3 + 2) 3 1

/-- π by Machin's formula. -/
def piFixed (p : Nat) : Int := 16 * atanInv p (p / 4 + 2) 5 (-1) - 4 * atanInv p (p / 15 + 2) 239 (-1)

/-- e^r for 0 ≤ r < 1. -/
def expFixed (p : Nat) (r : Int) : Int := series (fun n t => t * r / ((n + 1 : Nat) * (2 ^ p : Nat) : Int)) 90 0 (2 ^ p : Nat)

/-- A magnitude close to an exact value, its sign, and whether it is exact. -/
structure Close where
  neg : Bool
  m : Nat
  e : Int
  exact : Bool
  deriving DecidableEq, Repr

/-- A significand and exponent a hair above or below 1, between 1 and the next value of every format. -/
def hairOff (neg : Bool) : Nat × Int := if neg then (2 ^ 200 - 1, -200) else (2 ^ 200 + 1, -200)

/-- A magnitude below 2^-100: so close to zero that 1 + x lies between 1 and the next value of every format,
and that the first term of a series decides. -/
def tiny (m : Nat) (e : Int) : Bool := decide ((Nat.log2 m : Int) + e < -100)

/-- e^x as significand and exponent: 2^256 ≤ m < 2^257 but for rounding. -/
def expClose (neg : Bool) (m : Nat) (e : Int) : Nat × Int :=
  if 12 < (Nat.log2 m : Int) + e then (2 ^ 256, if neg then -8000 else 8000)
  else if tiny m e then hairOff neg
  else
    let x := fixedOf 256 neg m e
    let l := ln2Fixed 256
    ((expFixed 256 (x % l)).toNat, x / l - 256)

/-- 2^x. -/
def exp2Close (neg : Bool) (m : Nat) (e : Int) : Nat × Int :=
  if 12 < (Nat.log2 m : Int) + e then (2 ^ 256, if neg then -8000 else 8000)
  else if tiny m e then hairOff neg
  else
    let x := fixedOf 256 neg m e
    let one : Int := (2 ^ 256 : Nat)
    ((expFixed 256 (x % one * ln2Fixed 256 / one)).toNat, x / one - 256)

/-- ln x in units of 2^-256, for x > 0. -/
def logFixed (m : Nat) (e : Int) : Int :=
  let l := Nat.log2 m
  let one := 2 ^ 256
  let y := m * one / 2 ^ l
  let t : Int := ((y - one) * one / (y + one) : Nat)
  let t2 := t * t / (one : Nat)
  let atanh := ((List.range 90).foldl (fun (a : Int × Int) n =>
    (a.1 + a.2 / (2 * n + 1 : Nat), a.2 * t2 / (one : Nat))) (0, t)).1
  (e + l) * ln2Fixed 256 + 2 * atanh

/-- A fixed-point value as a close magnitude. -/
def closeOf (p : Nat) (x : Int) : Close := ⟨x < 0, x.natAbs, -p, false⟩

/-- A value a hair below m × 2^e. -/
def below (neg : Bool) (m : Nat) (e : Int) : Close := ⟨neg, m * 2 ^ 200 - 1, e - 200, false⟩

def tanhClose (neg : Bool) (m : Nat) (e : Int) : Close :=
  let top := (Nat.log2 m : Int) + e
  if top < -60 then below neg m e
  else if 6 < top then below neg 1 0
  else
    let x := expClose false m (e + 1)
    let one := 2 ^ 256
    let y := x.1 * 2 ^ (x.2 + 256).toNat
    ⟨neg, (y - one) * one / (y + one), -256, false⟩

def sigmoidClose (neg : Bool) (m : Nat) (e : Int) : Close :=
  if tiny m e then ⟨false, (hairOff neg).1, (hairOff neg).2 - 1, false⟩ else
  let x := expClose true m e
  let one := 2 ^ 256
  let y := if 0 ≤ x.2 + 256 then x.1 * 2 ^ (x.2 + 256).toNat else x.1 / 2 ^ (-(x.2 + 256)).toNat
  if neg then ⟨false, x.1 * one / (one + y), x.2, false⟩
  else if y = 0 then below false 1 0
  else ⟨false, one * one / (one + y), -256, false⟩

def erfClose (neg : Bool) (m : Nat) (e : Int) : Close :=
  let top := (Nat.log2 m : Int) + e
  let p := 400
  let one := 2 ^ p
  let twoOverRootPi := 2 * one * one / isqrt ((piFixed p).toNat * one) (p + 2) 0
  if top < -60 then below neg (m * twoOverRootPi) (e - p)
  else if 2 < top then below neg 1 0
  else
    let x := fixedOf p false m e
    let x2 := x * x / (one : Nat)
    let s := ((List.range 320).foldl (fun (a : Int × Int) n =>
      (a.1 + a.2 / (2 * n + 1 : Nat), -(a.2 * x2) / ((n + 1) * one : Nat))) (0, x)).1
    ⟨neg, (s * (twoOverRootPi : Nat) / (one : Nat)).toNat, -p, false⟩

/-- sin or cos with exact reduction of the argument by quarter turns. -/
def trigClose (cos : Bool) (neg : Bool) (m : Nat) (e : Int) : Close :=
  if tiny m e then (if cos then below false 1 0 else below neg m e) else
  let p := 2400
  let one : Int := (2 ^ p : Nat)
  let half := piFixed p / 2
  let x := fixedOf p neg m e
  let n := (2 * x + half) / (2 * half)
  let r := x - n * half
  let r2 := r * r / one
  let step := fun (k : Nat) (n : Nat) (t : Int) => -(t * r2) / (((2 * n + k) * (2 * n + k + 1) : Nat) * one)
  let sinR := series (step 2) 180 0 r
  let cosR := series (step 1) 180 0 one
  let q := (n + (if cos then 1 else 0)) % 4
  closeOf p (if q = 0 then sinR else if q = 1 then cosR else if q = 2 then -sinR else -cosR)

/-- The results that keep a bound of `b` units in the last place: the open choice `pick` takes one
(R133, R134). -/
def withinBound (c b pick : Nat) (x : Close) : VuRes :=
  let q := ulpExp (fltFrac c) (fltEmin c) x.m x.e
  let n := if q ≤ x.e then x.m * 2 ^ (x.e - q).toNat else x.m / 2 ^ (q - x.e).toNat
  let hit := x.exact && (if q ≤ x.e then true else x.m % 2 ^ (q - x.e).toNat == 0)
  let lo := if hit then n - b else n + 1 - b
  let k := lo + pick % (n + b + 1 - lo)
  let r := vuRound c 0 (.num x.neg k q)
  (r.1, r.2 ||| (if hit && k == n then 0 else flInexact + (if k < 2 ^ fltFrac c then flUnderflow else 0)))

/-- A function of Table 4.5 whose results are bounded: its number, its bound, special values, and the
exact value elsewhere. -/
def vuOpen (c fn : Nat) (b : Close → Nat) (v : Val) (x : Close) : VuRes :=
  withinBound c (b x) (Config.vuFunction fn (fmtBits c) [toB64 v]) x

def bound1 (_ : Close) : Nat := 1
def bound2 (_ : Close) : Nat := 2

/-- The bound of EXP and EXP2: 1.0, or 2.0 when the result is subnormal. -/
def boundExp (c : Nat) (x : Close) : Nat := if (Nat.log2 x.m : Int) + x.e < fltEmin c then 2 else 1

def vuOne : Val := .num false 1 0

def vuRcp (c : Nat) (a : Val) : VuRes :=
  unlessNan [a] <|
    match a with
    | .inf neg => (.num neg 0 0, 0)
    | .num neg m e =>
      if m = 0 then (.inf neg, flDivzero)
      else
        let q := quotient 1 0 m e
        vuOpen c 0 bound1 a ⟨neg, q.1, q.2, q.1 % 2 == 0⟩
    | _ => vuInvalid

def vuRsqrt (c : Nat) (a : Val) : VuRes :=
  unlessNan [a] <|
    match a with
    | .inf neg => if neg then vuInvalid else (.num false 0 0, 0)
    | .num neg m e =>
      if m = 0 then (.inf neg, flDivzero)
      else if neg then vuInvalid
      else
        let q := quotient 1 0 m e
        let r := rootOf q.1 q.2
        vuOpen c 1 bound1 a ⟨false, r.1, r.2, q.1 % 2 == 0 && r.1 % 2 == 0⟩
    | _ => vuInvalid

def vuExp (c : Nat) (a : Val) : VuRes :=
  unlessNan [a] <|
    match a with
    | .inf neg => if neg then (.zero, 0) else (.inf false, 0)
    | .num neg m e =>
      if m = 0 then (vuOne, 0)
      else
        let x := expClose neg m e
        vuOpen c 2 (boundExp c) a ⟨false, x.1, x.2, false⟩
    | _ => vuInvalid

def vuExp2 (c : Nat) (a : Val) : VuRes :=
  unlessNan [a] <|
    match a with
    | .inf neg => if neg then (.zero, 0) else (.inf false, 0)
    | .num neg m e =>
      if m = 0 then (vuOne, 0)
      else
        let x := exp2Close neg m e
        vuOpen c 3 (boundExp c) a ⟨false, x.1, x.2, fixedOf 256 neg m e % (2 ^ 256 : Nat) == 0 && !tiny m e && -256 ≤ e⟩
    | _ => vuInvalid

/-- LOG and LOG2; `f` makes the close value. -/
def vuLogOf (c fn : Nat) (f : Nat → Int → Close) (a : Val) : VuRes :=
  unlessNan [a] <|
    match a with
    | .inf neg => if neg then vuInvalid else (.inf false, 0)
    | .num neg m e =>
      if m = 0 then (.inf true, flDivzero)
      else if neg then vuInvalid
      else if cmpMag m e 1 0 = .eq then (.zero, 0)
      else vuOpen c fn bound1 a (f m e)
    | _ => vuInvalid

def vuLog (c : Nat) (a : Val) : VuRes := vuLogOf c 4 (fun m e => closeOf 256 (logFixed m e)) a

/-- log2 of a power of two is exact. -/
def log2Close (m : Nat) (e : Int) : Close :=
  let l := Nat.log2 m
  if 2 ^ l = m then ⟨e + l < 0, (e + l).natAbs, 0, true⟩
  else closeOf 256 (logFixed m e * (2 ^ 256 : Nat) / ln2Fixed 256)

def vuLog2 (c : Nat) (a : Val) : VuRes := vuLogOf c 5 log2Close a

def vuTanh (c : Nat) (a : Val) : VuRes :=
  unlessNan [a] <|
    match a with
    | .inf neg => (.num neg 1 0, 0)
    | .num neg m e => if m = 0 then (a, 0) else vuOpen c 6 bound2 a (tanhClose neg m e)
    | _ => vuInvalid

def vuSigmoid (c : Nat) (a : Val) : VuRes :=
  unlessNan [a] <|
    match a with
    | .inf neg => if neg then (.zero, 0) else (vuOne, 0)
    | .num neg m e => if m = 0 then (.num false 1 (-1), 0) else vuOpen c 7 bound2 a (sigmoidClose neg m e)
    | _ => vuInvalid

def vuErf (c : Nat) (a : Val) : VuRes :=
  unlessNan [a] <|
    match a with
    | .inf neg => (.num neg 1 0, 0)
    | .num neg m e => if m = 0 then (a, 0) else vuOpen c 8 bound2 a (erfClose neg m e)
    | _ => vuInvalid

def vuSin (c : Nat) (a : Val) : VuRes :=
  unlessNan [a] <|
    match a with
    | .num neg m e => if m = 0 then (a, 0) else vuOpen c 9 bound1 a (trigClose false neg m e)
    | _ => vuInvalid

def vuCos (c : Nat) (a : Val) : VuRes :=
  unlessNan [a] <|
    match a with
    | .num neg m e => if m = 0 then (vuOne, 0) else vuOpen c 10 bound1 a (trigClose true neg m e)
    | _ => vuInvalid

end Sys2Proof.Machine
end

