-- ==== Sys2Proof/Machine/Vector.lean ====
section
/-! DEFINITION. Machine/Vector.lean: operations of the shelf vector unit on tensors: elementwise, along
rows, optimizer updates (R132, R136-R138), and VECTOR_UNIT_OPERATION. -/

namespace Sys2Proof.Machine

/-! ### Rows (R126, R136, R137) -/

/-- A step inside an operation: a NaN among what it takes was reported where it arose, so the step's own flags
count only without one (Table 4.3: NAN_IN is for operand elements). -/
def inner (l : List Val) (r : VuRes) : VuRes := if l.any (·.isNan) then (r.1, 0) else r

/-- An addition of a SUM, in binary64 under RNE, with the flags so far. -/
def sumAdd (a b : VuRes) : VuRes :=
  let r := inner [a.1, b.1] (vuAdd 0 0 a.1 b.1)
  (r.1, a.2 ||| b.2 ||| r.2)

/-- The 32 lanes of a SUM: element i goes to lane i mod 32; each starts at −0. -/
def sumLanes (l : List Val) : List VuRes :=
  (List.range 32).map fun k =>
    ((l.mapIdx fun i v => (i, v)).filter fun p => p.1 % 32 == k).foldl (fun a p => sumAdd a (p.2, 0)) (.negZero, 0)

/-- One level: lane 2l adds lane 2l + 1 into lane l. -/
def pairLanes : List VuRes → List VuRes
  | a :: b :: r => sumAdd a b :: pairLanes r
  | l => l

/-- A SUM in binary64 with the flags of its additions (R136, Table 2.7). -/
def vuSum64 (l : List Val) : VuRes :=
  ((List.range 5).foldl (fun l _ => pairLanes l) (sumLanes l)).headD (.negZero, 0)

def vuSum (c : Nat) (l : List Val) : VuRes :=
  let s := vuSum64 l
  let r := vuRound c 0 s.1
  (r.1, r.2 ||| s.2 ||| nanFlags l)

/-- The mean of a row in binary64, with the flags of its steps. -/
def rowMean (l : List Val) : VuRes :=
  let s := vuSum64 l
  let r := inner [s.1] (vuDiv 0 0 s.1 (.num false l.length 0))
  (r.1, r.2 ||| s.2)

/-- Flags of steps that a row takes once are reported at its first element. -/
def rowFlags (f : Nat) : List VuRes → List VuRes
  | [] => []
  | a :: r => (a.1, a.2 ||| f) :: r

def rowExtreme (mx : Bool) (l : List Val) : VuRes :=
  match l with
  | [] => (.negZero, 0)
  | a :: r => r.foldl (fun b v =>
      let x := if mx then vuMax b.1 v else vuMin b.1 v
      (x.1, b.2 ||| x.2)) (unlessNan [a] (a, 0))

/-- The numerator of SOFTMAX: EXP(x − m), with the flags of both steps. -/
def softExp (m x : Val) : VuRes :=
  let d := inner [x, m] (vuSub 0 0 x m)
  let e := inner [d.1] (vuExp 0 d.1)
  (e.1, d.2 ||| e.2)

/-- SOFTMAX (R137). -/
def vuSoftmax (c : Nat) (l : List Val) : List VuRes :=
  let m := (rowExtreme true l).1
  let es := l.map (softExp m)
  let s := vuSum64 (es.map (·.1))
  rowFlags s.2 <| (l.zip es).map fun p =>
    let y := inner [p.2.1, s.1] (vuDiv 0 0 p.2.1 s.1)
    let r := vuRound c 0 y.1
    (r.1, r.2 ||| y.2 ||| p.2.2 ||| nanFlags [p.1])

/-- The last step of LAYERNORM and RMSNORM: d ÷ √v within 1.0 unit in the last place in binary32 and 2.0 in
binary64 of the exact quotient (Table 4.5); how it is formed is not stated, so one fixed open choice takes a
result that keeps the bound (log 9). -/
def normStep (c fn : Nat) (d v : Val) : VuRes :=
  match d, v with
  | .num neg m e, .num false mv ev =>
    if m = 0 ∨ mv = 0 then vuDiv c 0 d v
    else
      let r := rootOf mv ev
      let q := quotient m e r.1 r.2
      let x : Close := ⟨neg, q.1, q.2, q.1 % 2 == 0 && r.1 % 2 == 0⟩
      withinBound c (if c = 0 then 2 else 1) (Config.vuFunction fn (fmtBits c) [toB64 d, toB64 v]) x
  | _, _ =>
    let r := vuSqrt 0 0 v
    let y := inner [d, r.1] (vuDiv c 0 d r.1)
    (y.1, y.2 ||| (inner [v] r).2)

/-- LAYERNORM and RMSNORM: the mean and the mean of the squares (of the deviations, for LAYERNORM) are
formed as R137 says, in binary64. -/
def vuNorm (c fn : Nat) (centred : Bool) (l : List Val) : List VuRes :=
  let mean := if centred then rowMean l else (.zero, 0)
  let ds := l.map fun x => if centred then inner [x, mean.1] (vuSub 0 0 x mean.1) else (x, 0)
  let sqs := ds.map fun d => inner [d.1] (vuMul 0 0 d.1 d.1)
  let v := rowMean (sqs.map (·.1))
  rowFlags (mean.2 ||| v.2) <| (l.zip (ds.zip sqs)).map fun p =>
    let y := normStep c fn p.2.1.1 v.1
    (y.1, y.2 ||| p.2.1.2 ||| p.2.2.2 ||| nanFlags [p.1])

/-! ### Optimizer updates (R138) -/

def orFlags (l : List VuRes) : Nat := l.foldl (fun f r => f ||| r.2) 0

/-- A result of several steps: the last value with the flags of all. -/
def vuChained (l : List VuRes) (last : VuRes) : VuRes := (last.1, orFlags l ||| last.2)

/-- Coefficients of the exchange header: lr, b1 or μ, b2, eps, wd, c1, c2. -/
structure Coefs where
  lr : Val
  b1 : Val
  b2 : Val
  eps : Val
  wd : Val
  c1 : Val
  c2 : Val
  deriving DecidableEq, Repr

def coefsOf (pblock : Bytes) : Coefs :=
  let x := fun i => decodeFlt 0 (xhdCoef pblock i)
  ⟨x 0, x 1, x 2, x 3, x 4, x 5, x 6⟩

/-- w − lr × fma(wd, w, u), the difference rounded once, to binary32. -/
def stepWeight (k : Coefs) (w u : Val) : List VuRes × VuRes :=
  let f := vuFma 0 0 k.wd w u
  let p := vuMul 0 0 k.lr f.1
  ([f, p], vuSub 1 0 w p.1)

/-- ADAMW: the new weight and moments. -/
def vuAdamw (k : Coefs) (g w m v : Val) : List VuRes :=
  let a := vuSub 0 0 vuOne k.b1
  let ag := vuMul 0 0 a.1 g
  let t1 := vuFma 0 0 k.b1 m ag.1
  let b := vuSub 0 0 vuOne k.b2
  let gg := vuMul 0 0 g g
  let bg := vuMul 0 0 b.1 gg.1
  let t2 := vuFma 0 0 k.b2 v bg.1
  let n := vuMul 0 0 t1.1 k.c1
  let h := vuMul 0 0 t2.1 k.c2
  let r := vuSqrt 0 0 h.1
  let d := vuAdd 0 0 r.1 k.eps
  let u := vuDiv 0 0 n.1 d.1
  let x := stepWeight k w u.1
  [vuChained ([n, h, r, d, u] ++ x.1) x.2, vuChained [a, ag, t1] (vuRound 1 0 t1.1),
    vuChained [b, gg, bg, t2] (vuRound 1 0 t2.1)]

/-- SGDM: the new weight and moment. -/
def vuSgdm (k : Coefs) (g w m : Val) : List VuRes :=
  let t1 := vuFma 0 0 k.b1 m g
  let x := stepWeight k w t1.1
  [vuChained x.1 x.2, vuChained [t1] (vuRound 1 0 t1.1)]

/-! ### Operations on elements and rows -/

/-- Operand n of an element. -/
def opnd (l : List Val) (n : Nat) : Val := (l[n]?).getD .zero

/-- The results of an elementwise operation, one for each destination; none for an operation on rows. -/
def vuElement (j : VuJob) (k : Coefs) (l : List Val) : Option (List VuRes) :=
  let c := vuFmt j.wide
  let r := j.rnd.code
  let a := opnd l 0
  let b := opnd l 1
  match j.op with
  | .add => some [vuAdd c r a b]
  | .sub => some [vuSub c r a b]
  | .mul => some [vuMul c r a b]
  | .fma => some [vuFma c r a b (opnd l 2)]
  | .div => some [vuDiv c r a b]
  | .sqrt => some [vuSqrt c r a]
  | .rcp => some [vuRcp c a]
  | .rsqrt => some [vuRsqrt c a]
  | .exp => some [vuExp c a]
  | .exp2 => some [vuExp2 c a]
  | .log => some [vuLog c a]
  | .log2 => some [vuLog2 c a]
  | .tanh => some [vuTanh c a]
  | .sigmoid => some [vuSigmoid c a]
  | .erf => some [vuErf c a]
  | .sin => some [vuSin c a]
  | .cos => some [vuCos c a]
  | .max => if l.length = 1 then none else some [vuMax a b]
  | .min => if l.length = 1 then none else some [vuMin a b]
  | .maxIdx => none
  | .minIdx => none
  | .abs => some [vuAbs a]
  | .neg => some [vuNeg a]
  | .copysign => some [vuCopysign a b]
  | .sum => none
  | .softmax => none
  | .layernorm => none
  | .rmsnorm => none
  | .adamw => some (vuAdamw k a b (opnd l 2) (opnd l 3))
  | .sgdm => some (vuSgdm k a b (opnd l 2))

/-- A row's results with their indices: one element for a reduction, else one for each element. -/
def vuRow (j : VuJob) (l : List Val) : List (VuRes × Nat) :=
  let c := vuFmt j.wide
  let plain := fun (x : List VuRes) => x.map fun r => (r, 0)
  let record := fun (mx : Bool) => match winner mx (l.mapIdx fun i v => (v, i)) with
    | some p => [(unlessNan l (p.1, 0), p.2)]
    | none => []
  match j.op with
  | .max => plain [rowExtreme true l]
  | .min => plain [rowExtreme false l]
  | .maxIdx => record true
  | .minIdx => record false
  | .softmax => plain (vuSoftmax c l)
  | .layernorm => plain (vuNorm c 11 true l)
  | .rmsnorm => plain (vuNorm c 12 false l)
  | _ => plain [vuSum c l]

/-- Element (i, k) of a source; a constant is the same for every element. -/
def State.vuRead (s : State) (j : VuJob) (src : VuSrc) (i k : Nat) : Val :=
  match src with
  | .tensor a c ld => readElem s.mem.scratch c (shelfView (j.kiln, j.shelf) a) ld i k
  | .constant off c => readElem s.mem.const c (2 ^ 23 * j.kiln + off) 8 0 0

/-- The working value of an operand: every format is read exactly. -/
def State.vuOperands (s : State) (j : VuJob) (i k : Nat) : List Val := j.srcs.map fun x => s.vuRead j x i k

/-- The results of destination d, by rows. -/
def State.vuResults (s : State) (j : VuJob) (k : Coefs) (d : Nat) : List (List (VuRes × Nat)) :=
  (List.range j.rows).map fun i =>
    match vuElement j k (s.vuOperands j i 0) with
    | some _ => (List.range j.cols).map fun x =>
        (((vuElement j k (s.vuOperands j i x)).getD [])[d]?.getD (.zero, 0), 0)
    | none => vuRow j ((List.range j.cols).map fun x => opnd (s.vuOperands j i x) 0)

/-! ### The conversion unit (R70-R72, R132, R430) -/

/-- Results carry an index only for MAX-IDX and MIN-IDX, which write records (R108). -/
def VuJob.records (j : VuJob) : Bool := decide (j.op = .maxIdx) || decide (j.op = .minIdx)

/-- The format that a destination's blocks have. -/
def VuJob.outFmt (j : VuJob) (ladder : Tab Nat) : Nat := if j.records then 17 else (cvtTarget ladder j.cvt).1

/-- An occurrence at an element of the output (SRC 5, R432). -/
def VuJob.occ (j : VuJob) (flags elem : Nat) : List Occ :=
  if flags = 0 then [] else [⟨flags, j.opIndex, elem, 5, noK, 0, j.kiln, j.shelf, 0, 0, 0, 0⟩]

/-- Convert and write one block of a destination. -/
def VuJob.block (j : VuJob) (f : Firing) (g : Graph) (fresh : Nat) (dst : Nat × Nat)
    (res : List (List (VuRes × Nat))) (b : Nat × Nat) : Drained :=
  let ladder := (f.snap.map (·.ladder)).getD []
  let seed := (f.snap.map fun sn => field sn.pblock 0 8).getD 0
  let t := cvtTarget ladder j.cvt
  let c := j.outFmt ladder
  let base := shelfView (j.kiln, j.shelf) dst.1
  let at_ := cells256.map fun p =>
    let x := 16 * b.1 + p.1
    let y := 16 * b.2 + p.2
    match (res[x]?).bind fun r => r[y]? with
    | none => none
    | some v => (storedPos g.regions g.layouts c base dst.2 x y).map fun q => (q, v)
  let xs := at_.map fun q => q.map fun z => z.2.1.1
  let gen := match at_.filterMap id with
    | q :: _ => if cvtRnd j.cvt = 2 then blockSeed seed f.fseq j.opIndex (blockIndex q.1) else 0
    | [] => 0
  let k := convertBlock t.1 (cvtRnd j.cvt) (cvtSat j.cvt == 1) t.2 gen xs
  let codes := if j.records then (k.codes.zip at_).map fun p => match p.2 with
      | some z => (if t.1 = 6 then Config.freeNat fresh else p.1) % 2 ^ 32 + 2 ^ 32 * z.2.2
      | none => 0
    else k.codes
  let data := (blockAddr c base dst.2 b.1 b.2, blockData c codes)
  let scales := if c = 6 then [(scaleAddr base dst.2 b.1 b.2 0, k.scales.map (BitVec.ofNat 8))] else []
  let done := (at_.zip k.results).filterMap fun p => match p.1, p.2 with
    | some z, some r => some (z, r)
    | _, _ => none
  { writes := data :: scales
    occs := done.flatMap fun p =>
      j.occ p.1.2.1.2 (elemIndex p.1.1) ++ j.occ p.2.flags (elemIndex p.1.1)
    gauges := if cvtGaugeEn j.cvt = 1 then
        [(cvtGaugeId j.cvt, done.foldl (fun g p => g.note p.1.2.1.1 p.2) .empty)] else [] }

/-- Columns that a destination receives. -/
def outCols (res : List (List (VuRes × Nat))) : Nat := (res.headD []).length

/-- Everything the operation writes. -/
def State.vuOutput (s : State) (j : VuJob) (f : Firing) (g : Graph) : Drained :=
  let k := coefsOf ((f.snap.map (·.pblock)).getD [])
  (j.dsts.mapIdx fun d dst => (d, dst)).foldl (fun a p =>
    let res := s.vuResults j k p.1
    (partBlocks ⟨(j.kiln, j.shelf), 0, 0, j.rows, outCols res⟩).foldl (fun a b =>
      a.join (j.block f g s.fresh p.2 res b)) a) .empty

/-- The runs of scratchpad that an operation reads. -/
def VuJob.reads (j : VuJob) : List (Nat × Nat) :=
  j.srcs.filterMap fun x => match x with
    | .tensor a c ld => some (shelfView (j.kiln, j.shelf) a, tensorBytes c ld j.rows j.cols)
    | .constant _ _ => none

/-- The runs of scratchpad that an operation writes. -/
def VuJob.writes (j : VuJob) (ladder : Tab Nat) : List (Nat × Nat) :=
  j.dsts.map fun d => (shelfView (j.kiln, j.shelf) d.1, tensorBytes (j.outFmt ladder) d.2 j.rows j.cols)

/-- The bytes that a source or a destination needs lie in scratchpad or in the constant store. -/
def VuJob.fits (j : VuJob) (ladder : Tab Nat) : Bool :=
  (j.srcs.all fun x => match x with
    | .tensor _ c _ => decide (c ≤ 9)
    | .constant off c => decide (c ≤ 9) && spaceOk 2 off (if c = 6 then 1152 else 8)) &&
  (j.reads ++ j.writes ladder).all fun e => spaceOk 1 e.1 e.2

/-- The operation computes and writes its results through the conversion unit. -/
def State.vuRun (s : State) (j : VuJob) (f : Firing) (g : Graph) : State :=
  let d := s.vuOutput j f g
  let s := s.writesSpace 1 d.writes
  let s := s.updFiring f.fseq fun f =>
    { f with arith := f.arith.reports d.occs, gauges := Machine.mergeGauges f.gauges d.gauges }
  { s with fresh := s.fresh + 1 }

/-- VECTOR_UNIT_OPERATION: issued by the sequencer of a shelf that the firing runs on, once nothing of its queue holds
it (R201, R202); operands outside their spaces do not come from a descriptor that was loaded (L-052), and nothing
is written. -/
def execVectorUnitOperation (job : VuJob) (s : State) : Out :=
  onUnit (job.kiln < 8 && job.shelf < 160) <| .next <|
    match s.onObserver (160 * job.kiln + job.shelf) with
    | none => s
    | some f =>
      match s.graph? f.graph with
      | none => s
      | some g =>
        let lad := (f.snap.map (·.ladder)).getD []
        if f.fseq = job.fseq ∧ s.issues = true ∧ job.fits lad = true ∧
            s.shelfHeld f (160 * job.kiln + job.shelf) (job.reads ++ job.writes lad) = false then s.vuRun job f g
        else s

end Sys2Proof.Machine
end

