-- ==== Sys2Proof/Machine/Dispatch.lean ====
section
/-! DEFINITION. Machine/Dispatch.lean: one arm per command, each a call of its meaning. -/

namespace Sys2Proof.Machine

def exec (i : Instr) (s : State) : Host.Outcome State Fault Refusal :=
  match i with
  | .powerUp env => Sys2Proof.Machine.execPowerUp env s
  | .lowVSeen mv => Sys2Proof.Machine.execLowVSeen mv s
  | .pwrFailNLow => Sys2Proof.Machine.execPwrFailNLow s
  | .undervoltage mv => Sys2Proof.Machine.execUndervoltage mv s
  | .overvoltage mv => Sys2Proof.Machine.execOvervoltage mv s
  | .powerFailSequence => Sys2Proof.Machine.execPowerFailSequence s
  | .powerMark => Sys2Proof.Machine.execPowerMark s
  | .pwrFailNRelease => Sys2Proof.Machine.execPwrFailNRelease s
  | .inputPowerLoss => Sys2Proof.Machine.execInputPowerLoss s
  | .fastThrottle cause => Sys2Proof.Machine.execFastThrottle cause s
  | .slowPowerStep draw => Sys2Proof.Machine.execSlowPowerStep s draw
  | .thermalStepDown tj => Sys2Proof.Machine.execThermalStepDown tj s
  | .thermalStepUp tj => Sys2Proof.Machine.execThermalStepUp tj s
  | .thermalTrip cause => Sys2Proof.Machine.execThermalTrip cause s
  | .regulatorPhaseFail rail => Sys2Proof.Machine.execRegulatorPhaseFail rail s
  | .moduleFault loss => Sys2Proof.Machine.execModuleFault loss s
  | .capStepWrite v => Sys2Proof.Machine.execCapStepWrite v s
  | .registerWrite fn block inst off value => Sys2Proof.Machine.execRegisterWrite fn block inst off value s
  | .persistentWrite r value byRegWrite torn => Sys2Proof.Machine.execPersistentWrite r value byRegWrite torn s
  | .operationGrant fseq opIndex => Sys2Proof.Machine.execOperationGrant fseq opIndex s
  | .passStart observer => Sys2Proof.Machine.execPassStart observer s
  | .drain passId errs => Sys2Proof.Machine.execDrain passId errs s
  | .drainTimeout kiln shelf => Sys2Proof.Machine.execDrainTimeout kiln shelf s
  | .shelfFault kiln shelf => Sys2Proof.Machine.execShelfFault kiln shelf s
  | .dmaDoorbell engine => Sys2Proof.Machine.execDmaDoorbell engine s
  | .dmaRingEnableWrite engine enable => Sys2Proof.Machine.execDmaRingEnableWrite engine enable s
  | .descriptorFetch engine => Sys2Proof.Machine.execDescriptorFetch engine s
  | .descriptorStart engine => Sys2Proof.Machine.execDescriptorStart engine s
  | .waitCopyRelease engine => Sys2Proof.Machine.execWaitCopyRelease engine s
  | .descriptorComplete engine more => Sys2Proof.Machine.execDescriptorComplete engine s more
  | .stackLineRead fseq addr found => Sys2Proof.Machine.execStackLineRead fseq addr found s
  | .stackLineWrite fseq addr data => Sys2Proof.Machine.execStackLineWrite fseq addr data s
  | .parityRecompute stack stripe => Sys2Proof.Machine.execParityRecompute stack stripe s
  | .accumAdd fseq opIndex accFmt addr value => Sys2Proof.Machine.execAccumAdd fseq opIndex accFmt addr value s
  | .channelFail stack chan outstanding => Sys2Proof.Machine.execChannelFail stack chan outstanding s
  | .rebuildComplete stack => Sys2Proof.Machine.execRebuildComplete stack s
  | .hostAccessError engine => Sys2Proof.Machine.execHostAccessError engine s
  | .hostReadTimeout engine => Sys2Proof.Machine.execHostReadTimeout engine s
  | .sigInc observer fseq sig value opIndex more => Sys2Proof.Machine.execSigInc observer fseq sig value opIndex s more
  | .waitGe observer fseq sig value timeout opIndex => Sys2Proof.Machine.execWaitGe observer fseq sig value timeout opIndex s
  | .waitCon observer fseq sig value timeout opIndex => Sys2Proof.Machine.execWaitCon observer fseq sig value timeout opIndex s
  | .waitExpiry observer sig => Sys2Proof.Machine.execWaitExpiry observer sig s
  | .barArrive observer fseq group opIndex => Sys2Proof.Machine.execBarArrive observer fseq group opIndex s
  | .barWait observer fseq group opIndex => Sys2Proof.Machine.execBarWait observer fseq group opIndex s
  | .barArriveWait observer fseq group opIndex => Sys2Proof.Machine.execBarArriveWait observer fseq group opIndex s
  | .dmaBarrierArrival engine group => Sys2Proof.Machine.execDmaBarrierArrival engine group s
  | .timeSliceExpiry queue => Sys2Proof.Machine.execTimeSliceExpiry queue s
  | .contextSwitch fseq => Sys2Proof.Machine.execContextSwitch fseq s
  | .contextRestore fseq => Sys2Proof.Machine.execContextRestore fseq s
  | .sqDoorbell queue => Sys2Proof.Machine.execSqDoorbell queue s
  | .slotAccept queue => Sys2Proof.Machine.execSlotAccept queue s
  | .acceptRecordLogged fseq => Sys2Proof.Machine.execAcceptRecordLogged fseq s
  | .firingLaunch fseq => Sys2Proof.Machine.execFiringLaunch fseq s
  | .firingFault fseq code => Sys2Proof.Machine.execFiringFault fseq code s
  | .firingCommit fseq => Sys2Proof.Machine.execFiringCommit fseq s
  | .actionDone fseq => Sys2Proof.Machine.execActionDone fseq s
  | .cursorRecord => Sys2Proof.Machine.execCursorRecord s
  | .hostRingCopy => Sys2Proof.Machine.execHostRingCopy s
  | .hostRingReadback error => Sys2Proof.Machine.execHostRingReadback error s
  | .turnStart => Sys2Proof.Machine.execTurnStart s
  | .angleEvent angle => Sys2Proof.Machine.execAngleEvent angle s
  | .turnEdge copy count => Sys2Proof.Machine.execTurnEdge copy count s
  | .wheelRefLoss copy turnSignal => Sys2Proof.Machine.execWheelRefLoss copy turnSignal s
  | .wheelMarkSend => Sys2Proof.Machine.execWheelMarkSend s
  | .wheelMark port mark => Sys2Proof.Machine.execWheelMark port mark s
  | .wheelMarkLoss => Sys2Proof.Machine.execWheelMarkLoss s
  | .wheelStep => Sys2Proof.Machine.execWheelStep s
  | .windowOpen damper window => Sys2Proof.Machine.execWindowOpen damper window s
  | .windowClose damper window => Sys2Proof.Machine.execWindowClose damper window s
  | .damperTransferArrival damper t => Sys2Proof.Machine.execDamperTransferArrival damper t s
  | .damperGrant damper => Sys2Proof.Machine.execDamperGrant damper s
  | .cutOff damper => Sys2Proof.Machine.execCutOff damper s
  | .dmpRelease damper req => Sys2Proof.Machine.execDmpRelease damper req s
  | .flitReceive port flit => Sys2Proof.Machine.execFlitReceive port flit s
  | .linkReplay port ack => Sys2Proof.Machine.execLinkReplay port ack s
  | .packetForward port => Sys2Proof.Machine.execPacketForward port s
  | .laneFail port lane => Sys2Proof.Machine.execLaneFail port lane s
  | .linkRetrain port badLanes ok => Sys2Proof.Machine.execLinkRetrain port badLanes ok s
  | .linkDown port => Sys2Proof.Machine.execLinkDown port s
  | .linkTraining port result => Sys2Proof.Machine.execLinkTraining port result s
  | .trainingRetry port => Sys2Proof.Machine.execTrainingRetry port s
  | .identityFrame port frame => Sys2Proof.Machine.execIdentityFrame port frame s
  | .linkStateNotice port notice => Sys2Proof.Machine.execLinkStateNotice port notice s
  | .writePacket p => Sys2Proof.Machine.execWritePacket p s
  | .accumPacket p => Sys2Proof.Machine.execAccumPacket p s
  | .signalPacket p more => Sys2Proof.Machine.execSignalPacket p s more
  | .retirePacket p => Sys2Proof.Machine.execRetirePacket p s
  | .ackPacket p => Sys2Proof.Machine.execAckPacket p s
  | .nakPacket p => Sys2Proof.Machine.execNakPacket p s
  | .refusePacket p => Sys2Proof.Machine.execRefusePacket p s
  | .resyncPacket p => Sys2Proof.Machine.execResyncPacket p s
  | .resendTimeout dst => Sys2Proof.Machine.execResendTimeout dst s
  | .destinationUnreachable dst => Sys2Proof.Machine.execDestinationUnreachable dst s
  | .heldReadRelease engine => Sys2Proof.Machine.execHeldReadRelease engine s
  | .functionLevelReset fn => Sys2Proof.Machine.execFunctionLevelReset fn s
  | .perstN pinLow => Sys2Proof.Machine.execPerstN pinLow s
  | .mbDoorbell o req => Sys2Proof.Machine.execMbDoorbell o req s
  | .eventPost code params => Sys2Proof.Machine.execEventPost code params s
  | .lockstepMismatch aFails bFails => Sys2Proof.Machine.execLockstepMismatch aFails bFails s
  | .heartbeatLoss => Sys2Proof.Machine.execHeartbeatLoss s
  | .sitterRestartComplete found => Sys2Proof.Machine.execSitterRestartComplete s found
  | .nvmeCompletion link status => Sys2Proof.Machine.execNvmeCompletion link status s
  | .driveRequest link addr len data => Sys2Proof.Machine.execDriveRequest link addr len data s
  | .storageLinkDown link => Sys2Proof.Machine.execStorageLinkDown link s
  | .mgmtFrame f => Sys2Proof.Machine.execMgmtFrame f s
  | .mgmtRequest peer req => Sys2Proof.Machine.execMgmtRequest peer req s
  | .mgmtTime peer tai => Sys2Proof.Machine.execMgmtTime peer tai s
  | .plcaBeaconLoss => Sys2Proof.Machine.execPlcaBeaconLoss s
  | .signatureRequest item => Sys2Proof.Machine.execSignatureRequest item s
  | .meterWindowClose w => Sys2Proof.Machine.execMeterWindowClose w s
  | .meterInputFail => Sys2Proof.Machine.execMeterInputFail s
  | .restPoint found => Sys2Proof.Machine.execRestPoint found s
  | .ageingThreshold m => Sys2Proof.Machine.execAgeingThreshold m s
  | .mbPoll o => Sys2Proof.Machine.execMbPoll o s
  | .sitterStatus o => Sys2Proof.Machine.execSitterStatus o s
  | .sitterRestart o => Sys2Proof.Machine.execSitterRestart o s
  | .regRead o block inst off => Sys2Proof.Machine.execRegRead o block inst off s
  | .regWrite o block inst off value => Sys2Proof.Machine.execRegWrite o block inst off value s
  | .graphStore o graph stackBase src image => Sys2Proof.Machine.execGraphStore o graph stackBase src image s
  | .graphDrop o graph => Sys2Proof.Machine.execGraphDrop o graph s
  | .firingLaunchCmd o queue slot => Sys2Proof.Machine.execFiringLaunchCmd o queue slot s
  | .firingCancel o fseq => Sys2Proof.Machine.execFiringCancel o fseq s
  | .paramPatch o graph offset data => Sys2Proof.Machine.execParamPatch o graph offset data s
  | .taskBind o graph queue => Sys2Proof.Machine.execTaskBind o graph queue s
  | .taskUnbind o queue => Sys2Proof.Machine.execTaskUnbind o queue s
  | .ringAttach o => Sys2Proof.Machine.execRingAttach o s
  | .ladderReset o => Sys2Proof.Machine.execLadderReset o s
  | .signalIncCmd o sig value more => Sys2Proof.Machine.execSignalIncCmd o sig value s more
  | .signalRead o sig => Sys2Proof.Machine.execSignalRead o sig s
  | .signalSet o sig value more => Sys2Proof.Machine.execSignalSet o sig value s more
  | .barrierArriveCmd o group => Sys2Proof.Machine.execBarrierArriveCmd o group s
  | .wheelTurn o len turn => Sys2Proof.Machine.execWheelTurn o len turn s
  | .powerStep o cap turn angle => Sys2Proof.Machine.execPowerStep o cap turn angle s
  | .damperRelease o damper req => Sys2Proof.Machine.execDamperRelease o damper req s
  | .fabricPlan o plan => Sys2Proof.Machine.execFabricPlan o plan s
  | .fabricJob o tag base mask => Sys2Proof.Machine.execFabricJob o tag base mask s
  | .fabricPort o port => Sys2Proof.Machine.execFabricPort o port s
  | .grxReset o => Sys2Proof.Machine.execGrxReset o s
  | .grxStatus o => Sys2Proof.Machine.execGrxStatus o s
  | .repairStatus o => Sys2Proof.Machine.execRepairStatus o s
  | .storeList o => Sys2Proof.Machine.execStoreList o s
  | .storeRead o link ns lba side => Sys2Proof.Machine.execStoreRead o link ns lba side s
  | .storeWrite o link ns lba side => Sys2Proof.Machine.execStoreWrite o link ns lba side s
  | .storePort o => Sys2Proof.Machine.execStorePort o s
  | .meterSeal o => Sys2Proof.Machine.execMeterSeal o s
  | .meterBatchFetch o seq => Sys2Proof.Machine.execMeterBatchFetch o seq s
  | .meterBatchRelease o seq => Sys2Proof.Machine.execMeterBatchRelease o seq s
  | .meterBatchProof o seq index => Sys2Proof.Machine.execMeterBatchProof o seq index s
  | .attestReport o challenge certificate => Sys2Proof.Machine.execAttestReport o challenge s certificate
  | .tokenApplyCal o t => Sys2Proof.Machine.execTokenApplyCal o t s
  | .tokenApplyRules o t => Sys2Proof.Machine.execTokenApplyRules o t s
  | .tokenApplyFloor o t => Sys2Proof.Machine.execTokenApplyFloor o t s
  | .tokenApplyDebug o t => Sys2Proof.Machine.execTokenApplyDebug o t s
  | .tokenApplyMgmtKeys o t => Sys2Proof.Machine.execTokenApplyMgmtKeys o t s
  | .tokenApplyOwnerKeys o t => Sys2Proof.Machine.execTokenApplyOwnerKeys o t s
  | .tokenApplyIdRotate o t => Sys2Proof.Machine.execTokenApplyIdRotate o t s
  | .tokenApplyEnrol o t => Sys2Proof.Machine.execTokenApplyEnrol o t s
  | .tokenApplyRelease o t => Sys2Proof.Machine.execTokenApplyRelease o t s
  | .fwLoad o src image => Sys2Proof.Machine.execFwLoad o src image s
  | .fwActivate o => Sys2Proof.Machine.execFwActivate o s
  | .resetWarm o => Sys2Proof.Machine.execResetWarm o s
  | .resetCold o sameCycle => Sys2Proof.Machine.execResetCold o s sameCycle
  | .fastThrottleEnd => Sys2Proof.Machine.execFastThrottleEnd s
  | .coolantInletHigh tin => Sys2Proof.Machine.execCoolantInletHigh tin s
  | .commitRecordLogged fseq => Sys2Proof.Machine.execCommitRecordLogged fseq s
  | .signatureComplete => Sys2Proof.Machine.execSignatureComplete s
  | .meterInputReturn => Sys2Proof.Machine.execMeterInputReturn s
  | .storageLinkRetrain link up => Sys2Proof.Machine.execStorageLinkRetrain link up s
  | .perstNRelease => Sys2Proof.Machine.execPerstNRelease s
  | .configurationWrite fn bme d3hot => Sys2Proof.Machine.execConfigurationWrite fn bme d3hot s
  | .vectorUnitOperation job => Sys2Proof.Machine.execVectorUnitOperation job s
  | .tileRegisterCopy fseq kiln shelf row col tileOff sliceAddr len toTile => Sys2Proof.Machine.execTileRegisterCopy fseq kiln shelf row col tileOff sliceAddr len toTile s
  | .testAccess j => Sys2Proof.Machine.execTestAccess j s
  | .hostLaneLoss link lane => Sys2Proof.Machine.execHostLaneLoss link lane s

end Sys2Proof.Machine
end

