-- ==== Sys2Proof/WellFormed.lean ====
section
/-! DEFINITION. WellFormed.lean: a command is well formed when the units, addresses and numbers it names are
ones that the manual gives the module. -/

namespace Sys2Proof

open Sys2Proof.Machine

/-- The unit that a module fault has lost exists (Table 3.1, Table 7.1). -/
def Machine.LossKind.wf : LossKind → Bool
  | .kiln k => decide (k < 8)
  | .stack n => decide (n < 16)
  | .phase _ => true
  | .code _ => true

/-- The unit that a wear monitor watches exists (Table 16.4). -/
def Machine.Monitor.wf : Monitor → Bool
  | .dqLane n c => decide (n < 16) && decide (c < 17)
  | .reconRate n c _ => decide (n < 16) && decide (c < 16)
  | .scratchRow k sh => decide (k < 8) && decide (sh < 160)
  | .scratchBank k sh => decide (k < 8) && decide (sh < 160)
  | .fabricLane d l => decide (d < 14) && decide (l < lanesAll d)
  | .phase _ => true
  | .column t c => tileInstOk (tileInst t) && decide (c < 17)

/-- The command names units that exist: 8 kilns of 160 shelves and 16 stacks (Table 0.1), 136 DMA engines (R183),
1,418 observers (R200), 8,192 signals (R213), 256 barrier groups (R227), 64 queues and 1,024 graphs (spec/09), 272
dampers (R282), 14 fabric ports (R296), three functions and four storage links (spec/13), 4,096 persistent
registers (R388). -/
def Instr.wf : Instr → Bool
  | .powerUp _ | .lowVSeen _ | .pwrFailNLow | .undervoltage _ | .overvoltage _ | .powerFailSequence
  | .powerMark | .pwrFailNRelease | .inputPowerLoss | .fastThrottle _ | .slowPowerStep _ | .thermalStepDown _
  | .thermalStepUp _ | .thermalTrip _ | .regulatorPhaseFail _ => true
  | .moduleFault loss => loss.wf
  | .capStepWrite _ => true
  | .registerWrite fn _ _ _ _ => decide (fn < 3)
  | .persistentWrite r _ _ _ => decide (r < 4096)
  | .operationGrant _ _ => true
  | .passStart observer => decide (observer < 1280) || observer == 1416
  | .drain _ _ => true
  | .drainTimeout kiln shelf => decide (kiln < 8) && decide (shelf < 160)
  | .shelfFault kiln shelf => decide (kiln < 8) && decide (shelf < 160)
  | .dmaDoorbell engine => decide (engine < 136)
  | .dmaRingEnableWrite engine _ => decide (engine < 136)
  | .descriptorFetch engine => decide (engine < 136)
  | .descriptorStart engine => decide (engine < 136)
  | .waitCopyRelease engine => decide (engine < 136)
  | .descriptorComplete engine _ => decide (engine < 136)
  | .stackLineRead _ addr _ => decide (addr < 2 ^ 40)
  | .stackLineWrite _ addr data => decide (addr < 2 ^ 40) && decide (addr % 64 + data.length ≤ 64)
  | .parityRecompute stack stripe => decide (stack < 16) && decide (stripe < 2 ^ 26)
  | .accumAdd _ _ accFmt addr _ => decide (accFmt < 3) && decide (addr + accElemBytes accFmt ≤ 2 ^ 40)
  | .channelFail stack chan _ => decide (stack < 16) && decide (chan < 17)
  | .rebuildComplete stack => decide (stack < 16)
  | .hostAccessError engine => decide (engine < 136)
  | .hostReadTimeout engine => decide (engine < 136)
  | .sigInc observer _ sig _ _ _ => decide (observer < 1418) && decide (sig < 8192)
  | .waitGe observer _ sig _ _ _ => decide (observer < 1418) && decide (sig < 8192)
  | .waitCon observer _ sig _ _ _ => decide (observer < 1418) && decide (sig < 8192)
  | .waitExpiry observer sig => decide (observer < 1418) && decide (sig < 8192)
  | .barArrive observer _ group _ => decide (observer < 1418) && decide (group < 256)
  | .barWait observer _ group _ => decide (observer < 1418) && decide (group < 256)
  | .barArriveWait observer _ group _ => decide (observer < 1418) && decide (group < 256)
  | .dmaBarrierArrival engine group => decide (engine < 136) && decide (group < 256)
  | .timeSliceExpiry queue => decide (queue < 64)
  | .contextSwitch _ | .contextRestore _ => true
  | .sqDoorbell queue => decide (queue < 64)
  | .slotAccept queue => decide (queue < 64)
  | .acceptRecordLogged _ | .firingLaunch _ | .firingFault _ _ | .firingCommit _ | .actionDone _
  | .cursorRecord | .hostRingCopy | .hostRingReadback _ | .turnStart => true
  | .angleEvent angle => decide (angle < 65536)
  | .turnEdge copy _ => decide (copy < 2)
  | .wheelRefLoss copy _ => decide (copy < 2)
  | .wheelMarkSend => true
  | .wheelMark port _ => decide (port < 14)
  | .wheelMarkLoss | .wheelStep => true
  | .windowOpen damper _ => decide (damper < 272)
  | .windowClose damper _ => decide (damper < 272)
  | .damperTransferArrival damper t => decide (damper < 272) && requesterOk t.req && transferOk damper t
  | .damperGrant damper => decide (damper < 272)
  | .cutOff damper => decide (damper < 272)
  | .dmpRelease damper _ => decide (damper < 272)
  | .flitReceive port _ => decide (port < 14)
  | .linkReplay port _ => decide (port < 14)
  | .packetForward port => decide (port < 14)
  | .laneFail port lane => decide (port < 14) && decide (lane < lanesAll port)
  | .linkRetrain port _ _ => decide (port < 14)
  | .linkDown port => decide (port < 14)
  | .linkTraining port _ => decide (port < 14)
  | .trainingRetry port => decide (port < 14)
  | .identityFrame port _ => decide (port < 14)
  | .linkStateNotice port _ => decide (port < 14)
  | .writePacket _ | .accumPacket _ | .signalPacket _ _ | .retirePacket _ | .ackPacket _ | .nakPacket _
  | .refusePacket _ | .resyncPacket _ => true
  | .resendTimeout dst => decide (dst < 16384)
  | .destinationUnreachable dst => decide (dst < 16384)
  | .heldReadRelease engine => decide (engine < 136)
  | .functionLevelReset fn => decide (fn < 3)
  | .perstN _ | .mbDoorbell _ _ | .eventPost _ _ | .lockstepMismatch _ _ | .heartbeatLoss
  | .sitterRestartComplete _ => true
  | .nvmeCompletion link _ => decide (link < 4)
  | .driveRequest link _ _ _ => decide (link < 4)
  | .storageLinkDown link => decide (link < 4)
  | .mgmtFrame _ | .mgmtRequest _ _ | .mgmtTime _ _ | .plcaBeaconLoss | .signatureRequest _
  | .meterWindowClose _ | .meterInputFail | .restPoint _ => true
  | .ageingThreshold m => m.wf
  | .mbPoll _ | .sitterStatus _ | .sitterRestart _ | .regRead _ _ _ _ | .regWrite _ _ _ _ _ => true
  | .graphStore _ graph _ _ _ => decide (graph < 1024)
  | .graphDrop _ graph => decide (graph < 1024)
  | .firingLaunchCmd _ queue _ => decide (queue < 64)
  | .firingCancel _ _ => true
  | .paramPatch _ graph _ _ => decide (graph < 1024)
  | .taskBind _ graph queue => decide (graph < 1024) && decide (queue < 64)
  | .taskUnbind _ queue => decide (queue < 64)
  | .ringAttach _ | .ladderReset _ => true
  | .signalIncCmd _ sig _ _ => decide (sig < 8192)
  | .signalRead _ sig => decide (sig < 8192)
  | .signalSet _ sig _ _ => decide (sig < 8192)
  | .barrierArriveCmd _ group => decide (group < 256)
  | .wheelTurn _ _ _ | .powerStep _ _ _ _ => true
  | .damperRelease _ damper _ => decide (damper < 272)
  | .fabricPlan _ _ | .fabricJob _ _ _ _ => true
  | .fabricPort _ port => decide (port < 14)
  | .grxReset _ | .grxStatus _ | .repairStatus _ | .storeList _ | .storeRead _ _ _ _ _ | .storeWrite _ _ _ _ _
  | .storePort _ | .meterSeal _ | .meterBatchFetch _ _ | .meterBatchRelease _ _ | .meterBatchProof _ _ _
  | .attestReport _ _ _ | .tokenApplyCal _ _ | .tokenApplyRules _ _ | .tokenApplyFloor _ _
  | .tokenApplyDebug _ _ | .tokenApplyMgmtKeys _ _ | .tokenApplyOwnerKeys _ _ | .tokenApplyIdRotate _ _
  | .tokenApplyEnrol _ _ | .tokenApplyRelease _ _ | .fwLoad _ _ _ | .fwActivate _ | .resetWarm _
  | .resetCold _ _ | .fastThrottleEnd | .coolantInletHigh _ | .commitRecordLogged _ | .signatureComplete
  | .meterInputReturn => true
  | .storageLinkRetrain link _ => decide (link < 4)
  | .perstNRelease => true
  | .configurationWrite fn _ _ => decide (fn < 3)
  | .vectorUnitOperation job => decide (job.kiln < 8) && decide (job.shelf < 160)
  | .tileRegisterCopy _ kiln shelf row col tileOff sliceAddr len _ => decide (kiln < 8) && decide (shelf < 160) && decide (row < 8) && decide (col < 8) && decide (tileOff + len ≤ 4096) &&
      decide (sliceAddr + len ≤ sliceBytes)
  | .testAccess _ => true
  | .hostLaneLoss _ lane => decide (lane < 16)

/-- The stack addresses that a command names: they exist while their stack is not lost (R394). -/
def Instr.stackAddrs : Instr → List Nat
  | .stackLineRead _ a _ => [a]
  | .stackLineWrite _ a _ => [a]
  | .accumAdd _ _ accFmt a _ => [a, a + accElemBytes accFmt - 1]
  | _ => []

end Sys2Proof
end

