-- ==== Sys2Proof/Safety.lean ====
section
/-! DEFINITION. Safety.lean: the terms in which the statements speak of a run: the pieces of the state, what a
command changes and leaves alone, and the canonical form that every step keeps. -/

namespace Sys2Proof.Machine

/-- The parts of the state, as finely as the frame statements tell them apart: one register (`reg`, the number
of `regNo`), or one field of the state beside the registers. -/
inductive Piece
  | reg (no : Nat)
  | queue | fresh | power
  | tileMem | scratch | const | stack | hostMem | lines
  | passes | nextPass | cells | engines
  | waits | records | barriers | opened | sitterSync
  | graphs | copies | slots | firings | log | ledger | actions | turns | grants
  | wheel | dampers
  | topology | ports | flows | sent | inbox
  | buckets | watermarks
  | functions | storage
  | boxes | events | vectors | sitter | pieces
  | bus | frames | keys | firmware | signing | persistent | tables | meter | repair | phase
  deriving DecidableEq, Repr

/-- The stored values of one register's fields, all entries. -/
def State.regPart (s : State) (no : Nat) : Tab Nat := s.regs.filter fun p => keyReg p.1 == no

/-- The meter but for its two copies of the calibration table and of the rule table. -/
def Meter.rest (m : Meter) : Meter := { m with cal := [], rules := [] }

/-- Two states agree on a part. -/
def State.same (s t : State) : Piece → Prop
  | .reg no => t.regPart no = s.regPart no
  | .queue => t.pending = s.pending
  | .fresh => t.fresh = s.fresh
  | .power => t.power = s.power
  | .tileMem => t.mem.tile = s.mem.tile
  | .scratch => t.mem.scratch = s.mem.scratch
  | .const => t.mem.const = s.mem.const
  | .stack => t.mem.stack = s.mem.stack
  | .hostMem => t.mem.host = s.mem.host
  | .lines => t.mem.badLines = s.mem.badLines ∧ t.mem.staleParity = s.mem.staleParity ∧
      t.mem.reached = s.mem.reached ∧ t.mem.rebuilt = s.mem.rebuilt
  | .passes => t.passes = s.passes
  | .nextPass => t.nextPass = s.nextPass
  | .cells => t.cells = s.cells
  | .engines => t.engines = s.engines
  | .waits => t.flue.waits = s.flue.waits
  | .records => t.flue.records = s.flue.records
  | .barriers => t.flue.bars = s.flue.bars
  | .opened => t.flue.opened = s.flue.opened
  | .sitterSync => t.flue.sitter = s.flue.sitter
  | .graphs => t.fe.graphs = s.fe.graphs
  | .copies => t.fe.cur = s.fe.cur
  | .slots => t.fe.slots = s.fe.slots ∧ t.fe.woken = s.fe.woken ∧ t.fe.asked = s.fe.asked
  | .firings => t.fe.firings = s.fe.firings
  | .log => t.fe.log = s.fe.log ∧ t.fe.writing = s.fe.writing ∧ t.fe.nextPos = s.fe.nextPos ∧
      t.fe.sinceCursor = s.fe.sinceCursor
  | .ledger => t.fe.ledger = s.fe.ledger ∧ t.fe.nextLseq = s.fe.nextLseq ∧ t.fe.copying = s.fe.copying ∧
      t.fe.rebuilt = s.fe.rebuilt
  | .actions => t.fe.actions = s.fe.actions
  | .turns => t.fe.turns = s.fe.turns ∧ t.fe.releases = s.fe.releases
  | .grants => t.fe.grants = s.fe.grants
  | .wheel => t.wheel = s.wheel
  | .dampers => t.dampers = s.dampers
  | .topology => t.fab.plan = s.fab.plan ∧ t.fab.links = s.fab.links ∧ t.fab.notices = s.fab.notices
  | .ports => t.fab.ports = s.fab.ports
  | .flows => t.fab.src = s.fab.src ∧ t.fab.dst = s.fab.dst ∧ t.fab.again = s.fab.again
  | .sent => t.fab.sent = s.fab.sent ∧ t.fab.floods = s.fab.floods ∧ t.fab.frames = s.fab.frames
  | .inbox => t.fab.inbox = s.fab.inbox ∧ t.fab.refusals = s.fab.refusals
  | .buckets => t.grx.slots = s.grx.slots
  | .watermarks => t.grx.marks = s.grx.marks ∧ t.grx.pmarks = s.grx.pmarks
  | .functions => t.pci.fns = s.pci.fns ∧ t.pci.inReset = s.pci.inReset ∧ t.pci.hFailed = s.pci.hFailed
  | .storage => t.pci.split = s.pci.split ∧ t.pci.sUp = s.pci.sUp ∧ t.pci.sFailed = s.pci.sFailed ∧ t.pci.nvme = s.pci.nvme
  | .boxes => t.sit.boxes = s.sit.boxes
  | .events => t.sit.events = s.sit.events
  | .vectors => t.sit.vectors = s.sit.vectors ∧ t.sit.nextAt = s.sit.nextAt ∧ t.sit.owed = s.sit.owed
  | .sitter => t.sit.latched = s.sit.latched ∧ t.sit.restartCause = s.sit.restartCause
  | .pieces => t.sit.pieces = s.sit.pieces
  | .bus => t.mgmt = s.mgmt
  | .frames => t.sit.busOut = s.sit.busOut
  | .keys => t.sec.keys = s.sec.keys ∧ t.sec.oldKeys = s.sec.oldKeys
  | .firmware => t.sec.fw = s.sec.fw ∧ t.sec.fwBytes = s.sec.fwBytes ∧ t.sec.running = s.sec.running
  | .signing => t.sec.nonces = s.sec.nonces ∧ t.sec.queue = s.sec.queue ∧ t.sec.rotation = s.sec.rotation
  | .persistent => t.prs = s.prs
  | .tables => t.meter.cal = s.meter.cal ∧ t.meter.rules = s.meter.rules
  | .meter => t.meter.rest = s.meter.rest
  | .repair => t.rep = s.rep ∧ t.maps = s.maps
  | .phase => t.svc = s.svc

/-- What a frame statement names as changeable: one part, every register of a block, or every register. -/
inductive Grain
  | one (p : Piece)
  | block (b : Block)
  | registers
  deriving DecidableEq, Repr

/-- A part falls under a grain. -/
def Grain.covers : Grain → Piece → Bool
  | .one q, p => decide (q = p)
  | .block b, .reg no => no / 2 ^ 24 == blockNum b
  | .registers, .reg _ => true
  | _, _ => false

/-- A part falls under one of the grains. -/
def covered (gs : List Grain) (p : Piece) : Bool := gs.any (·.covers p)

/-- One register. -/
def Reg.grain (r : Reg) : Grain := .one (.reg (regNo r.block r.off))

/-- Every part outside the grains is as it was. -/
def Unchanged (gs : List Grain) (s t : State) : Prop := ∀ p, covered gs p = false → s.same t p

/-- Wherever the command answers a next state, that state differs from the one before in nothing but parts
under the grains. -/
def ChangesOnly (i : Instr) (gs : List Grain) : Prop := ∀ s t, exec i s = .next t → Unchanged gs s t

/-- The register fields as the state keeps them: keys strictly rise and a value fits its field's width. -/
def regsCanon (t : Tab Nat) : Bool := tsorted t && t.all fun p => decide (p.2 < 2 ^ (p.1 % 2 ^ 8))

/-- The copies of the repair map hold their fields in the register table's form. -/
def mapsCanon (l : List MapCopy) : Bool := l.all fun m => regsCanon m.regs

/-- The canonical form: the register table, the five memories and the copies of the repair map. -/
def State.Canon (s : State) : Prop :=
  regsCanon s.regs = true ∧ s.mem.tile.wf = true ∧ s.mem.scratch.wf = true ∧ s.mem.const.wf = true ∧
    s.mem.stack.wf = true ∧ s.mem.host.wf = true ∧ mapsCanon s.maps = true

/-- A persistent cell lies at the place of its slot that the parity of its COUNT names (R389). -/
def cellsPlaced (t : Tab (Option Cell)) : Bool := t.all fun p => p.2.all fun c => c.count % 2 == p.1 % 2

/-- No request asks for a clock step beyond the lowest, 5 (Table 1.10). -/
abbrev Power.clockOk (p : Power) : Prop := p.thermStep ≤ 5 ∧ p.inletStep ≤ 5 ∧ p.lowVStep ≤ 5 ∧ p.drawStep ≤ 5

/-- Bounds that the manual gives what the state holds: clock steps to 5 (Table 1.10), 16 power steps pending (R280),
16,384 entries of the record table (R223), persistent cells in their places (R389). -/
structure State.Bounds (s : State) : Prop where
  clock : s.power.clockOk
  steps : s.wheel.steps.length ≤ 16
  records : s.flue.records.length ≤ 16384
  cells : cellsPlaced s.prs.cells = true

/-- No operation of the Sitter is ready to go on: none waits, or the first is an arrival that is still held (R230). -/
def State.sitterSettled (s : State) : Bool :=
  match s.flue.sitter with
  | [] => true
  | (_, .arrive g, true) :: _ => (s.bar? g).any fun b => has b.second 1417
  | _ => false

/-- The command runs on the state and its next state has the property. -/
def Answers (i : Instr) (s : State) (P : State → Prop) : Prop := ∃ t, exec i s = .next t ∧ P t

/-! ### Mailbox commands (R358-R362) -/

/-- The origin and the code of a mailbox command (Table 13.7). -/
def mailboxOf : Instr → Option (Origin × Nat)
  | .mbPoll o => some (o, 0x0001)
  | .sitterStatus o => some (o, 0x0002)
  | .sitterRestart o => some (o, 0x0003)
  | .regRead o _ _ _ => some (o, 0x0010)
  | .regWrite o _ _ _ _ => some (o, 0x0011)
  | .graphStore o _ _ _ _ => some (o, 0x0100)
  | .graphDrop o _ => some (o, 0x0101)
  | .firingLaunchCmd o _ _ => some (o, 0x0110)
  | .firingCancel o _ => some (o, 0x0111)
  | .paramPatch o _ _ _ => some (o, 0x0112)
  | .taskBind o _ _ => some (o, 0x0113)
  | .taskUnbind o _ => some (o, 0x0114)
  | .ringAttach o => some (o, 0x0115)
  | .ladderReset o => some (o, 0x0120)
  | .signalIncCmd o _ _ _ => some (o, 0x0130)
  | .signalRead o _ => some (o, 0x0131)
  | .signalSet o _ _ _ => some (o, 0x0132)
  | .barrierArriveCmd o _ => some (o, 0x0133)
  | .wheelTurn o _ _ => some (o, 0x0140)
  | .powerStep o _ _ _ => some (o, 0x0141)
  | .damperRelease o _ _ => some (o, 0x0142)
  | .fabricPlan o _ => some (o, 0x0150)
  | .fabricJob o _ _ _ => some (o, 0x0151)
  | .fabricPort o _ => some (o, 0x0152)
  | .grxReset o => some (o, 0x0160)
  | .grxStatus o => some (o, 0x0161)
  | .repairStatus o => some (o, 0x0170)
  | .storeList o => some (o, 0x0200)
  | .storeRead o _ _ _ _ => some (o, 0x0201)
  | .storeWrite o _ _ _ _ => some (o, 0x0202)
  | .storePort o => some (o, 0x0203)
  | .meterSeal o => some (o, 0x0300)
  | .meterBatchFetch o _ => some (o, 0x0301)
  | .meterBatchRelease o _ => some (o, 0x0301)
  | .meterBatchProof o _ _ => some (o, 0x0301)
  | .attestReport o _ _ => some (o, 0x0400)
  | .tokenApplyCal o _ => some (o, 0x0401)
  | .tokenApplyRules o _ => some (o, 0x0401)
  | .tokenApplyFloor o _ => some (o, 0x0401)
  | .tokenApplyDebug o _ => some (o, 0x0401)
  | .tokenApplyMgmtKeys o _ => some (o, 0x0401)
  | .tokenApplyOwnerKeys o _ => some (o, 0x0401)
  | .tokenApplyIdRotate o _ => some (o, 0x0401)
  | .tokenApplyEnrol o _ => some (o, 0x0401)
  | .tokenApplyRelease o _ => some (o, 0x0401)
  | .fwLoad o _ _ => some (o, 0x0402)
  | .fwActivate o => some (o, 0x0403)
  | .resetWarm o => some (o, 0x0500)
  | .resetCold o _ => some (o, 0x0501)
  | _ => none

/-- The Sitter serves the command: it runs (R356), and none of S-300, S-301, S-342 and S-362 turns the command away
(R362, R374, R417). -/
def State.serves (s : State) (o : Origin) (cmd : Nat) : Prop := s.sitterUp = true ∧ s.gate o cmd = none

/-- The parts that carry a reply: the mailboxes, the vectors raised, the frames sent on the bus. -/
def replyGrains : List Grain := [.one .boxes, .one .vectors, .one .frames]

/-- The origin's mailbox is DONE with a reply (R359): SEQ and TAG of the request taken, the status, RESTARTED when
the command crossed a Sitter restart, and the payload. -/
def State.replied (s t : State) (o : Origin) (code : Code) (payload : List Nat) : Prop :=
  (t.box o).st = 2 ∧
    (t.box o).reply = some ⟨(s.box o).req.seq, (s.box o).req.tag, code, (s.box o).crossed, payload⟩

/-- The command runs, replies, and changes nothing beside the reply but parts under the grains. -/
def Replies (i : Instr) (o : Origin) (code : Code) (payload : List Nat) (gs : List Grain) (s : State) : Prop :=
  Answers i s fun t => s.replied t o code payload ∧ Unchanged (replyGrains ++ gs) s t

/-! ### What a command may change -/

/-- What posting an event changes. -/
def eventGrains : List Grain :=
  [.one .events, .one .vectors]

/-- The five memories. -/
def memoryGrains : List Grain :=
  [.one .tileMem, .one .scratch, .one .const, .one .stack, .one .hostMem]

/-- What stopping a firing changes, for replay or for good (R161, R245). -/
def stopGrains : List Grain :=
  [.one .fresh, .one .tileMem, .one .scratch, .one .const, .one .stack, .one .hostMem, .one .passes, .one .engines,
   .one .waits, .one .firings, .one .dampers, shfAbandonReg.grain, shfFeedStallReg.grain, shfInfZeroReg.grain,
   shfIntSatReg.grain]

/-- What a commit of the repair map and a use of spares change (R390, R394, R425). -/
def keptGrains : List Grain :=
  [.one .events, .one .vectors, .one .persistent, .one .repair, modSparesReg.grain, prsCopySelReg.grain,
   prsStatusReg.grain]

/-- What a graph that leaves residence takes with it (R243). -/
def dropGrains : List Grain :=
  [.one .graphs, .one .copies, .one .buckets, .one .watermarks, feGaugeReg.grain, feLadderReg.grain, feRuleReg.grain,
   feSqCfgReg.grain, grxGatherReg.grain, grxInstReg.grain]

/-- What handing packets to the fabric changes (R303-R312). -/
def sendGrains : List Grain :=
  [.one .dampers, .one .ports, .one .flows, .one .sent, .one .inbox, dmpReqStatReg.grain, dmpStatusReg.grain,
   fabHoldReg.grain]

/-- What signals and the record table show of work that ends (R206, R223). -/
def doneGrains : List Grain :=
  [.one .records, .one .opened, fluNearTimeoutReg.grain, fluRecordUseReg.grain, fluSigValueReg.grain,
   fluStatusReg.grain]

/-- The maps of columns, spare tiles and spare shelves (Tables 6.5, 6.10, 6.11). -/
def spareGrains : List Grain :=
  [klnSpareMap0Reg.grain, klnSpareMap1Reg.grain, shfSpareMapReg.grain, tileColmapReg.grain]

/-- What a power-up may change: everything but the queue. -/
def powerUpGrains : List Grain :=
  [.registers, .one .fresh, .one .power, .one .tileMem, .one .scratch, .one .const, .one .stack, .one .hostMem,
   .one .lines, .one .passes, .one .nextPass, .one .cells, .one .engines, .one .waits, .one .records, .one .barriers,
   .one .opened, .one .sitterSync, .one .graphs, .one .copies, .one .slots, .one .firings, .one .log, .one .ledger,
   .one .actions, .one .turns, .one .grants, .one .wheel, .one .dampers, .one .topology, .one .ports, .one .flows,
   .one .sent, .one .inbox, .one .buckets, .one .watermarks, .one .functions, .one .storage, .one .boxes,
   .one .events, .one .vectors, .one .sitter, .one .pieces, .one .bus, .one .frames, .one .keys, .one .firmware,
   .one .signing, .one .persistent, .one .tables, .one .meter, .one .repair, .one .phase]

/-- What each command may change beside the queue: no outcome of it, refused, waiting or done, changes anything
else. A register stands for all its entries. -/
def frameOf (i : Instr) : List Grain :=
  match i with
  | .powerUp _ => powerUpGrains
  | .lowVSeen _ => [.one .fresh, .one .power, modPwrStatusReg.grain]
  | .pwrFailNLow => [.one .power, .one .phase, modPwrStatusReg.grain]
  | .undervoltage _ => [.one .power, .one .phase, modPwrStatusReg.grain]
  | .overvoltage _ => eventGrains ++ [.one .power, .one .phase, modPwrStatusReg.grain]
  | .powerFailSequence =>
      memoryGrains ++ [.one .fresh, .one .passes, .one .engines, .one .waits, .one .dampers, modPwrStatusReg.grain,
        shfAbandonReg.grain, shfFeedStallReg.grain, shfInfZeroReg.grain, shfIntSatReg.grain]
  | .powerMark => [.one .log]
  | .pwrFailNRelease =>
      stopGrains ++ [.one .power, .one .cells, .one .barriers, .one .opened, .one .ledger, .one .turns, .one .sitter,
        .one .meter, .one .phase, dmaHeadReg.grain, dmaRingBaseReg.grain, dmaRingCtlReg.grain, dmaStatusReg.grain,
        feFseqReg.grain, fluNearTimeoutReg.grain, fluSigValueReg.grain, fluStatusReg.grain, klnGangReg.grain,
        modResetReg.grain, shfGangReg.grain, sitCoreReg.grain]
  | .inputPowerLoss => [.one .power, .one .log, .one .wheel, .one .meter, .one .phase]
  | .fastThrottle _ =>
      [.one .fresh, .one .power, .one .scratch, .one .passes, modClkStepReg.grain, modPwrStatusReg.grain,
        shfAbandonReg.grain, shfFeedStallReg.grain, shfInfZeroReg.grain, shfIntSatReg.grain]
  | .slowPowerStep _ => [.one .fresh, .one .power, modClkStepReg.grain]
  | .thermalStepDown _ => [.one .power, modClkStepReg.grain]
  | .thermalStepUp _ => [.one .power, modClkStepReg.grain]
  | .thermalTrip _ => eventGrains ++ [.one .power, .one .phase, modClkStepReg.grain]
  | .regulatorPhaseFail _ =>
      keptGrains ++ memoryGrains ++ [.one .fresh, .one .power, .one .passes, .one .engines, .one .waits,
        .one .dampers, .one .phase, modPwrStatusReg.grain, shfAbandonReg.grain, shfFeedStallReg.grain,
        shfInfZeroReg.grain, shfIntSatReg.grain]
  | .moduleFault _ =>
      keptGrains ++ memoryGrains ++ [.one .fresh, .one .power, .one .passes, .one .engines, .one .waits,
        .one .dampers, .one .phase, modGeomReg.grain, modPwrStatusReg.grain, shfAbandonReg.grain,
        shfFeedStallReg.grain, shfInfZeroReg.grain, shfIntSatReg.grain]
  | .capStepWrite _ => [modClkStepReg.grain]
  | .registerWrite _ _ _ _ _ =>
      memoryGrains ++ replyGrains ++ [.registers, .one .fresh, .one .power, .one .passes, .one .engines, .one .waits,
        .one .slots, .one .dampers, .one .events, .one .sitter, .one .persistent, .one .repair, .one .phase]
  | .persistentWrite _ _ _ _ =>
      keptGrains ++ memoryGrains ++ [.one .fresh, .one .power, .one .passes, .one .engines, .one .waits,
        .one .dampers, .one .phase, fabIncReg.grain, feFseqEndReg.grain, modRestCfgReg.grain, mtrCfgReg.grain,
        pciSCfgReg.grain, secFloorReg.grain, secFwSelReg.grain, secKeystateReg.grain, shfAbandonReg.grain,
        shfFeedStallReg.grain, shfInfZeroReg.grain, shfIntSatReg.grain, sitMgmtCfgReg.grain]
  | .operationGrant _ _ => stopGrains ++ [.one .turns, .one .grants]
  | .passStart _ =>
      [.one .fresh, .one .scratch, .one .passes, .one .nextPass, .one .cells, .one .firings, klnGangReg.grain,
        shfGangReg.grain]
  | .drain _ _ =>
      dropGrains ++ keptGrains ++ memoryGrains ++ [.one .fresh, .one .passes, .one .cells, .one .engines,
        .one .waits, .one .firings, .one .turns, .one .dampers, klnSpareMap0Reg.grain, klnSpareMap1Reg.grain,
        modGeomReg.grain, .block .shf, tileColmapReg.grain]
  | .drainTimeout _ _ =>
      stopGrains ++ dropGrains ++ keptGrains ++ spareGrains ++ [.one .turns, modGeomReg.grain, shfWitStatReg.grain]
  | .shelfFault _ _ =>
      stopGrains ++ dropGrains ++ keptGrains ++ spareGrains ++ [.one .turns, modGeomReg.grain, shfWitStatReg.grain]
  | .dmaDoorbell _ => [.one .engines]
  | .dmaRingEnableWrite _ _ => [.one .engines, dmaRingCtlReg.grain]
  | .descriptorFetch _ =>
      stopGrains ++ eventGrains ++ [.one .lines, .one .turns, dmaHeadReg.grain, dmaStatusReg.grain,
        stkUeAddrReg.grain, stkUeReg.grain]
  | .descriptorStart _ =>
      stopGrains ++ eventGrains ++ [.one .lines, .one .opened, .one .turns, fluNearTimeoutReg.grain,
        fluSigValueReg.grain, fluStatusReg.grain, grxCntReg.grain, stkUeAddrReg.grain, stkUeReg.grain]
  | .waitCopyRelease _ =>
      stopGrains ++ eventGrains ++ [.one .lines, .one .turns, grxCntReg.grain, stkUeAddrReg.grain, stkUeReg.grain]
  | .descriptorComplete _ _ =>
      stopGrains ++ doneGrains ++ [.one .lines, .one .turns, .one .watermarks, dmaBytesReg.grain,
        dmaRingCtlReg.grain, grxCntReg.grain, grxGatherReg.grain, grxInstReg.grain, grxStatusReg.grain,
        stkUeAddrReg.grain, stkUeReg.grain]
  | .stackLineRead _ _ _ =>
      stopGrains ++ [.one .lines, .one .turns, stkCeCntReg.grain, stkUeAddrReg.grain, stkUeReg.grain]
  | .stackLineWrite _ _ _ => stopGrains ++ [.one .lines, .one .turns, stkUeAddrReg.grain, stkUeReg.grain]
  | .parityRecompute _ _ => [.one .lines]
  | .accumAdd _ _ _ _ _ =>
      stopGrains ++ [.one .lines, .one .turns, .one .watermarks, grxCntReg.grain, grxInstReg.grain,
        grxStatusReg.grain, stkUeAddrReg.grain, stkUeReg.grain]
  | .channelFail _ _ _ =>
      stopGrains ++ keptGrains ++ [.one .power, .one .lines, .one .turns, .one .phase, modGeomReg.grain,
        stkStatusReg.grain]
  | .rebuildComplete _ => [.one .lines, stkStatusReg.grain]
  | .hostAccessError _ => stopGrains ++ [.one .turns, dmaStatusReg.grain]
  | .hostReadTimeout _ => stopGrains ++ [.one .turns, dmaStatusReg.grain]
  | .sigInc _ _ _ _ _ _ => stopGrains ++ doneGrains ++ [.one .turns]
  | .waitGe _ _ _ _ _ _ =>
      stopGrains ++ [.one .opened, .one .turns, fluNearTimeoutReg.grain, fluSigValueReg.grain, fluStatusReg.grain]
  | .waitCon _ _ _ _ _ _ =>
      stopGrains ++ [.one .opened, .one .turns, fluNearTimeoutReg.grain, fluSigValueReg.grain, fluStatusReg.grain]
  | .waitExpiry _ _ =>
      stopGrains ++ [.one .opened, .one .turns, fluNearTimeoutReg.grain, fluSigValueReg.grain, fluStatusReg.grain,
        whlCountReg.grain]
  | .barArrive _ _ _ _ =>
      stopGrains ++ replyGrains ++ [.one .barriers, .one .opened, .one .sitterSync, .one .turns,
        fluNearTimeoutReg.grain, fluSigValueReg.grain, fluStatusReg.grain]
  | .barWait _ _ _ _ => [.one .barriers, .one .firings]
  | .barArriveWait _ _ _ _ =>
      stopGrains ++ replyGrains ++ [.one .barriers, .one .opened, .one .sitterSync, .one .turns,
        fluNearTimeoutReg.grain, fluSigValueReg.grain, fluStatusReg.grain]
  | .dmaBarrierArrival _ _ =>
      stopGrains ++ replyGrains ++ [.one .barriers, .one .opened, .one .sitterSync, .one .turns,
        fluNearTimeoutReg.grain, fluSigValueReg.grain, fluStatusReg.grain]
  | .timeSliceExpiry _ => [.one .turns, whlCountReg.grain]
  | .contextSwitch _ =>
      stopGrains ++ [.one .barriers, .one .opened, .one .turns, fluNearTimeoutReg.grain, fluSigValueReg.grain,
        fluStatusReg.grain]
  | .contextRestore _ =>
      stopGrains ++ replyGrains ++ [.one .barriers, .one .opened, .one .sitterSync, .one .turns,
        fluBarRestartReg.grain, fluNearTimeoutReg.grain, fluSigValueReg.grain, fluStatusReg.grain]
  | .sqDoorbell _ => [.one .slots]
  | .slotAccept _ =>
      replyGrains ++ [.one .slots, .one .firings, .one .log, .one .events, .one .persistent, .one .repair,
        feFseqEndReg.grain, feFseqReg.grain, feSqCfgReg.grain, feStatusReg.grain, modSparesReg.grain,
        prsStatusReg.grain]
  | .acceptRecordLogged _ => replyGrains ++ [.one .slots, .one .firings, .one .log]
  | .firingLaunch _ =>
      stopGrains ++ [.one .lines, .one .barriers, .one .opened, .one .turns, dmaRingCtlReg.grain,
        fluSigValueReg.grain, stkUeAddrReg.grain, stkUeReg.grain]
  | .firingFault _ _ => stopGrains ++ [.one .turns]
  | .firingCommit _ =>
      stopGrains ++ sendGrains ++ [.one .lines, .one .log, .one .ledger, .one .turns, fabPortCntReg.grain,
        fabStatusReg.grain, stkUeAddrReg.grain, stkUeReg.grain]
  | .actionDone _ =>
      stopGrains ++ sendGrains ++ doneGrains ++ eventGrains ++ [.one .log, .one .actions, .one .turns,
        fabPortCntReg.grain, fabStatusReg.grain]
  | .cursorRecord => [.one .log]
  | .hostRingCopy => [.one .hostMem, .one .ledger, dmpReqStatReg.grain]
  | .hostRingReadback _ =>
      eventGrains ++ [.one .graphs, .one .copies, .one .slots, .one .firings, .one .log, .one .ledger, .one .actions,
        .one .turns, .one .grants, feHringCtlReg.grain, feHringPtrReg.grain]
  | .turnStart =>
      stopGrains ++ sendGrains ++ [.one .turns, .one .wheel, .one .topology, .one .meter, .one .phase,
        fabE2eCntReg.grain, fabPortCntReg.grain, fabStatusReg.grain, modClkStepReg.grain, modCradleReg.grain,
        whlCountReg.grain, whlErrReg.grain, whlPosReg.grain, whlStatusReg.grain, whlTurnLenReg.grain,
        whlTurnStartReg.grain]
  | .angleEvent _ =>
      sendGrains ++ [.one .stack, .one .lines, .one .wheel, .one .watermarks, fabE2eCntReg.grain,
        fabPortCntReg.grain, fluStatusReg.grain, grxCntReg.grain, grxGatherReg.grain, grxInstReg.grain,
        grxStatusReg.grain, modClkStepReg.grain, stkUeAddrReg.grain, stkUeReg.grain, whlCountReg.grain,
        whlStatusReg.grain]
  | .turnEdge _ _ => [.one .wheel, whlCountReg.grain, whlPosReg.grain, whlStatusReg.grain, whlTurnStartReg.grain]
  | .wheelRefLoss _ _ => [.one .wheel, whlStatusReg.grain]
  | .wheelMarkSend => [.one .wheel, whlCountReg.grain]
  | .wheelMark _ _ => [.one .fresh, .one .wheel, whlErrReg.grain, whlStatusReg.grain, whlTurnLenReg.grain]
  | .wheelMarkLoss => [.one .wheel, whlStatusReg.grain]
  | .wheelStep =>
      [.one .waits, .one .wheel, .one .dampers, .one .repair, whlCountReg.grain, whlPosReg.grain, whlStatusReg.grain,
        whlTurnLenReg.grain, whlTurnStartReg.grain]
  | .windowOpen _ _ =>
      sendGrains ++ [.one .stack, .one .lines, .one .watermarks, fabE2eCntReg.grain, fabPortCntReg.grain,
        fluStatusReg.grain, grxCntReg.grain, grxGatherReg.grain, grxInstReg.grain, grxStatusReg.grain,
        stkUeAddrReg.grain, stkUeReg.grain, whlCountReg.grain]
  | .windowClose _ _ =>
      sendGrains ++ [.one .stack, .one .lines, .one .watermarks, fabE2eCntReg.grain, fabPortCntReg.grain,
        fluStatusReg.grain, grxCntReg.grain, grxGatherReg.grain, grxInstReg.grain, grxStatusReg.grain,
        stkUeAddrReg.grain, stkUeReg.grain, whlCountReg.grain]
  | .damperTransferArrival _ _ =>
      stopGrains ++ sendGrains ++ [.one .lines, .one .turns, .one .watermarks, fabE2eCntReg.grain,
        fabPortCntReg.grain, fabStatusReg.grain, fluStatusReg.grain, grxCntReg.grain, grxGatherReg.grain,
        grxInstReg.grain, grxStatusReg.grain, stkUeAddrReg.grain, stkUeReg.grain]
  | .damperGrant _ =>
      sendGrains ++ [.one .stack, .one .lines, .one .watermarks, fabE2eCntReg.grain, fabPortCntReg.grain,
        fluStatusReg.grain, grxCntReg.grain, grxGatherReg.grain, grxInstReg.grain, grxStatusReg.grain,
        stkUeAddrReg.grain, stkUeReg.grain]
  | .cutOff _ =>
      sendGrains ++ eventGrains ++ [.one .stack, .one .lines, .one .watermarks, dmpCutReg.grain, fabE2eCntReg.grain,
        fabPortCntReg.grain, fluStatusReg.grain, grxCntReg.grain, grxGatherReg.grain, grxInstReg.grain,
        grxStatusReg.grain, stkUeAddrReg.grain, stkUeReg.grain, whlCountReg.grain]
  | .dmpRelease _ _ => [.one .dampers, dmpCutReg.grain, dmpReqStatReg.grain]
  | .flitReceive _ _ => sendGrains ++ [fabPortCntReg.grain]
  | .linkReplay _ _ => [.one .ports, .one .sent, fabPortCntReg.grain]
  | .packetForward _ => sendGrains
  | .laneFail _ _ =>
      keptGrains ++ sendGrains ++ [.one .topology, fabPortCntReg.grain, fabPortStatusReg.grain, fabStatusReg.grain]
  | .linkRetrain _ _ _ =>
      keptGrains ++ sendGrains ++ [.one .topology, fabPortCntReg.grain, fabPortStatusReg.grain, fabStatusReg.grain]
  | .linkDown _ => sendGrains ++ [.one .topology, fabPortCntReg.grain, fabPortStatusReg.grain, fabStatusReg.grain]
  | .linkTraining _ _ =>
      keptGrains ++ sendGrains ++ [.one .topology, fabPortCntReg.grain, fabPortStatusReg.grain, fabStatusReg.grain]
  | .trainingRetry _ => [.one .dampers, .one .ports, fabPortStatusReg.grain]
  | .identityFrame _ _ =>
      sendGrains ++ eventGrains ++ [.one .topology, fabPortCntReg.grain, fabPortStatusReg.grain, fabStatusReg.grain]
  | .linkStateNotice _ _ => [.one .topology, .one .sent]
  | .writePacket _ =>
      sendGrains ++ [.one .stack, .one .lines, .one .watermarks, fabE2eCntReg.grain, fabPortCntReg.grain,
        fluStatusReg.grain, grxCntReg.grain, grxGatherReg.grain, grxInstReg.grain, grxStatusReg.grain,
        stkUeAddrReg.grain, stkUeReg.grain]
  | .accumPacket _ =>
      sendGrains ++ [.one .stack, .one .lines, .one .watermarks, fabE2eCntReg.grain, fabPortCntReg.grain,
        fluStatusReg.grain, grxCntReg.grain, grxGatherReg.grain, grxInstReg.grain, grxStatusReg.grain,
        stkUeAddrReg.grain, stkUeReg.grain]
  | .signalPacket _ _ =>
      stopGrains ++ sendGrains ++ doneGrains ++ [.one .turns, fabE2eCntReg.grain, fabPortCntReg.grain]
  | .retirePacket _ => sendGrains ++ [.one .records, fabE2eCntReg.grain, fabPortCntReg.grain, fluStatusReg.grain]
  | .ackPacket _ => [.one .log, .one .flows]
  | .nakPacket _ => sendGrains ++ [fabE2eCntReg.grain, fabPortCntReg.grain]
  | .refusePacket _ => stopGrains ++ eventGrains ++ [.one .turns, .one .flows, fabE2eCntReg.grain]
  | .resyncPacket _ => stopGrains ++ [.one .turns, .one .flows, fabStatusReg.grain]
  | .resendTimeout _ => sendGrains ++ [fabE2eCntReg.grain, fabPortCntReg.grain, whlCountReg.grain]
  | .destinationUnreachable _ => stopGrains ++ [.one .turns, whlCountReg.grain]
  | .heldReadRelease _ =>
      stopGrains ++ eventGrains ++ [.one .lines, .one .turns, grxCntReg.grain, stkUeAddrReg.grain, stkUeReg.grain]
  | .functionLevelReset _ =>
      stopGrains ++ sendGrains ++ doneGrains ++ eventGrains ++ [.one .barriers, .one .sitterSync, .one .slots,
        .one .ledger, .one .actions, .one .turns, .one .functions, .one .storage, .one .boxes, .one .sitter,
        .one .signing, fabPortCntReg.grain, fabStatusReg.grain, feFseqReg.grain, feHringCtlReg.grain,
        feHringPtrReg.grain, feSqCfgReg.grain, sitMbStateReg.grain]
  | .perstN _ =>
      stopGrains ++ sendGrains ++ doneGrains ++ eventGrains ++ [.one .power, .one .barriers, .one .sitterSync,
        .one .slots, .one .ledger, .one .actions, .one .turns, .one .functions, .one .storage, .one .boxes,
        .one .sitter, .one .signing, fabPortCntReg.grain, fabStatusReg.grain, feFseqReg.grain, feHringCtlReg.grain,
        feHringPtrReg.grain, feSqCfgReg.grain, pciHStatusReg.grain, sitMbStateReg.grain]
  | .mbDoorbell _ _ => replyGrains ++ [.one .sitter, sitMbStateReg.grain]
  | .eventPost _ _ => eventGrains
  | .lockstepMismatch _ _ =>
      keptGrains ++ memoryGrains ++ [.one .fresh, .one .power, .one .passes, .one .engines, .one .waits,
        .one .dampers, .one .sitter, .one .phase, feFseqReg.grain, shfAbandonReg.grain, shfFeedStallReg.grain,
        shfInfZeroReg.grain, shfIntSatReg.grain, sitCoreReg.grain]
  | .heartbeatLoss =>
      memoryGrains ++ [.one .fresh, .one .engines, .one .dampers, .one .sitter, feFseqReg.grain, sitCoreReg.grain]
  | .sitterRestartComplete _ =>
      memoryGrains ++ replyGrains ++ [.one .fresh, .one .power, .one .passes, .one .engines, .one .waits,
        .one .dampers, .one .storage, .one .events, .one .sitter, .one .keys, .one .firmware, .one .signing,
        .one .tables, .one .repair, .one .phase, secIdNextReg.grain, secStateReg.grain, shfAbandonReg.grain,
        shfFeedStallReg.grain, shfInfZeroReg.grain, shfIntSatReg.grain, sitCoreReg.grain, sitMbStateReg.grain]
  | .nvmeCompletion _ _ => replyGrains ++ [.one .storage]
  | .driveRequest _ _ _ _ =>
      [.one .fresh, .one .stack, .one .lines, .one .pieces, dmpReqStatReg.grain, pciSStatusReg.grain,
        stkUeAddrReg.grain, stkUeReg.grain]
  | .storageLinkDown _ => replyGrains ++ [.one .storage, .one .events, pciSStatusReg.grain]
  | .mgmtFrame _ => replyGrains ++ [.one .events, .one .bus, sitMbStateReg.grain, sitMgmtCntReg.grain]
  | .mgmtRequest _ _ => replyGrains ++ [sitMbStateReg.grain]
  | .mgmtTime _ _ => [.one .bus]
  | .plcaBeaconLoss => eventGrains ++ [.one .bus]
  | .signatureRequest _ => [.one .signing]
  | .meterWindowClose _ =>
      eventGrains ++ [.one .fresh, .one .frames, .one .signing, .one .meter, mtrBatchReg.grain, mtrStatusReg.grain,
        mtrWinReg.grain, whlCountReg.grain]
  | .meterInputFail => eventGrains ++ [.one .meter, mtrStatusReg.grain]
  | .restPoint _ =>
      stopGrains ++ dropGrains ++ keptGrains ++ sendGrains ++ doneGrains ++ spareGrains ++ replyGrains ++ [
        .one .barriers, .one .sitterSync, .one .actions, .one .turns, .one .phase, fabPortCntReg.grain,
        fabStatusReg.grain, fluBarRestartReg.grain, modGeomReg.grain, modRestStatusReg.grain, shfWitStatReg.grain,
        sitCoreReg.grain, stkDqSpareReg.grain]
  | .ageingThreshold _ =>
      stopGrains ++ dropGrains ++ keptGrains ++ sendGrains ++ spareGrains ++ [.one .power, .one .lines, .one .turns,
        .one .topology, .one .phase, fabPortCntReg.grain, fabPortStatusReg.grain, fabStatusReg.grain,
        modGeomReg.grain, modPwrStatusReg.grain, shfWitStatReg.grain, stkStatusReg.grain]
  | .mbPoll _ => replyGrains ++ [.one .events]
  | .sitterStatus _ => replyGrains
  | .sitterRestart _ =>
      memoryGrains ++ replyGrains ++ [.one .fresh, .one .engines, .one .dampers, .one .sitter, feFseqReg.grain,
        sitCoreReg.grain]
  | .regRead _ _ _ _ => replyGrains ++ [.one .fresh]
  | .regWrite _ _ _ _ _ =>
      memoryGrains ++ replyGrains ++ [.registers, .one .fresh, .one .power, .one .passes, .one .engines, .one .waits,
        .one .slots, .one .dampers, .one .events, .one .sitter, .one .persistent, .one .repair, .one .phase]
  | .graphStore _ _ _ _ _ =>
      dropGrains ++ replyGrains ++ [.one .fresh, .one .stack, .one .lines, .one .dampers, .one .pieces,
        stkUeAddrReg.grain, stkUeReg.grain]
  | .graphDrop _ _ => dropGrains ++ replyGrains ++ [.one .dampers]
  | .firingLaunchCmd _ _ _ => replyGrains ++ [.one .slots]
  | .firingCancel _ _ => stopGrains ++ replyGrains ++ [.one .turns]
  | .paramPatch _ _ _ _ => replyGrains ++ [.one .graphs]
  | .taskBind _ _ _ => replyGrains ++ [feSqCfgReg.grain]
  | .taskUnbind _ _ => replyGrains ++ [feSqCfgReg.grain]
  | .ringAttach _ => replyGrains ++ [.one .ledger, feHringCtlReg.grain, feHringPtrReg.grain]
  | .ladderReset _ => replyGrains ++ [feGaugeReg.grain, feLadderCtlReg.grain, feLadderReg.grain]
  | .signalIncCmd _ _ _ _ =>
      stopGrains ++ replyGrains ++ [.one .barriers, .one .opened, .one .sitterSync, .one .turns,
        fluNearTimeoutReg.grain, fluSigValueReg.grain, fluStatusReg.grain]
  | .signalRead _ _ =>
      stopGrains ++ replyGrains ++ [.one .barriers, .one .opened, .one .sitterSync, .one .turns,
        fluNearTimeoutReg.grain, fluSigValueReg.grain, fluStatusReg.grain]
  | .signalSet _ _ _ _ =>
      stopGrains ++ replyGrains ++ [.one .barriers, .one .opened, .one .sitterSync, .one .turns,
        fluNearTimeoutReg.grain, fluSigValueReg.grain, fluStatusReg.grain]
  | .barrierArriveCmd _ _ =>
      stopGrains ++ replyGrains ++ [.one .barriers, .one .opened, .one .sitterSync, .one .turns,
        fluNearTimeoutReg.grain, fluSigValueReg.grain, fluStatusReg.grain]
  | .wheelTurn _ _ _ => replyGrains ++ [.one .wheel]
  | .powerStep _ _ _ _ => replyGrains ++ [.one .wheel, whlStatusReg.grain]
  | .damperRelease _ _ _ => replyGrains ++ [.one .dampers, dmpCutReg.grain, dmpReqStatReg.grain]
  | .fabricPlan _ _ =>
      replyGrains ++ [.one .dampers, .one .topology, .one .ports, fabPlanReg.grain, fabPortStatusReg.grain,
        fabStatusReg.grain, whlStatusReg.grain]
  | .fabricJob _ _ _ _ => replyGrains ++ [fabJobReg.grain, fabStatusReg.grain]
  | .fabricPort _ _ => replyGrains ++ [.one .dampers, .one .ports, fabPortStatusReg.grain]
  | .grxReset _ =>
      replyGrains ++ [.one .stack, .one .lines, .one .watermarks, grxGatherReg.grain, grxInstReg.grain,
        stkUeAddrReg.grain, stkUeReg.grain]
  | .grxStatus _ => replyGrains
  | .repairStatus _ => replyGrains
  | .storeList _ => replyGrains
  | .storeRead _ _ _ _ _ => replyGrains ++ [.one .storage]
  | .storeWrite _ _ _ _ _ => replyGrains ++ [.one .fresh, .one .storage]
  | .storePort _ => replyGrains ++ [.one .storage, pciSStatusReg.grain]
  | .meterSeal _ => replyGrains ++ [.one .meter]
  | .meterBatchFetch _ _ => replyGrains ++ [.one .fresh, .one .hostMem]
  | .meterBatchRelease _ _ => replyGrains ++ [.one .meter]
  | .meterBatchProof _ _ _ => replyGrains
  | .attestReport _ _ _ => replyGrains ++ [.one .fresh, .one .hostMem, .one .signing]
  | .tokenApplyCal _ _ => keptGrains ++ replyGrains ++ [.one .signing, .one .tables, .one .meter]
  | .tokenApplyRules _ _ => keptGrains ++ replyGrains ++ [.one .signing, .one .tables, .one .meter]
  | .tokenApplyFloor _ _ =>
      replyGrains ++ [.one .events, .one .firmware, .one .signing, .one .persistent, .one .repair,
        modSparesReg.grain, prsStatusReg.grain, secFloorReg.grain]
  | .tokenApplyDebug _ _ => replyGrains ++ [.one .power, .one .signing, secStateReg.grain]
  | .tokenApplyMgmtKeys _ _ =>
      replyGrains ++ [.one .events, .one .bus, .one .keys, .one .signing, .one .persistent, .one .repair,
        modSparesReg.grain, prsStatusReg.grain, secKeystateReg.grain]
  | .tokenApplyOwnerKeys _ _ =>
      replyGrains ++ [.one .events, .one .bus, .one .keys, .one .signing, .one .persistent, .one .repair,
        modSparesReg.grain, prsStatusReg.grain, secKeystateReg.grain]
  | .tokenApplyIdRotate _ _ =>
      replyGrains ++ [.one .events, .one .bus, .one .keys, .one .signing, .one .persistent, .one .repair,
        modSparesReg.grain, prsStatusReg.grain, secIdNextReg.grain, secKeystateReg.grain, secStateReg.grain]
  | .tokenApplyEnrol _ _ =>
      replyGrains ++ [.one .events, .one .bus, .one .keys, .one .signing, .one .persistent, .one .repair,
        modSparesReg.grain, prsStatusReg.grain, secKeystateReg.grain, secStateReg.grain]
  | .tokenApplyRelease _ _ =>
      replyGrains ++ [.one .power, .one .events, .one .bus, .one .keys, .one .signing, .one .persistent,
        .one .repair, modSparesReg.grain, prsStatusReg.grain, secKeystateReg.grain, secStateReg.grain]
  | .fwLoad _ _ _ => replyGrains ++ [.one .firmware]
  | .fwActivate _ =>
      memoryGrains ++ replyGrains ++ [.one .fresh, .one .engines, .one .dampers, .one .events, .one .sitter,
        .one .persistent, .one .repair, feFseqReg.grain, modSparesReg.grain, prsStatusReg.grain, secFwSelReg.grain,
        sitCoreReg.grain]
  | .resetWarm _ =>
      stopGrains ++ keptGrains ++ replyGrains ++ [.one .power, .one .cells, .one .barriers, .one .opened,
        .one .ledger, .one .turns, .one .sitter, .one .meter, .one .phase, dmaHeadReg.grain, dmaRingBaseReg.grain,
        dmaRingCtlReg.grain, dmaStatusReg.grain, feFseqReg.grain, fluNearTimeoutReg.grain, fluSigValueReg.grain,
        fluStatusReg.grain, klnGangReg.grain, modResetReg.grain, shfGangReg.grain, sitCoreReg.grain]
  | .resetCold _ _ =>
      memoryGrains ++ replyGrains ++ [.one .fresh, .one .power, .one .passes, .one .engines, .one .waits, .one .log,
        .one .dampers, .one .phase, shfAbandonReg.grain, shfFeedStallReg.grain, shfInfZeroReg.grain,
        shfIntSatReg.grain]
  | .fastThrottleEnd => [.one .power]
  | .coolantInletHigh _ => [.one .fresh, .one .power, modClkStepReg.grain]
  | .commitRecordLogged _ =>
      stopGrains ++ sendGrains ++ doneGrains ++ eventGrains ++ [.one .lines, .one .barriers, .one .copies, .one .log,
        .one .ledger, .one .actions, .one .turns, .one .watermarks, .one .meter, fabPortCntReg.grain,
        fabStatusReg.grain, feGaugeReg.grain, feLadderCtlReg.grain, feLadderReg.grain, feLadderStatReg.grain,
        grxGatherReg.grain, grxInstReg.grain, stkUeAddrReg.grain, stkUeReg.grain]
  | .signatureComplete =>
      replyGrains ++ [.one .hostMem, .one .events, .one .signing, .one .persistent, .one .meter, .one .repair,
        modSparesReg.grain, prsStatusReg.grain, secIdNextReg.grain, secKeystateReg.grain, secStateReg.grain]
  | .meterInputReturn => [.one .meter, mtrStatusReg.grain]
  | .storageLinkRetrain _ _ => eventGrains ++ [.one .storage, pciSStatusReg.grain]
  | .perstNRelease => [.one .power, .one .functions, pciHStatusReg.grain]
  | .configurationWrite _ _ _ =>
      stopGrains ++ sendGrains ++ doneGrains ++ eventGrains ++ [.one .barriers, .one .sitterSync, .one .slots,
        .one .ledger, .one .actions, .one .turns, .one .functions, .one .storage, .one .boxes, .one .sitter,
        .one .signing, fabPortCntReg.grain, fabStatusReg.grain, feFseqReg.grain, feHringCtlReg.grain,
        feHringPtrReg.grain, feSqCfgReg.grain, sitMbStateReg.grain]
  | .vectorUnitOperation _ => [.one .fresh, .one .scratch, .one .firings]
  | .tileRegisterCopy _ _ _ _ _ _ _ _ _ => [.one .tileMem, .one .scratch]
  | .testAccess _ => [.one .power]
  | .hostLaneLoss _ _ =>
      stopGrains ++ keptGrains ++ sendGrains ++ doneGrains ++ replyGrains ++ [.one .barriers, .one .sitterSync,
        .one .slots, .one .ledger, .one .actions, .one .turns, .one .functions, .one .storage, .one .sitter,
        .one .signing, fabPortCntReg.grain, fabStatusReg.grain, feFseqReg.grain, feHringCtlReg.grain,
        feHringPtrReg.grain, feSqCfgReg.grain, pciHStatusReg.grain, pciSStatusReg.grain, sitMbStateReg.grain]

end Sys2Proof.Machine
end

