-- ==== Sys2Proof/Certificates/Slice0/Obligations.lean ====
section
/-! DEFINITION. Certificates/Slice0/Obligations.lean: the statements for the provers, family by family. -/

open Sys2Proof Sys2Proof.Machine

/-! ### The machine -/

/-- With a command at the front of the queue, a step is that command run on the state with the queue's rest (log 1). -/
def Obligations.StepRunsFrontCommand : Prop :=
  ∀ (c : Instr) (rest : List Instr) (s : State),
    step { s with pending := c :: rest } = exec c { s with pending := rest }

/-- With no command waiting, a step is one tick of WHEEL_REF: while the input stands and the wheel runs WHL_COUNT
rises by 1, modulo 2^64 (R270). The increments that gathered in the ctl cycle land; where no increment, no held operation of
the Sitter, no held grant, no rebuild and no vector is outstanding, nothing else changes, and a module without power keeps all
but its count. That a tick takes the place of idling is the model's choice (log 12, 43). -/
def Obligations.EmptyQueueTicks : Prop :=
  ∀ s : State, s.pending = [] → ∃ t, step s = .next t ∧ t.pending = [] ∧
    t.now = (if s.power.input = true ∧ s.wheel.running = true then (s.now + 1) % 2 ^ 64 else s.now) ∧
    (s.powered = true → t.flue.opened = []) ∧
    ((s.powered = false ∨ s.flue.opened = [] ∧ s.flue.sitter = [] ∧ s.fe.grants = [] ∧ s.sit.owed = [] ∧
      ∀ n, n < 16 → s.on stkStatusRebuilding n = false) → Unchanged [whlCountReg.grain] s t)

/-- State.reset: no command waits, the input is off, every register field reads its reset value, no memory lists a
byte, nothing is accepted, recorded or pending; it is in canonical form and within its bounds (log 3). -/
def Obligations.ResetState : Prop :=
  State.reset.pending = [] ∧ State.reset.power.input = false ∧ State.reset.powered = false ∧
    (∀ (f : Fld) (i : Nat), State.reset.rd f i = f.reset) ∧ State.reset.mem.stack = .empty ∧
    State.reset.mem.tile = .empty ∧ State.reset.mem.scratch = .empty ∧ State.reset.mem.const = .empty ∧
    State.reset.fe.log = [] ∧ State.reset.fe.firings = [] ∧ State.reset.sit.events = [] ∧ State.reset.prs.cells = [] ∧
    State.reset.passes = [] ∧ State.reset.cells = [] ∧ State.reset.flue.waits = [] ∧ State.reset.flue.records = [] ∧
    State.reset.Canon ∧ State.reset.Bounds

/-- Every step keeps the canonical form: the register table and the copies of the repair map sorted with every value within
its field's width, and the five memories sorted with no entry equal to what an unlisted byte reads as.
What the manual leaves open is settled as log 4 says. -/
def Obligations.EveryStepKeepsCanon : Prop :=
  ∀ s t : State, s.Canon → step s = .next t → t.Canon

/-- Every step keeps the bounds the manual gives: clock steps up to 5 (Table 1.10), at most 16 power steps pending
(R280), at most 16,384 records (R223), each persistent cell at the place that the parity of its COUNT names (R389). -/
def Obligations.EveryStepKeepsBounds : Prop :=
  ∀ s t : State, s.Bounds → step s = .next t → t.Bounds

/-- A well-formed command, whose stacks are not lost, runs: it answers a next state from every state. No command is
ever refused, a fault is always noSuchUnit, and a next state keeps the queue and takes free values only forwards.
What the manual leaves open is settled as log 14 and 15 say. -/
def Obligations.WellFormedCommandsRun : Prop :=
  (∀ (i : Instr) (s : State), i.wf = true → (∀ a ∈ i.stackAddrs, has s.rep.lostStacks (stackOf a) = false) →
    ∃ t, exec i s = .next t) ∧
  (∀ (i : Instr) (s : State) (r : Refusal), exec i s ≠ .refused r) ∧
  (∀ (i : Instr) (s : State) (e : Fault), exec i s = .fault e → e = .noSuchUnit) ∧
  (∀ (i : Instr) (s t : State), exec i s = .next t → t.pending = s.pending ∧ s.fresh ≤ t.fresh)

/-- A command that names a unit the manual does not give the module (an engine, observer, signal, group, queue, graph,
damper, port, function, storage link or persistent register out of range) stops with noSuchUnit and does nothing.
What the manual leaves open is settled as log 15 says. -/
def Obligations.AbsentUnitsFault : Prop :=
  ∀ (i : Instr) (s : State), i.wf = false → exec i s = .fault .noSuchUnit

/-- The keys in force change only by token.apply of the kinds that Table 14.5 gives keys: MGMT_KEYS, OWNER_KEYS,
ID_ROTATE, ENROL and RELEASE; the calibration and the rule table change only by token.apply CAL and RULES. No other command
touches them, resets included; POWER_UP and SITTER_RESTART_COMPLETE rewrite at most a spoilt copy that is not in use from the
one that is (R394; log 104). -/
def Obligations.OnlyTokensChangeKeysAndTables : Prop :=
  ∀ (i : Instr) (s t : State), exec i s = .next t →
    ((∀ o k, i ≠ .tokenApplyMgmtKeys o k ∧ i ≠ .tokenApplyOwnerKeys o k ∧ i ≠ .tokenApplyIdRotate o k ∧
      i ≠ .tokenApplyEnrol o k ∧ i ≠ .tokenApplyRelease o k) → t.sec.keys = s.sec.keys ∧
        ((∀ e f, i ≠ .powerUp e ∧ i ≠ .sitterRestartComplete f) → t.sec.oldKeys = s.sec.oldKeys) ∧
        (t.sec.oldKeys = s.sec.oldKeys ∨ t.sec.oldKeys = s.sec.keys)) ∧
    ((∀ o k, i ≠ .tokenApplyCal o k ∧ i ≠ .tokenApplyRules o k) →
      ((∀ e f, i ≠ .powerUp e ∧ i ≠ .sitterRestartComplete f) →
        t.meter.cal = s.meter.cal ∧ t.meter.rules = s.meter.rules) ∧
      (∀ x ∈ t.meter.cal, x ∈ s.meter.cal ∨ x = []) ∧ (∀ x ∈ t.meter.rules, x ∈ s.meter.rules ∨ x = []))

/-! ### Signals and barriers (spec/08) -/

/-- SIG_INC, for the slot at the head of a sequencer's queue whose earlier operations have completed, on a LOCAL
signal. While more increments of the signal land in the ctl cycle, it joins their sum and the slot is done. The last of
them, on a signal that nothing waits for, makes the value rise by the sum of the cycle's increments, and nothing else
changes (R202, R217). Beyond 2^32 - 1 the value is left at 0xFFFF_FFFF, SIG_OVF_SEEN and LAST_SIG show it, and every firing
that issued one of them is abandoned with F-151 (R218).
What the manual leaves open is settled as log 43 says. -/
def Obligations.SigIncAdds : Prop :=
  ∀ (observer fseq sig value opIndex i w : Nat) (s : State) (f : Firing), observer < 1418 → sig < 8192 →
    s.issuer observer fseq = some f → f.syncNext observer 0x10 = some (i, w) → synSig w = sig → synValue w = value →
    synOpIndex w = opIndex → f.earlierDone observer i = true → s.sigFabric sig = false →
    let o := tget noneOpen s.flue.opened sig
    (Answers (.sigInc observer fseq sig value opIndex true) s fun t =>
      tget noneOpen t.flue.opened sig = o.add value (some fseq) ∧ t.firing? fseq = some (f.setItem observer i .done) ∧
        Unchanged [.one .firings, .one .opened] s t) ∧
    ((∀ x ∈ s.flue.waits, x.sig ≠ sig) →
      (s.sigVal sig + (o.sum + value) < 2 ^ 32 → Answers (.sigInc observer fseq sig value opIndex false) s fun t =>
        t.sigVal sig = s.sigVal sig + (o.sum + value) ∧ t.flue.opened = tdel s.flue.opened sig ∧
          t.firing? fseq = some (f.setItem observer i .done) ∧ (∀ n, n ≠ sig → t.sigVal n = s.sigVal n) ∧
          Unchanged [.one .firings, .one .opened, fluSigValueReg.grain] s t) ∧
      (2 ^ 32 ≤ s.sigVal sig + (o.sum + value) → Answers (.sigInc observer fseq sig value opIndex false) s fun t =>
        t.sigVal sig = 2 ^ 32 - 1 ∧ t.rd fluStatusSigOvfSeen 0 = 1 ∧ t.rd fluStatusLastSig 0 = sig ∧
          (∀ q ∈ (o.add value (some fseq)).issuers, ∀ g, s.firing? q = some g → g.ending = false →
            ∃ h, t.firing? q = some h ∧ h.st = .abandoning ∧ h.code = 151) ∧
          (∀ n, n ≠ sig → t.sigVal n = s.sigVal n)))

/-- An increment to a FABRIC signal whose key is new while all 16,384 entries of the record table are in use is neither
applied nor acknowledged, and sets RECORD_FULL_SEEN; one whose key stands with an index at or above its own is dropped: no
signal changes, and the slot is done. Any other is recorded and applied: on a signal that nothing waits for, the last
increment of the ctl cycle makes the value rise by their sum (R217, R223, R224).
What the manual leaves open is settled as log 43 and 54 say. -/
def Obligations.KeyedIncrements : Prop :=
  ∀ (observer fseq sig value opIndex i w : Nat) (more : Bool) (s : State) (f : Firing), observer < 1418 → sig < 8192 →
    s.issuer observer fseq = some f → f.syncNext observer 0x10 = some (i, w) → synSig w = sig → synValue w = value →
    synOpIndex w = opIndex → f.earlierDone observer i = true → s.sigFabric sig = true →
    let key : RecKey := ⟨s.self, observer, fseq, f.issueIndex observer⟩
    let sum := (tget noneOpen s.flue.opened sig).sum + value
    ((∀ e ∈ s.flue.records, key.same e = false) → 16384 ≤ s.flue.records.length →
      Answers (.sigInc observer fseq sig value opIndex more) s fun t =>
        t.rd fluStatusRecordFullSeen 0 = 1 ∧ Unchanged [fluStatusReg.grain] s t) ∧
    (∀ e, s.flue.records.find? (key.same ·) = some e → key.index ≤ e.index →
      Answers (.sigInc observer fseq sig value opIndex more) s fun t =>
        t.firing? fseq = some ((f.issue s.self observer).setItem observer i .done) ∧ Unchanged [.one .firings] s t) ∧
    ((∀ e, s.flue.records.find? (key.same ·) = some e → e.index < key.index) →
      (s.flue.records.find? (key.same ·) = none → s.flue.records.length < 16384) →
      (∀ x ∈ s.flue.waits, x.sig ≠ sig) → s.sigVal sig + sum < 2 ^ 32 →
      Answers (.sigInc observer fseq sig value opIndex false) s fun t =>
        t.sigVal sig = s.sigVal sig + sum ∧ (∀ n, n ≠ sig → t.sigVal n = s.sigVal n) ∧
          t.flue.records = recPut s.flue.records key ∧
          t.firing? fseq = some ((f.issue s.self observer).setItem observer i .done) ∧
          Unchanged [.one .firings, .one .records, .one .opened, fluSigValueReg.grain, fluRecordUseReg.grain] s t)

/-- signal.inc by the Sitter to a signal that no firing holds as LOCAL, with no operation of the Sitter held: the increments
of the ctl cycle land, every WAIT_GE whose target the new value meets is released, the consuming waiters are served in
registration order until one's VALUE is not met, and no other signal or wait changes (R219, R220, R225). While a firing in
flight holds the LOCAL signal the command is refused with S-242 and changes nothing else.
What the manual leaves open is settled as log 43 says. -/
def Obligations.SignalIncServesWaits : Prop :=
  ∀ (o : Origin) (sig value : Nat) (more : Bool) (s : State), sig < 8192 → s.serves o 0x0130 → s.flue.sitter = [] →
    let v := s.sigVal sig + ((tget noneOpen s.flue.opened sig).sum + value)
    (s.sigHolder sig = none → v < 2 ^ 32 → Answers (.signalIncCmd o sig value false) s fun t =>
      s.replied t o (.s 0) [] ∧
        Unchanged (replyGrains ++ [.one .waits, .one .firings, .one .engines, .one .opened, fluSigValueReg.grain,
          fluNearTimeoutReg.grain]) s t ∧
        (∀ n, n ≠ sig → t.sigVal n = s.sigVal n) ∧ t.sigVal sig ≤ v ∧
        ((∀ w ∈ s.flue.waits, w.sig = sig → w.consuming = false) → t.sigVal sig = v) ∧
        (∀ w ∈ t.flue.waits, w ∈ s.flue.waits) ∧ (∀ w ∈ s.flue.waits, w.sig ≠ sig → w ∈ t.flue.waits) ∧
        (∀ w ∈ t.flue.waits, w.sig = sig → w.consuming = false → v < w.value) ∧
        (s.flue.waits.Nodup →
          ∀ w, t.flue.waits.find? (fun w => w.sig == sig && w.consuming) = some w → t.sigVal sig < w.value)) ∧
    (s.sigHolder sig = none → Answers (.signalIncCmd o sig value true) s fun t =>
      s.replied t o (.s 0) [] ∧ (tget noneOpen t.flue.opened sig).sum = (tget noneOpen s.flue.opened sig).sum + value ∧
        Unchanged (replyGrains ++ [.one .opened]) s t) ∧
    ((s.sigHolder sig).isSome = true → Replies (.signalIncCmd o sig value more) o (.s 242) [] [] s)

/-- WAIT_GE and WAIT_CON at the head of a sequencer's queue, on a signal nothing else waits for, which the increments of an
earlier ctl cycle have reached. A value that meets the target releases the wait at once, and WAIT_CON then subtracts its VALUE;
a value below it registers the wait with the wheel count and holds the queue (R202, R219, R220).
What the manual leaves open is settled as log 43 says. -/
def Obligations.WaitsRegister : Prop :=
  ∀ (observer fseq sig value timeout opIndex i w : Nat) (s : State) (f : Firing), observer < 1418 → sig < 8192 →
    isEngineObs observer = false → s.issuer observer fseq = some f → synSig w = sig → synValue w = value →
    synTimeout w = timeout → synOpIndex w = opIndex → (∀ x ∈ s.flue.waits, x.sig ≠ sig) → s.Canon →
    let v := s.sigVal sig + (tget noneOpen s.flue.opened sig).sum
    v < 2 ^ 32 →
    (f.syncNext observer 0x11 = some (i, w) → value ≤ v →
      Answers (.waitGe observer fseq sig value timeout opIndex) s fun t =>
        Unchanged [.one .firings, .one .opened, fluSigValueReg.grain] s t ∧ t.sigVal sig = v ∧
          (∀ n, n ≠ sig → t.sigVal n = s.sigVal n) ∧
          t.firing? fseq = some ((f.setItem observer i .running).syncDone observer)) ∧
    (f.syncNext observer 0x12 = some (i, w) → value ≤ v →
      Answers (.waitCon observer fseq sig value timeout opIndex) s fun t =>
        Unchanged [.one .firings, .one .opened, fluSigValueReg.grain] s t ∧ t.sigVal sig = v - value ∧
          (∀ n, n ≠ sig → t.sigVal n = s.sigVal n) ∧
          t.firing? fseq = some ((f.setItem observer i .running).syncDone observer)) ∧
    (f.syncNext observer 0x11 = some (i, w) → v < value →
      Answers (.waitGe observer fseq sig value timeout opIndex) s fun t =>
        Unchanged [.one .firings, .one .waits, .one .opened, fluSigValueReg.grain] s t ∧ t.sigVal sig = v ∧
          (∀ n, n ≠ sig → t.sigVal n = s.sigVal n) ∧ t.firing? fseq = some (f.setItem observer i .running) ∧
          t.flue.waits = s.flue.waits ++ [⟨observer, some fseq, sig, false, value, s.now, timeout, opIndex⟩]) ∧
    (f.syncNext observer 0x12 = some (i, w) → v < value →
      Answers (.waitCon observer fseq sig value timeout opIndex) s fun t =>
        Unchanged [.one .firings, .one .waits, .one .opened, fluSigValueReg.grain] s t ∧ t.sigVal sig = v ∧
          (∀ n, n ≠ sig → t.sigVal n = s.sigVal n) ∧ t.firing? fseq = some (f.setItem observer i .running) ∧
          t.flue.waits = s.flue.waits ++ [⟨observer, some fseq, sig, true, value, s.now, timeout, opIndex⟩])

/-- A registered wait with a limit, of a firing, expires: the wheel count has reached its registration count plus 1,024 x
TIMEOUT, the wait is withdrawn, TIMEOUT_SEEN and LAST_SIG show it. The first F-152 of the firing replays it, a second abandons
it with F-152 (R221, R222). When the increments of that ctl cycle meet its VALUE, arrival wins: it is released, FLU_NEAR_TIMEOUT
counts it, and nothing faults.
What the manual leaves open is settled as log 12 and 43 say. -/
def Obligations.WaitExpires : Prop :=
  ∀ (observer sig q : Nat) (s : State) (w : Wait) (f : Firing), observer < 1418 → sig < 8192 →
    s.flue.waits.find? (fun w => w.observer == observer && w.sig == sig && w.timeout != 0) = some w → w.fseq = some q →
    s.firing? q = some f → f.ending = false → f.launched = true → w.tick + 1024 * w.timeout < 2 ^ 64 →
    ((∀ p ∈ s.flue.opened, p.1 ≠ sig) → Answers (.waitExpiry observer sig) s fun t =>
      t.now = max s.now (w.tick + 1024 * w.timeout) ∧ t.rd fluStatusTimeoutSeen 0 = 1 ∧ t.rd fluStatusLastSig 0 = sig ∧
        w ∉ t.flue.waits ∧ (∀ n, t.sigVal n = s.sigVal n) ∧
        (tget 0 f.counts 152 = 0 → ∃ g, t.firing? q = some g ∧ g.st = .faulted ∧ tget 0 g.counts 152 = 1 ∧
          g.claimHeld = false) ∧
        (tget 0 f.counts 152 ≠ 0 → ∃ g, t.firing? q = some g ∧ g.st = .abandoning ∧ g.code = 152)) ∧
    (∀ o, s.flue.opened.find? (fun p => p.1 == sig) = some (sig, o) → isEngineObs observer = false →
      s.sigVal sig + o.sum < 2 ^ 32 → w.value ≤ s.sigVal sig + o.sum → (∀ x ∈ s.flue.waits, x.sig = sig → x = w) →
      s.flue.waits.Nodup → s.now ≤ w.tick + 1024 * w.timeout → Answers (.waitExpiry observer sig) s fun t =>
        w ∉ t.flue.waits ∧ t.firing? q = some (f.syncDone observer) ∧
          t.sigVal sig = s.sigVal sig + o.sum - (if w.consuming = true then w.value else 0) ∧
          t.rd fluNearTimeoutNear 0 = min (2 ^ 32 - 1) (s.rd fluNearTimeoutNear 0 + 1) ∧
          Unchanged [.one .waits, .one .firings, .one .opened, fluSigValueReg.grain, fluNearTimeoutReg.grain,
            whlCountReg.grain] s t)

/-- Barrier groups, while the Sitter is not held or waits at a group of its own. An arrival that leaves an observer of the mask
missing counts at the open generation; the last arrival completes it: every waiter of that generation is released and the next
generation opens with no arrivals. BAR_ARRIVE takes effect after every earlier operation of its queue; BAR_ARRIVE_WAIT also
waits; BAR_WAIT waits for the generation of its observer's latest arrival (R202, R228).
What the manual leaves open is settled as log 43 says. -/
def Obligations.BarrierArrivals : Prop :=
  ∀ (observer fseq group opIndex i w : Nat) (s : State) (f : Firing) (b : Barrier), observer < 1418 → group < 256 →
    s.sitterSettled = true → s.issuer observer fseq = some f → s.bar? group = some b → b.fseq = fseq → synBar w = group →
    synOpIndex w = opIndex →
    (f.syncNext observer 0x13 = some (i, w) → f.earlierDone observer i = true → has b.arrived observer = false →
      (b.arrive observer).complete = false → Answers (.barArrive observer fseq group opIndex) s fun t =>
        t.bar? group = some (b.arrive observer) ∧ t.firing? fseq = some (f.setItem observer i .done) ∧
          Unchanged [.one .barriers, .one .firings] s t) ∧
    (f.syncNext observer 0x13 = some (i, w) → f.earlierDone observer i = true → has b.arrived observer = false →
      (b.arrive observer).complete = true → b.second = [] → (∀ p ∈ b.waiting, p.2 ≤ b.gen) → bit b.mask observer = true →
      Answers (.barArrive observer fseq group opIndex) s fun t =>
        (∃ c, t.bar? group = some c ∧ c.gen = b.gen + 1 ∧ c.arrived = [] ∧ c.waiting = []) ∧
          Unchanged [.one .barriers, .one .firings] s t) ∧
    (f.syncNext observer 0x15 = some (i, w) → f.earlierDone observer i = true → has b.arrived observer = false →
      (b.arrive observer).complete = false → Answers (.barArriveWait observer fseq group opIndex) s fun t =>
        (∃ c, t.bar? group = some c ∧ c.arrived = (b.arrive observer).arrived ∧
          c.waiting = b.waiting ++ [(observer, b.gen)]) ∧
          t.firing? fseq = some (f.setItem observer i .running) ∧ Unchanged [.one .barriers, .one .firings] s t) ∧
    (f.syncNext observer 0x14 = some (i, w) → (b.latestOf observer).getD b.gen < b.gen →
      Answers (.barWait observer fseq group opIndex) s fun t =>
        t.firing? fseq = some (f.setItem observer i .done) ∧ Unchanged [.one .firings] s t) ∧
    (f.syncNext observer 0x14 = some (i, w) → b.gen ≤ (b.latestOf observer).getD b.gen →
      Answers (.barWait observer fseq group opIndex) s fun t =>
        t.bar? group = some { b with waiting := b.waiting ++ [(observer, (b.latestOf observer).getD b.gen)] } ∧
          t.firing? fseq = some (f.setItem observer i .running) ∧ Unchanged [.one .barriers, .one .firings] s t)

/-- A DMA engine that the mask names arrives at the open generation once it is idle, for a firing that runs on its claim
(R229); an observer that arrives again before the generation it arrived at has completed is held, its arrival counting at the
next one (R230).
What the manual leaves open is settled as log 43 says. -/
def Obligations.EngineAndSecondArrivals : Prop :=
  (∀ (engine group : Nat) (s : State) (b : Barrier) (f : Firing), engine < 136 → group < 256 → s.sitterSettled = true →
    s.inService = true → s.bar? group = some b → s.firing? b.fseq = some f → f.running = true → f.claimHeld = true →
    bit b.mask (engineObserver engine) = true → has b.arrived (engineObserver engine) = false →
    s.engineIdle engine = true → (b.arrive (engineObserver engine)).complete = false →
    Answers (.dmaBarrierArrival engine group) s fun t =>
      t.bar? group = some (b.arrive (engineObserver engine)) ∧ Unchanged [.one .barriers] s t) ∧
  (∀ (observer fseq group opIndex i w : Nat) (s : State) (f : Firing) (b : Barrier), observer < 1418 → group < 256 →
    s.issuer observer fseq = some f → s.bar? group = some b → b.fseq = fseq → synBar w = group → synOpIndex w = opIndex →
    f.syncNext observer 0x13 = some (i, w) → f.earlierDone observer i = true → has b.arrived observer = true →
    Answers (.barArrive observer fseq group opIndex) s fun t =>
      t.bar? group = some { b with second := b.second ++ [observer] } ∧
        t.firing? fseq = some (f.setItem observer i .running) ∧ Unchanged [.one .barriers, .one .firings] s t)

/-- With no operation of the Sitter held, signal.read replies with the value at any time, the increments of an earlier ctl
cycle counted. signal.set writes a FABRIC signal only while no firing in flight names it, and a LOCAL signal only while none
holds it, before the increments of its ctl cycle; otherwise it is refused with S-242 (R220, R225). Behind a held arrival
of the Sitter a signal command waits in its mailbox (R230).
What the manual leaves open is settled as log 43 says. -/
def Obligations.SitterReadsAndSetsSignals : Prop :=
  ∀ (o : Origin) (sig value : Nat) (s : State), sig < 8192 →
    let sum := (tget noneOpen s.flue.opened sig).sum
    (s.flue.sitter = [] → (∀ x ∈ s.flue.waits, x.sig ≠ sig) →
      (s.serves o 0x0131 → s.sigVal sig + sum < 2 ^ 32 →
        Replies (.signalRead o sig) o (.s 0) [s.sigVal sig + sum] [.one .opened, fluSigValueReg.grain] s) ∧
      (s.serves o 0x0132 → value + sum < 2 ^ 32 →
        (s.sigFabric sig = true → s.sigNamed sig = false) → (s.sigFabric sig = false → s.sigHolder sig = none) →
        Answers (.signalSet o sig value false) s fun t => s.replied t o (.s 0) [] ∧ t.sigVal sig = value + sum ∧
          (∀ n, n ≠ sig → t.sigVal n = s.sigVal n) ∧
          Unchanged (replyGrains ++ [.one .opened, fluSigValueReg.grain]) s t)) ∧
    (s.flue.sitter = [] → ∀ more, s.serves o 0x0132 → (s.sigFabric sig = true → s.sigNamed sig = true) →
      (s.sigFabric sig = false → (s.sigHolder sig).isSome = true) → Replies (.signalSet o sig value more) o (.s 242) [] [] s) ∧
    (s.sitterSettled = true → s.flue.sitter ≠ [] → s.serves o 0x0130 →
      Answers (.signalIncCmd o sig value false) s fun t => (t.box o).st = 1 ∧
        t.flue.sitter = s.flue.sitter ++ [(o, .inc sig value, false)] ∧ Unchanged [.one .boxes, .one .sitterSync] s t)

/-- barrier.arrive by the Sitter, observer 1,417, is refused with S-243 and changes nothing when no firing in flight
holds the group or its mask does not name observer 1,417; otherwise it counts at the open generation, and a second arrival
before that generation has completed is held: its mailbox has no reply yet, and the Sitter's later operations wait (R230).
What the manual leaves open is settled as log 49 says. -/
def Obligations.SitterArrivesAtBarriers : Prop :=
  ∀ (o : Origin) (group : Nat) (s : State), group < 256 → s.serves o 0x0133 → s.flue.sitter = [] →
    (s.bar? group = none → Replies (.barrierArriveCmd o group) o (.s 243) [] [] s) ∧
    (∀ b, s.bar? group = some b →
      (bit b.mask 1417 = false → Replies (.barrierArriveCmd o group) o (.s 243) [] [] s) ∧
      (bit b.mask 1417 = true → has b.arrived 1417 = false → s.arrivalSaved group 1417 b = false →
        (b.arrive 1417).complete = false → Answers (.barrierArriveCmd o group) s fun t => s.replied t o (.s 0) [] ∧
          t.bar? group = some (b.arrive 1417) ∧ Unchanged (replyGrains ++ [.one .barriers]) s t) ∧
      (bit b.mask 1417 = true → (has b.arrived 1417 || s.arrivalSaved group 1417 b) = true →
        Answers (.barrierArriveCmd o group) s fun t => (t.box o).st = 1 ∧ (t.box o).reply = (s.box o).reply ∧
          t.bar? group = some { b with second := b.second ++ [1417] } ∧
          t.flue.sitter = [(o, .arrive group, true)] ∧ Unchanged [.one .boxes, .one .barriers, .one .sitterSync] s t))

/-! ### Power, clock and cooling (spec/01) -/

/-- Each cause of Table 1.4 starts the power-fail sequence from normal service: normal service ends, the cause shows in
MOD_PWR_STATUS, and the restart it leads to reports the firings abandoned by F-162, or by F-103 after a thermal trip
(R23, R30, R37). In recovery, and while a module fault waits for its restart, each starts the sequence too, with no
service to end. A voltage inside the limits starts nothing, and while a sequence runs a further cause leaves it as it is,
but that after a trip no warm reset ends one that began in service.
What the manual leaves open is settled as log 93 and 113 say. -/
def Obligations.PowerFailCauses : Prop :=
  ∀ (s : State) (mv : Nat) (trip : TripCause), mv < 2 ^ 16 →
    (s.svc.phase = .service → s.power.seq = none →
      (Answers .pwrFailNLow s fun t => t.power.seq = some 1 ∧ t.power.pwrFailN = false ∧ t.svc.phase = .down 162 ∧
        t.rd modPwrStatusPwrFailSeen 0 = 1 ∧ Unchanged [.one .power, .one .phase, modPwrStatusReg.grain] s t) ∧
      (mv < 53000 → Answers (.undervoltage mv) s fun t => t.power.seq = some 2 ∧ t.power.below53 = true ∧
        t.svc.phase = .down 162 ∧ t.rd modPwrStatusUvSeen 0 = 1 ∧ t.rd modPwrStatusVinMv 0 = mv ∧
        Unchanged [.one .power, .one .phase, modPwrStatusReg.grain] s t) ∧
      (63000 < mv → Answers (.overvoltage mv) s fun t => t.power.seq = some 3 ∧ t.svc.phase = .down 162 ∧
        t.power.faults = s.power.faults ++ [.f 102] ∧ t.rd modPwrStatusOvSeen 0 = 1 ∧ t.rd modPwrStatusVinMv 0 = mv ∧
        Unchanged [.one .power, .one .phase, .one .events, .one .vectors, modPwrStatusReg.grain] s t) ∧
      (Answers (.thermalTrip trip) s fun t => t.power.seq = some 4 ∧ t.svc.phase = .down 103 ∧
        t.power.faults = s.power.faults ++ [.f 103] ∧
        Unchanged [.one .power, .one .phase, .one .events, .one .vectors, modClkStepReg.grain] s t)) ∧
    (∀ c, s.svc.phase = .recovery c ∨ s.svc.phase = .down c → s.power.seq = none →
      (Answers .pwrFailNLow s fun t => t.power.seq = some 1 ∧ t.power.seqLive = false ∧ t.svc = s.svc ∧
        t.rd modPwrStatusPwrFailSeen 0 = 1) ∧
      (mv < 53000 → Answers (.undervoltage mv) s fun t => t.power.seq = some 2 ∧ t.power.seqLive = false ∧ t.svc = s.svc) ∧
      (63000 < mv → Answers (.overvoltage mv) s fun t => t.power.seq = some 3 ∧ t.power.seqLive = false ∧ t.svc = s.svc) ∧
      (Answers (.thermalTrip trip) s fun t => t.power.seq = some 4 ∧ t.power.seqLive = false ∧ t.svc = s.svc)) ∧
    (53000 ≤ mv → exec (.undervoltage mv) s = .next s) ∧ (mv ≤ 63000 → exec (.overvoltage mv) s = .next s) ∧
    (∀ k, s.power.seq = some k →
      (Answers .pwrFailNLow s fun t => t.power.seq = some k ∧ t.svc = s.svc) ∧
      (Answers (.undervoltage mv) s fun t => t.power.seq = some k ∧ t.svc = s.svc) ∧
      (Answers (.overvoltage mv) s fun t => t.power.seq = some k ∧ t.svc = s.svc) ∧
      (Answers (.thermalTrip trip) s fun t => t.power.seq = some k ∧ (s.power.seqLive = false → t.svc = s.svc) ∧
        (s.powered = true → s.power.seqLive = true → t.svc.phase = .down 103 ∧ t.power.seqLive = false)))

/-- The power-fail sequence, wherever the module stands: within 50 µs no pass is in flight, no engine holds a descriptor
and no wait is registered; POWER_MARK writes at the log's next position a record whose LSEQ is that of the oldest record
the host ring has not taken (Table 1.3, R256).
What the manual leaves open is settled as log 93 and 99 say. -/
def Obligations.PowerFailSequenceStopsWork : Prop :=
  ∀ (s : State) (k : Nat), s.powered = true → s.power.seq = some k →
    (Answers .powerFailSequence s fun t => t.passes = [] ∧ (∀ e, (t.engine e).held = []) ∧ t.flue.waits = [] ∧
      t.rd modPwrStatusFastThrSeen 0 = 1 ∧ t.fe.firings = s.fe.firings ∧ t.fe.log = s.fe.log ∧ t.prs = s.prs) ∧
    (Answers .powerMark s fun t => t.fe.log = logPut s.fe.log { s.powerMarkRec with pos := s.fe.nextPos } ∧
      s.powerMarkRec.kind = 4 ∧ ((∀ c, s.svc.phase ≠ .recovery c) → s.powerMarkRec.lseq = s.oldestLseq) ∧
      t.fe.nextPos = (s.fe.nextPos + 1) % 786432 ∧ Unchanged [.one .log] s t)

/-- PWR_FAIL_N high again for 10 ms, the input never having fallen below 53.0 V, ends the sequence with a warm reset
where it began in service: every firing accepted and not ending keeps its place and none is abandoned, LOCAL work is
replayed (`opened = []`: no increment of this ctl cycle is still to be summed, which could overflow, F-151), MOD_RESET
shows a warm reset after power, and a rest point follows (R33, R418). Where it began in recovery or
after a module fault it ends with no reset. After an input below 53.0 V only the pin is noted.
What the manual leaves open is settled as log 95 and 113 say. -/
def Obligations.PowerFailReleaseIsWarmReset : Prop :=
  ∀ s : State, s.power.seq = some 1 →
    (s.power.below53 = false → s.power.seqLive = true → Answers .pwrFailNRelease s fun t => t.svc.phase = .warm ∧
      t.svc.resting = true ∧ t.power.seq = none ∧ t.power.pwrFailN = true ∧ t.rd modResetLastKind 0 = 2 ∧
      t.rd modResetCause 0 = 5 ∧ t.rd sitCoreRestarting 0 = 1 ∧ t.passes = [] ∧
      t.fe.log = s.fe.log ∧ t.prs = s.prs ∧ t.fe.graphs = s.fe.graphs ∧
      (s.flue.opened = [] → t.fe.firings.map (·.fseq) = s.fe.firings.map (·.fseq) ∧
        ∀ q f, s.firing? q = some f → f.ending = false → f.launched = true →
          ∃ g, t.firing? q = some g ∧ g.st = .faulted ∧ g.snap = f.snap)) ∧
    (s.power.below53 = false → s.power.seqLive = false → Answers .pwrFailNRelease s fun t =>
      t.power = { s.power with pwrFailN := true, seq := none } ∧ Unchanged [.one .power] s t) ∧
    (s.power.below53 = true → Answers .pwrFailNRelease s fun t => t.power = { s.power with pwrFailN := true } ∧
      Unchanged [.one .power] s t)

/-- Input power is lost: the command completes in every state and the module is off. Records still being written never land; the acceptance log's landed
records, the persistent cells, the keys, the repair map and every signed or staged batch stay (R11, R31, R413).
What the manual leaves open is settled as log 88 says. -/
def Obligations.PowerLossKeepsTheArray : Prop :=
  ∀ s : State, Answers .inputPowerLoss s fun t => t.power.input = false ∧ t.powered = false ∧
    t.fe.log = s.fe.log ∧ t.meter.staging = s.meter.staging ∧ t.prs = s.prs ∧ t.sec = s.sec ∧ t.rep = s.rep ∧
    (s.powered = true → t.wheel.running = false ∧ t.fe.writing = [] ∧ t.power.seq = none ∧ t.power.tap = none) ∧
    (s.powered = false → t = { s with power := { s.power with input := false } }) ∧
    Unchanged [.one .power, .one .log, .one .wheel, .one .meter, .one .phase] s t

/-- POWER_UP outside 54.0-63.0 V, or with PWR_FAIL_N low, does nothing. A control-die rail that fails leaves the module
off with F-197. With every rail, stack, active copy and the keys region as Table 16.2 asks, every committing
register readable and both firmware copies valid at or above the floor, it brings the module into normal service with
the wheel running, whichever copy SEC_FW_SEL names; the keys stay (R421). A cold reset, once everything has stopped,
ends in the same way.
What the manual leaves open is settled as log 94 and 99 say. -/
def Obligations.PowerUpEntersService : Prop :=
  ∀ (s : State) (env : PowerUpEnv) (c : Nat),
    (env.vinMv < 54000 ∨ 63000 < env.vinMv ∨ s.power.pwrFailN = false → exec (.powerUp env) s = .next s) ∧
    (54000 ≤ env.vinMv → env.vinMv ≤ 63000 → s.power.pwrFailN = true →
      (s.svc.phase = .off c → env.railFail1 = true → Answers (.powerUp env) s fun t => t.svc.phase = .off c ∧
        t.power.faults = s.power.faults ++ [.f 197] ∧ Unchanged [.one .power] s t) ∧
      (s.svc.phase = .off c ∧ env.railFail1 = false ∨ s.svc.phase = .down c → env.railFail4 = false →
        env.boot.keysOk = true → env.boot.copiesOk = true → env.stacksFail = [] →
        s.prsBroken = false → (∀ i, i < 2 → ∃ f, s.sec.fw[i]? = some f ∧ f.valid = true ∧ s.prsValue 3 ≤ f.version) →
        Answers (.powerUp env) s fun t => t.svc.phase = .service ∧ t.powered = true ∧ t.wheel.running = true ∧
          t.sec.keys = s.sec.keys))

/-- The tile clock. CAP_STEP is kept as written, 6 and 7 as 5. A junction above 95 °C asks for one step more, at or
below 88 °C for one less, never past the cap; a CAP_STEP written just before a step down leaves that request as it is
(R44); an inlet above 35 °C, an input between 53.0 and 54.0 V and a draw above 8.4 kW ask for steps of their own, the
draw for one slower than the step in force or slower still. A slow step takes the slowest request and comes into force
only while no pass streams (R6, R23, R26, R35, R36).
What the manual leaves open is settled as log 92, 111 and 112 say. -/
def Obligations.ClockSteps : Prop :=
  ∀ (s : State) (v tj tin mv draw : Nat), s.powered = true →
    (Answers (.capStepWrite v) s fun t => t.rd modClkStepCapStep 0 = min 5 (v % 8) ∧ Unchanged [modClkStepReg.grain] s t) ∧
    (Answers (.slowPowerStep draw) s fun t =>
      ((∀ p ∈ s.passes, p.stopped = true) → t.rd modClkStepStep 0 = max s.capStep (max s.power.thermStep
        (max s.power.inletStep (max s.power.lowVStep t.power.drawStep))) % 8) ∧
      ((∃ p ∈ s.passes, p.stopped = false) → t.rd modClkStepStep 0 = s.rd modClkStepStep 0) ∧
      (8400 < draw → min 5 (s.rd modClkStepStep 0 + 1) ≤ t.power.drawStep) ∧
      (draw ≤ 8400 → t.power.drawStep ≤ s.power.drawStep) ∧
      Unchanged [.one .fresh, .one .power, modClkStepReg.grain] s t) ∧
    (95 < tj → tj < 256 → Answers (.thermalStepDown tj) s fun t =>
      t.power.thermStep = min 5 (max s.power.thermStep (s.rd modClkStepStep 0) + 1) ∧
      t.rd modClkStepTjMaxC 0 = tj ∧ t.rd modClkStepStep 0 = s.rd modClkStepStep 0 ∧
      Unchanged [.one .power, modClkStepReg.grain] s t) ∧
    (95 < tj → ∃ t, exec (.capStepWrite v) s = .next t ∧ Answers (.thermalStepDown tj) t fun u =>
      u.power.thermStep = min 5 (max s.power.thermStep (s.rd modClkStepStep 0) + 1) ∧ u.capStep = min 5 (v % 8)) ∧
    (tj ≤ 95 → exec (.thermalStepDown tj) s = .next s) ∧
    (tj ≤ 88 → Answers (.thermalStepUp tj) s fun t => t.power.thermStep = s.power.thermStep - 1 ∧
      t.rd modClkStepCapStep 0 = s.rd modClkStepCapStep 0 ∧ s.capStep ≤ t.targetStep ∧
      Unchanged [.one .power, modClkStepReg.grain] s t) ∧
    (88 < tj → exec (.thermalStepUp tj) s = .next s) ∧
    (tin < 256 → Answers (.coolantInletHigh tin) s fun t => t.rd modClkStepTinC 0 = tin ∧
      (tin ≤ 35 → t.power.inletStep = 0) ∧ (35 < tin → 1 ≤ t.power.inletStep ∧ t.power.inletStep ≤ 5) ∧
      Unchanged [.one .fresh, .one .power, modClkStepReg.grain] s t) ∧
    (53000 ≤ mv → mv < 54000 → Answers (.lowVSeen mv) s fun t => t.rd modPwrStatusLowVSeen 0 = 1 ∧
      t.rd modPwrStatusVinMv 0 = mv ∧ t.power.lowVStep ≤ 5 ∧ t.svc = s.svc ∧
      Unchanged [.one .fresh, .one .power, modPwrStatusReg.grain] s t)

/-- A fast throttle gates the tile clock at once: every pass in flight stops, to run again from its start, and
FAST_THR_SEEN is set; at 100 °C the lowest step comes into force too. Its end lets passes start again (R26, R35). -/
def Obligations.FastThrottle : Prop :=
  ∀ (s : State) (cause : ThrottleCause), s.powered = true →
    (Answers (.fastThrottle cause) s fun t => t.power.throttled = true ∧ t.rd modPwrStatusFastThrSeen 0 = 1 ∧
      t.passes = s.passes.map (fun p => { p with stopped := true }) ∧ t.fe.firings = s.fe.firings ∧
      (cause = .junction100 → s.Bounds → t.rd modClkStepStep 0 = 5) ∧
      (cause ≠ .junction100 → t.rd modClkStepStep 0 = s.rd modClkStepStep 0)) ∧
    (Answers .fastThrottleEnd s fun t => t.power = { s.power with throttled := false } ∧ Unchanged [.one .power] s t)

/-- Regulator phases. REGULATOR_PHASE_FAIL, and MODULE_FAULT of a phase, complete on every rail of a module with power:
the rail has one phase less and the repair log shows it (event 5). A rail that loses its first or second phase runs on,
PHASES_LEFT being no more than what is left, and only a loss beyond its two spares is a module fault (R28).
What the manual leaves open is settled as log 101 says. -/
def Obligations.RegulatorPhases : Prop :=
  ∀ (s : State) (rail : Nat) (i : Instr), (i = .regulatorPhaseFail rail ∨ i = .moduleFault (.phase rail)) →
    (s.powered = false → exec i s = .next s) ∧
    (s.powered = true → Answers i s fun t =>
      tget 0 t.power.phasesLost rail = tget 0 s.power.phasesLost rail + 1 ∧
        (∀ r, r ≠ rail → tget 0 t.power.phasesLost r = tget 0 s.power.phasesLost r) ∧
        t.rd modPwrStatusPhasesLeft 0 ≤ 1 - tget 0 s.power.phasesLost rail ∧
        t.fe.firings = s.fe.firings ∧ t.fe.log = s.fe.log ∧
        (tget 0 s.power.phasesLost rail ≤ 1 → t.svc = s.svc ∧ t.passes = s.passes ∧
          t.power.faults = s.power.faults) ∧
        (2 ≤ tget 0 s.power.phasesLost rail → (∃ x, t.svc.phase = .down x) ∧ t.svc.causeNext = 3 ∧ t.passes = [] ∧
          t.power.faults = s.power.faults ++ [.f 163]))

/-- MODULE_FAULT completes whatever is lost. The loss of a kiln takes its two stacks with it (F-163), that of a stack is
F-142; each ends normal service, every pass stops, the firings will be reported abandoned by F-163, and the acceptance
log stays; the repair map names what is lost (R12, R28). Where the module has no power nothing happens.
What the manual leaves open is settled as log 101 says. -/
def Obligations.LostParts : Prop :=
  ∀ (s : State) (k n code : Nat),
    (s.powered = false → (k < 8 → exec (.moduleFault (.kiln k)) s = .next s) ∧
      (n < 16 → exec (.moduleFault (.stack n)) s = .next s) ∧ exec (.moduleFault (.code code)) s = .next s) ∧
    (s.powered = true →
      (k < 8 → Answers (.moduleFault (.kiln k)) s fun t => has t.rep.lostKilns k = true ∧
        has t.rep.lostStacks (2 * k) = true ∧ has t.rep.lostStacks (2 * k + 1) = true ∧
        (∃ x, t.svc.phase = .down x) ∧ t.svc.causeNext = 3 ∧ t.passes = [] ∧
        t.power.faults = s.power.faults ++ [.f 163] ∧ t.fe.firings = s.fe.firings ∧ t.fe.log = s.fe.log) ∧
      (n < 16 → Answers (.moduleFault (.stack n)) s fun t => has t.rep.lostStacks n = true ∧
        (∃ x, t.svc.phase = .down x) ∧ t.svc.causeNext = 3 ∧ t.passes = [] ∧
        t.power.faults = s.power.faults ++ [.f 142] ∧ t.fe.firings = s.fe.firings ∧ t.fe.log = s.fe.log) ∧
      (Answers (.moduleFault (.code code)) s fun t => (s.svc.phase = .service → t.svc.phase = .down 163) ∧
        (∃ x, t.svc.phase = .down x) ∧ t.svc.causeNext = 3 ∧ t.passes = [] ∧
        t.power.faults = s.power.faults ++ [.f code] ∧ t.fe.firings = s.fe.firings ∧ t.fe.log = s.fe.log))

/-! ### Registers, mailboxes and events (spec/00, 13, 14) -/

/-- Every one of the 49 well-formed mailbox commands: while the Sitter does not run it does nothing (but for a reset.cold
in the very ctl cycle in which a reset.warm began, whose place it takes, Table 16.6); where the gate turns it away it
is refused with the gate's code and changes nothing beside that reply. The gate: S-301 on a function that Table 13.7 does
not name, and from a bus peer without the right, S-342 in recovery but for six commands, S-362 outside normal service but for eight, none otherwise (R356, R362,
R374, R417).
What the manual leaves open is settled as log 16 says. -/
def Obligations.CommandGate : Prop :=
  ∀ (i : Instr) (o : Origin) (cmd : Nat) (s : State), mailboxOf i = some (o, cmd) → i.wf = true →
    (s.sitterUp = false → (∀ p, i = .resetCold p true → s.svc.phase ≠ .warm) → exec i s = .next s) ∧
    (∀ c, s.sitterUp = true → s.gate o cmd = some c → Replies i o c [] [] s) ∧
    (∃ fns busOk, cmdAllowed cmd = some (fns, busOk) ∧
      let here := match o with
        | .box fn _ => has fns fn
        | .bus p => busOk && s.mgmt.peers.any fun e => e.sci == p && bit e.rights 0
      (here = false → s.gate o cmd = some (.s 301)) ∧
      (here = true → s.svc.phase = .service → s.gate o cmd = none) ∧
      (here = true → s.recovering = true → s.gate o cmd =
        if has [0x0001, 0x0002, 0x0400, 0x0402, 0x0403, 0x0501] cmd then none else some (.s 342)) ∧
      (here = true → s.recovering = false → s.svc.phase ≠ .service → s.gate o cmd =
        if has [0x0001, 0x0002, 0x0170, 0x0400, 0x0402, 0x0403, 0x0500, 0x0501] cmd then none else some (.s 362)))

/-- reg.read and reg.write. A block, instance or offset that does not exist gives S-304; a write that names a PW2 register
S-306 and changes nothing; a read changes nothing. A write of a register that is neither persistent nor one whose write
has an effect of its own puts the written bits into every RW field, clears a W1C field where 1 is written, and leaves
RO fields and every other register alone; the same through BAR0, for the blocks that the function's window maps for
writing, and nothing for any other block. The 64-byte submission slots read and take whole values. A persistent register
takes the written bits where the bucket and its cells allow, else S-345 (R15, R16, R346, R391).
What the manual leaves open is settled as log 11 and 104 say. -/
def Obligations.RegisterAccess : Prop :=
  ∀ (o : Origin) (block inst off value : Nat) (s : State), s.Canon →
    (s.serves o 0x0010 → (blockOf block = none ∨
        ∃ b, blockOf block = some b ∧ slotAt b inst off = none ∧ s.findAt b inst off = none) →
      Replies (.regRead o block inst off) o (.s 304) [] [] s) ∧
    (s.serves o 0x0011 → (blockOf block = none ∨
        ∃ b, blockOf block = some b ∧ slotAt b inst off = none ∧ s.findAt b inst off = none) →
      Replies (.regWrite o block inst off value) o (.s 304) [] [] s) ∧
    (∀ b q n, blockOf block = some b → slotAt b inst off = some (q, n) →
      (s.serves o 0x0010 → Replies (.regRead o block inst off) o (.s 0) [s.subSlot q n] [] s) ∧
      (s.serves o 0x0011 → Answers (.regWrite o block inst off value) s fun t => s.replied t o (.s 0) [] ∧
        t.subSlot q n = value % 2 ^ 512 ∧ (∀ p k, p < 64 → k < 64 → (p, k) ≠ (q, n) → t.subSlot p k = s.subSlot p k) ∧
        Unchanged (replyGrains ++ [.one .slots]) s t)) ∧
    (∀ b r i n, blockOf block = some b → slotAt b inst off = none → s.findAt b inst off = some (r, i) →
      s.serves o 0x0011 → r.hasAcc .pw2 = false → r.hasAcc .pw = true → prsNumber r = some n →
      (∀ k c, (s.prsBucket n).1 ≠ 0 → s.prsActive n = some (k, c) → s.prsWorn n = false → s.Bounds →
        Answers (.regWrite o block inst off value) s fun t => s.replied t o (.s 0) [] ∧
          t.prsValue n = r.prsBits value % 2 ^ 64) ∧
      ((s.prsBucket n).1 = 0 → Answers (.regWrite o block inst off value) s fun t => s.replied t o (.s 345) [] ∧
        t.prsValue n = s.prsValue n ∧ Unchanged (replyGrains ++ [prsStatusReg.grain]) s t)) ∧
    (∀ b r i, blockOf block = some b → slotAt b inst off = none → s.findAt b inst off = some (r, i) →
      (s.serves o 0x0010 → Replies (.regRead o block inst off) o (.s 0) [s.viewReg r inst i] [.one .fresh] s) ∧
      (s.serves o 0x0011 → r.hasAcc .pw2 = true → Replies (.regWrite o block inst off value) o (.s 306) [] [] s) ∧
      (r.hasAcc .pw2 = false → r.hasAcc .pw = false → r ∉ [modClkStepReg, dmaRingBaseReg, dmaRingCtlReg, dmaDoorbellReg,
          feHringBaseReg, feSqDoorbellReg, sitMbDoorbellReg, dmpReleaseReg] →
        (s.serves o 0x0011 → Answers (.regWrite o block inst off value) s fun t => s.replied t o (.s 0) [] ∧
          (∀ f ∈ r.fields, t.rd f i = if f.acc = .rw then bits value f.lo f.width
            else if f.acc = .w1c ∧ bit value f.lo = true then 0 else s.rd f i) ∧
          (∀ f ∈ r.fields, ∀ j, j ≠ i → t.rd f j = s.rd f j) ∧ Unchanged (replyGrains ++ [r.grain]) s t) ∧
        (∀ fn, fn < 3 → s.powered = true → has s.pci.inReset fn = false → (b = .sit → fn = inst) →
          (barWrites fn b = true → Answers (.registerWrite fn block inst off value) s fun t =>
            (∀ f ∈ r.fields, t.rd f i = if f.acc = .rw then bits value f.lo f.width
              else if f.acc = .w1c ∧ bit value f.lo = true then 0 else s.rd f i) ∧
            (∀ f ∈ r.fields, ∀ j, j ≠ i → t.rd f j = s.rd f j) ∧ Unchanged [r.grain] s t) ∧
          (barWrites fn b = false → exec (.registerWrite fn block inst off value) s = .next s))))

/-- PERSISTENT_WRITE completes for every register number, value, sender and outcome. A write of a new value goes to the next
cell of the active slot, or, where COUNT would reach 190,000,000 below slot 3, to the next slot with COUNT 1 and
RETIRE_SEEN; the register then reads the new value, or, when a loss of power tears the write, still the last committed one;
every other register keeps its value. A write of the value it holds writes nothing; a worn-out register refuses with
REFUSED_SEEN. One that comes by reg.write draws on a bucket of 64 that gains one write each 10^9 tk, and with the bucket
empty is refused. A register without a valid cell takes the value in slot 3 with COUNT 1; where that write fails the module
faults if the register is one of those that commit, and else stays refused. Without power nothing happens (R388-R392).
What the manual leaves open is settled as log 24 and 25 say. -/
def Obligations.PersistentWrites : Prop :=
  ∀ (r value : Nat) (host torn : Bool) (s : State), r < 4096 → s.Bounds →
    (s.powered = false → exec (.persistentWrite r value host torn) s = .next s) ∧
    (s.powered = true → host = true → (s.prsBucket r).1 = 0 → Answers (.persistentWrite r value host torn) s fun t =>
      (∀ k, t.prsValue k = s.prsValue k) ∧ t.rd prsStatusRefusedSeen 0 = 1 ∧ Unchanged [prsStatusReg.grain] s t) ∧
    (s.powered = true → (host = true → (s.prsBucket r).1 ≠ 0) →
      (∀ slot c, s.prsActive r = some (slot, c) → Answers (.persistentWrite r value host torn) s fun t =>
        (∀ k, k ≠ r → t.prsValue k = s.prsValue k) ∧ (host = true → (t.prsBucket r).1 = (s.prsBucket r).1 - 1) ∧
        (c.value = value % 2 ^ 64 → t.prsActive r = some (slot, c) ∧ Unchanged [.one .persistent] s t) ∧
        (c.value ≠ value % 2 ^ 64 → slot = 3 → 200000000 ≤ c.count → t.prsActive r = some (slot, c) ∧
          t.rd prsStatusRefusedSeen 0 = 1 ∧ Unchanged [.one .persistent, prsStatusReg.grain] s t) ∧
        (c.value ≠ value % 2 ^ 64 → ¬(slot = 3 ∧ 200000000 ≤ c.count) → torn = true →
          t.prsActive r = some (slot, c) ∧ Unchanged [.one .persistent] s t) ∧
        (c.value ≠ value % 2 ^ 64 → ¬(slot = 3 ∧ 200000000 ≤ c.count) → torn = false →
          t.prsValue r = value % 2 ^ 64 ∧ (slot < 3 ∧ 190000000 ≤ c.count + 1 →
            t.prsActive r = some (slot + 1, ⟨value % 2 ^ 64, 1⟩) ∧ t.rd prsStatusRetireSeen 0 = 1) ∧
          (¬(slot < 3 ∧ 190000000 ≤ c.count + 1) → t.prsActive r = some (slot, ⟨value % 2 ^ 64, c.count + 1⟩)))) ∧
      (s.prsActive r = none → Answers (.persistentWrite r value host torn) s fun t =>
        (∀ k, k ≠ r → t.prsValue k = s.prsValue k) ∧
        (torn = false → t.prsActive r = some (3, ⟨value % 2 ^ 64, 1⟩)) ∧
        (torn = true → prsCritical r = false → t.prsActive r = none ∧ t.rd prsStatusRefusedSeen 0 = 1) ∧
        (torn = true → prsCritical r = true → t.prsActive r = none ∧ (∃ c, t.svc.phase = .down c) ∧
          t.power.faults = s.power.faults ++ [.f 195])))

/-- A doorbell: ignored by a function in reset and beyond the function's mailboxes; latched while the Sitter restarts;
counted in BUSY_DB while a command runs; with the SEQ of the reply that stands, that reply is signalled again and no
command runs; else the request is taken, and refused at once where the gate turns its CMD away (R359, R362). -/
def Obligations.Doorbells : Prop :=
  ∀ (fn m : Nat) (req : MbReq) (s : State), fn < 3 → let o := Origin.box fn m
    ((fnBoxes fn ≤ m ∨ has s.pci.inReset fn = true) → exec (.mbDoorbell o req) s = .next s) ∧
    (m < fnBoxes fn → has s.pci.inReset fn = false → s.powered = true →
      (s.on sitCoreRestarting 0 = true → Answers (.mbDoorbell o req) s fun t =>
        t.sit = { s.sit with latched := s.sit.latched ++ [(o, req)] } ∧ Unchanged [.one .sitter] s t) ∧
      (s.on sitCoreRestarting 0 = false → (s.box o).st = 1 → Answers (.mbDoorbell o req) s fun t =>
        t.rd sitMbStateBusyDb (8 * fn + m) = min (2 ^ sitMbStateBusyDb.width - 1) (s.rd sitMbStateBusyDb (8 * fn + m) + 1) ∧
          Unchanged [sitMbStateReg.grain] s t) ∧
      (∀ r, s.on sitCoreRestarting 0 = false → (s.box o).st ≠ 1 → (s.box o).reply = some r → r.seq = req.seq →
        Answers (.mbDoorbell o req) s fun t => Unchanged [.one .vectors, .one .frames] s t) ∧
      (s.on sitCoreRestarting 0 = false → (s.box o).st ≠ 1 → (∀ r, (s.box o).reply = some r → r.seq ≠ req.seq) →
        (s.gate o req.cmd = none → req.malformed = false → Answers (.mbDoorbell o req) s fun t =>
          (t.box o).st = 1 ∧ (t.box o).req = req ∧ (t.box o).crossed = false ∧ Unchanged [.one .boxes] s t) ∧
        (∀ c, (s.gate o req.cmd = some c ∨ s.gate o req.cmd = none ∧ req.malformed = true ∧ c = .s 302) →
          Answers (.mbDoorbell o req) s fun t => (t.box o).st = 2 ∧
            (t.box o).reply = some ⟨req.seq, req.tag, c, false, []⟩ ∧ Unchanged replyGrains s t)))

/-- Events. A posted event becomes pending at every destination that Table 13.8 gives it and at every authenticated bus
peer, and nowhere else; one whose code is pending there only counts, and raises no vector. One that is new to a function
raises its vector 0, unless one was raised in the last 100 µs: then it is owed. mb.poll answers with the
first 64 events of its sender and takes them; sitter.status answers with the cores and the firmware version (R361).
What the manual leaves open is settled as log 13 and 75 say. -/
def Obligations.EventsAndPolls : Prop :=
  ∀ (code : Code) (params : List Nat) (o : Origin) (s : State),
    (s.powered = true → Answers (.eventPost code params) s fun t =>
      (∀ d, tget [] t.sit.events d = if d ∈ eventFns code ++ s.busPeers.map (· + 3)
        then addEvent (tget [] s.sit.events d) code params else tget [] s.sit.events d) ∧
      ((∀ d ∈ eventFns code, ∃ e ∈ tget [] s.sit.events d, e.code = code) → t.sit.vectors = s.sit.vectors) ∧
      (∀ d, eventFns code = [d] → (∀ e ∈ tget [] s.sit.events d, e.code ≠ code) →
        (s.now < tget 0 s.sit.nextAt d → t.sit.vectors = s.sit.vectors ∧ has t.sit.owed d = true) ∧
        (tget 0 s.sit.nextAt d ≤ s.now → tget 0 t.sit.nextAt d = s.now + 100000 ∧ has t.sit.owed d = false ∧
          (∀ f, s.pci.fns[d]? = some f → f.d3hot = false → t.sit.vectors = s.sit.vectors ++ [(d, 0)]))) ∧
      Unchanged [.one .events, .one .vectors] s t) ∧
    (s.serves o 0x0001 → Answers (.mbPoll o) s fun t =>
      s.replied t o (.s 0) (((tget [] s.sit.events (destOf o)).take 64).flatMap PEvent.payload) ∧
        tget [] t.sit.events (destOf o) = (tget [] s.sit.events (destOf o)).drop 64 ∧
        Unchanged (replyGrains ++ [.one .events]) s t) ∧
    (s.serves o 0x0002 →
      Replies (.sitterStatus o) o (.s 0) [s.regWord sitCoreReg 0, s.copyVersion s.sec.running] [] s)

/-! ### Operations, passes and shelves (spec/03, 04, 06) -/

/-- OPERATION_GRANT. With no request held, an operation that a running firing with its claim asks for is granted, and only
its firing changes; while 4,096 operations are in flight, or an operation of its queue that names the same ACCUM bytes must
complete first, the request is held and nothing else changes; one that names ACCUM bytes of another queue's operation in
flight abandons its firing with F-160. A held request is granted as soon as nothing stands in its way. Outside normal
service, and in a power-fail sequence, nothing is granted (R254, R255, Table 1.3). -/
def Obligations.OperationGrants : Prop :=
  ∀ (fseq op : Nat) (s : State) (f : Firing),
    (s.issues = false → exec (.operationGrant fseq op) s = .next s) ∧
    (s.issues = true → s.firing? fseq = some f → f.asks op = true →
      (s.fe.grants = [] →
        (4096 ≤ s.opsInFlight → Answers (.operationGrant fseq op) s fun t =>
          t.fe.grants = [(fseq, op)] ∧ Unchanged [.one .grants] s t) ∧
        (s.opsInFlight < 4096 → s.accForeign f (s.accExtents f op) = false →
          (s.accEarlier f op (s.accExtents f op) = true → Answers (.operationGrant fseq op) s fun t =>
            t.fe.grants = [(fseq, op)] ∧ Unchanged [.one .grants] s t) ∧
          (s.accEarlier f op (s.accExtents f op) = false → Answers (.operationGrant fseq op) s fun t =>
            t.firing? fseq = some { f with granted := f.granted ++ [op] } ∧ Unchanged [.one .firings] s t)) ∧
        (s.opsInFlight < 4096 → s.accForeign f (s.accExtents f op) = true → tget 0 f.counts 160 = 0 →
          Answers (.operationGrant fseq op) s fun t => ∃ g, t.firing? fseq = some g ∧ g.st = .abandoning ∧ g.code = 160 ∧
            g.claimHeld = false)) ∧
      (s.fe.grants = [(fseq, op)] → s.opsInFlight < 4096 → s.accForeign f (s.accExtents f op) = false →
        s.accEarlier f op (s.accExtents f op) = false → Answers (.operationGrant fseq op) s fun t =>
          t.firing? fseq = some { f with granted := f.granted ++ [op] } ∧ t.fe.grants = [] ∧
            Unchanged [.one .firings, .one .grants] s t))

/-- PASS_START. The next descriptor of an observer's list starts when its operation is granted, no other pass but earlier
ones of its chain holds a tile of its gang, no other list of its firing has those tiles reserved for a chain or was issued
a pass on them before, and no pass has still to seal bytes it names: it joins the passes in flight, its slot runs, a shelf
gang shows in SHF_GANG, and outside OS its stationary elements and metadata are in the active registers of its cells; nothing
but its window, the gang registers, the cells and the firing changes. Not granted, or throttled, nothing starts; a pass that
a discard stopped starts again before any other (R84, R88, R96, R97, R161, R201, R254).
What the manual leaves open is settled as log 40 says. -/
def Obligations.PassesStart : Prop :=
  ∀ (observer : Nat) (s : State) (f : Firing), observer < 1280 ∨ observer = 1416 → s.issues = true →
    s.onObserver observer = some f → s.firing? f.fseq = some f →
    let bare (l : List Pass) := l.map fun q => { q with met := [] }
    (s.power.throttled = true → exec (.passStart observer) s = .next s) ∧
    (∀ i w, s.power.throttled = false → s.stoppedPass f observer = none → nextPass (f.items observer) 0 = some (i, w) →
      (has f.granted (opOpIndex w) = false ∨ s.tilesFree f observer i w = false ∨ s.earlierSealed f observer i w = false ∨
        f.reserves observer w = true ∨ f.issuedBefore observer w = true → exec (.passStart observer) s = .next s) ∧
      (has f.granted (opOpIndex w) = true → s.tilesFree f observer i w = true → s.earlierSealed f observer i w = true →
        f.reserves observer w = false → f.issuedBefore observer w = false →
        Answers (.passStart observer) s fun t =>
          bare t.passes = bare s.passes ++ [⟨s.nextPass, f.fseq, observer, i, w, 0, false, [], s.underneath f w⟩] ∧
            t.nextPass = s.nextPass + 1 ∧ t.firing? f.fseq = some (f.setItem observer i .running) ∧
            (opGang w = 2 → t.rd shfGangWhole (s.shfInst (160 * opKiln w + opShelf w)) = 1 ∧
              t.rd shfGangQuad (s.shfInst (160 * opKiln w + opShelf w)) = 0) ∧
            (opOs w = false → s.chainOn f observer i w = [] → ((opCells w).map fun p => s.cellKey w p.1 p.2).Nodup →
              ∀ p ∈ opCells w, (tget emptyCell t.cells (s.cellKey w p.1 p.2)).active =
                (statAt s.mem.scratch w p.1 p.2, nibbleAt s.mem.scratch w p.1 p.2)) ∧
            Unchanged [.one .fresh, .one .scratch, .one .passes, .one .nextPass, .one .cells, .one .firings,
              klnGangReg.grain, shfGangReg.grain] s t)) ∧
    (∀ p, s.power.throttled = false → s.stoppedPass f observer = some p → s.tilesFree f observer p.index p.word = true →
      s.earlierSealed f observer p.index p.word = true → Answers (.passStart observer) s fun t =>
        bare t.passes = bare (s.passes.map fun q =>
          if q.id = p.id then { q with stopped := false, under := s.underneath f p.word } else q) ∧
          Unchanged [.one .fresh, .one .scratch, .one .passes, .one .cells, klnGangReg.grain, shfGangReg.grain] s t)

/-- DRAIN. What an array computed right always drains. With every share passed, the pass adds its saggar, converts and writes exactly
the bytes its drain computes, every other byte of scratchpad stays, its slot is done, it leaves the passes in flight and
each shelf counts it. With a share that fails its test it is discarded: nothing is sealed, no firing changes, every shelf
with a failing share shows FAIL_SEEN, and before the third such run in a row the pass stays in flight, stopped, to run
again (R97, R98, R157, R158, R160, R161).
What the manual leaves open is settled as log 40, 41, 109 and 115 say. -/
def Obligations.PassesDrain : Prop :=
  ∀ (passId : Nat) (errs : List PassErr) (s : State) (p : Pass) (f : Firing),
    s.passes.find? (fun p => p.id == passId) = some p → s.firing? p.fseq = some f → s.drainsNext p = true →
    let i := s.passIn f p errs
    let d := i.drain i.run
    (errs = [] → i.failing i.run = []) ∧
    (i.failing i.run = [] →
      Answers (.drain passId errs) s fun t =>
        t.mem.scratch = (s.writesSpace 1 d.writes).mem.scratch ∧
        (∀ c, (∀ x ∈ d.writes, c < scratchKey x.1 ∨ scratchKey x.1 + x.2.length ≤ c) →
          mread t.mem.scratch c = mread s.mem.scratch c) ∧
        t.passes = s.passes.filter (fun q => q.id != p.id) ∧
        (∃ g, t.firing? p.fseq = some g ∧ g.work = (f.setItem p.observer p.index .done).work ∧ g.st = f.st) ∧
        Unchanged [.one .fresh, .one .scratch, .one .passes, .one .cells, .one .firings, shfPassCntReg.grain,
          shfInfZeroReg.grain, shfIntSatReg.grain, shfFeedStallReg.grain, shfWitSkipReg.grain, shfWitStatReg.grain] s t) ∧
    (i.failing i.run ≠ [] → p.failedRuns < 2 →
      Answers (.drain passId errs) s fun t =>
        t.fe.firings = s.fe.firings ∧ (∃ q ∈ t.passes, q.id = p.id ∧ q.stopped = true ∧ q.failedRuns = p.failedRuns + 1) ∧
          (∀ q ∈ t.passes, ∃ r ∈ s.passes, q.id = r.id ∧ q.word = r.word ∧ q.fseq = r.fseq) ∧
          (∀ n ∈ i.failing i.run, t.rd shfWitStatFailSeen (s.shfInst (n / 64)) = 1) ∧
          Unchanged [.one .fresh, .one .scratch, .one .passes, .one .cells, .block .shf, tileColmapReg.grain] s t)

/-- Two hard faults complete: a drain that does not (F-131) and a faulty shelf (F-132). The passes on the shelf stop,
HARD_SEEN of the failed shelf is set, and each firing that holds it loses its claim and replays, or is abandoned where the
geometry changed. A spare shelf of the kiln takes the shelf's index; with none left the shelf is out of service. On a shelf
that is out, or with no power, nothing happens, and a drain can be late only on a shelf with a pass in flight (R163).
What the manual leaves open is settled as log 48 says. -/
def Obligations.HardFaults : Prop :=
  ∀ (kiln shelf : Nat) (s : State), kiln < 8 → shelf < 160 →
    let after := fun t : State => t.rd shfWitStatHardSeen (s.shfInst (160 * kiln + shelf)) = 1 ∧
      (∀ p ∈ t.passes, has (opShelves p.word) (160 * kiln + shelf) = true → p.stopped = true) ∧
      (∀ q f, q ∈ s.claimants (160 * kiln + shelf) → s.firing? q = some f → f.launched = true →
        f.ending = false → ∃ g, t.firing? q = some g ∧ g.claimHeld = false ∧ (g.st = .faulted ∨ g.st = .abandoning)) ∧
      (∀ n, s.freeShelf kiln = some n → s.builtShelf kiln shelf = shelf → t.builtShelf kiln shelf = 160 + n) ∧
      (s.freeShelf kiln = none → t.shelfOut kiln shelf = true)
    (s.powered = false ∨ s.shelfOut kiln shelf = true →
      exec (.shelfFault kiln shelf) s = .next s ∧ exec (.drainTimeout kiln shelf) s = .next s) ∧
    (s.shelfBusy (160 * kiln + shelf) = false → exec (.drainTimeout kiln shelf) s = .next s) ∧
    (s.powered = true → s.shelfOut kiln shelf = false → Answers (.shelfFault kiln shelf) s after) ∧
    (s.powered = true → s.shelfOut kiln shelf = false → s.shelfBusy (160 * kiln + shelf) = true →
      Answers (.drainTimeout kiln shelf) s after)

/-- TILE_REGISTER_COPY moves the bytes of a run of the shelf's slice into a tile's registers, or back, and no other byte
changes (R173). VECTOR_UNIT_OPERATION writes what its results give, and only there, and reports its flags to its
firing; neither touches anything else. Both wait while a wait of their queue is registered, a pass that has not sealed
holds bytes they use in its window, or one of their queue adds to them (R97, R201, R202). An observer on which no firing
runs does neither.
What the manual leaves open is settled as log 106 says. -/
def Obligations.TileAndVectorWork : Prop :=
  ∀ (fseq kiln shelf row col off at_ len : Nat) (toTile : Bool) (s : State) (f : Firing) (g : Graph) (j : VuJob),
    kiln < 8 → shelf < 160 → row < 8 → col < 8 → off + len ≤ 4096 → at_ + len ≤ sliceBytes →
    let slice := 2 ^ 33 * kiln + 2 ^ 25 * shelf + at_
    let tile := tileAddr kiln shelf row col off
    let lad := (f.snap.map (·.ladder)).getD []
    (s.onObserver (160 * kiln + shelf) = none →
      exec (.tileRegisterCopy fseq kiln shelf row col off at_ len toTile) s = .next s) ∧
    (s.issues = true → s.onObserver (160 * kiln + shelf) = some f → f.fseq = fseq → s.firing? fseq = some f →
      (s.shelfHeld f (160 * kiln + shelf) [(slice, len)] = true →
        exec (.tileRegisterCopy fseq kiln shelf row col off at_ len toTile) s = .next s) ∧
      (s.shelfHeld f (160 * kiln + shelf) [(slice, len)] = false →
        (Answers (.tileRegisterCopy fseq kiln shelf row col off at_ len true) s fun t =>
          mreadN t.mem.tile tile len = mreadN s.mem.scratch (scratchKey slice) len ∧
            (∀ c, c < tile ∨ tile + len ≤ c → mread t.mem.tile c = mread s.mem.tile c) ∧ Unchanged [.one .tileMem] s t) ∧
        (Answers (.tileRegisterCopy fseq kiln shelf row col off at_ len false) s fun t =>
          mreadN t.mem.scratch (scratchKey slice) len = mreadN s.mem.tile tile len ∧
            (∀ c, c < scratchKey slice ∨ scratchKey slice + len ≤ c → mread t.mem.scratch c = mread s.mem.scratch c) ∧
            Unchanged [.one .scratch] s t)) ∧
      (j.kiln = kiln → j.shelf = shelf → j.fseq = fseq → s.graph? f.graph = some g → j.fits lad = true →
        (s.shelfHeld f (160 * kiln + shelf) (j.reads ++ j.writes lad) = true → exec (.vectorUnitOperation j) s = .next s) ∧
        (s.shelfHeld f (160 * kiln + shelf) (j.reads ++ j.writes lad) = false →
          Answers (.vectorUnitOperation j) s fun t =>
            t.mem.scratch = (s.writesSpace 1 (s.vuOutput j f g).writes).mem.scratch ∧
            (∀ c, (∀ x ∈ (s.vuOutput j f g).writes, c < scratchKey x.1 ∨ scratchKey x.1 + x.2.length ≤ c) →
              mread t.mem.scratch c = mread s.mem.scratch c) ∧
            t.firing? fseq = some { f with arith := f.arith.reports (s.vuOutput j f g).occs,
                                           gauges := mergeGauges f.gauges (s.vuOutput j f g).gauges } ∧
            Unchanged [.one .fresh, .one .scratch, .one .firings] s t)))

/-! ### Stack memory and DMA (spec/07) -/

/-- Lines of a stack. A clean read of a good line changes nothing; a corrected one counts in STK_CE; one the code cannot
correct is rebuilt from its stripe and counted in RECON, memory as it was; one that cannot be rebuilt counts in UE, its
address goes to STK_UE_ADDR and the firing faults with F-140: replayed, or abandoned when it met that line before,
whatever lines it met since. A write puts exactly its bytes there, and a whole line reads correctly from then on; a
partial write of a line that cannot be read writes nothing and faults its firing in the same way. A stale parity line is
made anew once all data lines of its stripe read (R175, R178, R179).
What the manual leaves open is settled as log 39 and 121 say. -/
def Obligations.StackLines : Prop :=
  ∀ (q : Option Nat) (addr stack stripe : Nat) (data : Bytes) (s : State), s.powered = true →
    let line := lineOf addr
    let faults := fun (n l : Nat) (f : Firing) (t : State) => ∃ g, t.firing? n = some g ∧ g.claimHeld = false ∧
      (has f.lines l = false → g.st = .faulted ∧ g.lines = f.lines ++ [l]) ∧
      (has f.lines l = true → g.st = .abandoning ∧ g.code = 140)
    let recorded := fun (l : Nat) (t : State) => t.rd stkUeAddrAddr (stackOf l) = l % 2 ^ stkUeAddrAddr.width ∧
      t.rd stkUeUe (stackOf l) = min (2 ^ stkUeUe.width - 1) (s.rd stkUeUe (stackOf l) + 1)
    let rebuilt := fun (t : State) => line ∉ t.mem.badLines ∧ t.rd stkUeRecon (stackOf line) =
      min (2 ^ stkUeRecon.width - 1) (s.rd stkUeRecon (stackOf line) + 1) ∧ Unchanged [.one .lines, stkUeReg.grain] s t
    (s.stackAddr addr = true →
      (s.lineBad line = false → exec (.stackLineRead q addr .clean) s = .next s) ∧
      (s.lineBad line = false → Answers (.stackLineRead q addr .corrected) s fun t =>
        t.rd stkCeCntCe (stackOf line) = min (2 ^ stkCeCntCe.width - 1) (s.rd stkCeCntCe (stackOf line) + 1) ∧
          Unchanged [stkCeCntReg.grain] s t) ∧
      (s.canRebuild line = true →
        (s.lineBad line = true → Answers (.stackLineRead q addr .clean) s rebuilt) ∧
        Answers (.stackLineRead q addr .uncorrectable) s rebuilt) ∧
      (s.canRebuild line = false → s.lineBad line = false → Answers (.stackLineRead none addr .uncorrectable) s fun t =>
        recorded line t ∧ t.lineBad line = true ∧ Unchanged [.one .lines, stkUeReg.grain, stkUeAddrReg.grain] s t) ∧
      (s.unreadable line = true → Answers (.stackLineRead none addr .clean) s fun t =>
        recorded line t ∧ Unchanged [stkUeReg.grain, stkUeAddrReg.grain] s t) ∧
      (∀ n f, s.unreadable line = true → s.firing? n = some f → f.ending = false → f.launched = true →
        Answers (.stackLineRead (some n) addr .clean) s (faults n line f))) ∧
    (s.stackAddr addr = true → addr % 64 + data.length ≤ 64 → data ≠ [] →
      (s.writeBlocked addr data.length = none → Answers (.stackLineWrite q addr data) s fun t =>
        mreadN t.mem.stack addr data.length = data ∧
          (∀ a, a < addr ∨ addr + data.length ≤ a → mread t.mem.stack a = mread s.mem.stack a) ∧
          (data.length = 64 → t.lineBad line = false) ∧ Unchanged [.one .stack, .one .lines, stkUeReg.grain] s t) ∧
      (s.unreadable line = true → data.length < 64 →
        (Answers (.stackLineWrite none addr data) s fun t =>
          recorded line t ∧ Unchanged [stkUeReg.grain, stkUeAddrReg.grain] s t) ∧
        (∀ n f, s.firing? n = some f → f.ending = false → f.launched = true →
          Answers (.stackLineWrite (some n) addr data) s (faults n line f)))) ∧
    (stack < 16 → stripe < 2 ^ 26 →
      let base := 2 ^ 36 * stack + 1024 * stripe
      (base ∈ s.mem.staleParity → (∀ l ∈ stripeLines base, s.lineBad l = false) →
        Answers (.parityRecompute stack stripe) s fun t => base ∉ t.mem.staleParity ∧ t.mem.badLines = s.mem.badLines ∧
          (∀ a, a ≠ base → (a ∈ t.mem.staleParity ↔ a ∈ s.mem.staleParity)) ∧ Unchanged [.one .lines] s t) ∧
      ((base ∉ s.mem.staleParity ∨ ∃ l ∈ stripeLines base, s.lineBad l = true) →
        exec (.parityRecompute stack stripe) s = .next s))

/-- The accumulate adders and channels that fail. ACCUM_ADD outside bucket areas leaves the element's sum under RNE in
place and every other byte as it was; where its line cannot be read nothing is added and the address goes to
STK_UE_ADDR. The first data channel of a stack that fails starts a rebuild, and the firings with
accesses outstanding replay (F-141); the parity channel leaves the stack without parity; a second channel loses the stack: F-142, the
end of normal service. While it rebuilds, the failed channel's lines are those of no data yet; REBUILD_COMPLETE leaves the
stack without parity and every line readable that no second fault hit: uncorrectable stay the lines that were, and the
failed channel's line of a stripe not yet rebuilt that has another such line or no parity (R178, R180, R181, R190).
What the manual leaves open is settled as log 47 says. -/
def Obligations.AddersAndChannels : Prop :=
  ∀ (q : Option Nat) (op fmt addr value stack chan : Nat) (outstanding : List Nat) (s : State), s.powered = true →
    (fmt < 3 → s.stackAddr addr = true → s.stackAddr (addr + accElemBytes fmt - 1) = true →
      (s.badIn addr (accElemBytes fmt) = none → s.instsMeeting addr (accElemBytes fmt) = [] →
        Answers (.accumAdd q op fmt addr value) s fun t =>
          mreadN t.mem.stack addr (accElemBytes fmt) =
            addBytes fmt (mreadN s.mem.stack addr (accElemBytes fmt)) (natLe (accElemBytes fmt) value) ∧
          (∀ a, a < addr ∨ addr + accElemBytes fmt ≤ a → mread t.mem.stack a = mread s.mem.stack a) ∧
          Unchanged [.one .stack, .one .lines, .one .firings, stkUeReg.grain] s t) ∧
      (∀ l, s.badIn addr (accElemBytes fmt) = some l → Answers (.accumAdd none op fmt addr value) s fun t =>
        t.rd stkUeAddrAddr (stackOf l) = l % 2 ^ stkUeAddrAddr.width ∧
          Unchanged [stkUeReg.grain, stkUeAddrReg.grain] s t)) ∧
    (stack < 16 → chan < 17 →
      (has s.rep.lostStacks stack = true ∨ s.rd stkStatusFailedCh stack = chan →
        exec (.channelFail stack chan outstanding) s = .next s) ∧
      (has s.rep.lostStacks stack = false → s.rd stkStatusFailedCh stack = 31 →
        Answers (.channelFail stack chan outstanding) s fun t => t.rd stkStatusFailedCh stack = chan ∧
          tget 31 t.rep.chanFailed stack = chan ∧
          (chan = 16 → t.rd stkStatusNoParity stack = 1 ∧ t.rd stkStatusParityOk stack = 0 ∧ t.fe.firings = s.fe.firings) ∧
          (chan ≠ 16 → t.rd stkStatusRebuilding stack = 1 ∧
            (∀ l, stackOf l = stack → (t.lineGone l = true ↔ chanOf l = chan)) ∧
            ∀ n f, n ∈ outstanding → s.firing? n = some f →
              f.launched = true → f.ending = false → ∃ g, t.firing? n = some g ∧ g.st = .faulted ∧ g.claimHeld = false)) ∧
      (has s.rep.lostStacks stack = false → s.rd stkStatusFailedCh stack ≠ 31 → s.rd stkStatusFailedCh stack ≠ chan →
        Answers (.channelFail stack chan outstanding) s fun t => has t.rep.lostStacks stack = true ∧
          (∃ c, t.svc.phase = .down c) ∧ (∃ l, t.power.faults = l ++ [.f 142]))) ∧
    (stack < 16 →
      (s.on stkStatusRebuilding stack = false → exec (.rebuildComplete stack) s = .next s) ∧
      (s.on stkStatusRebuilding stack = true → Answers (.rebuildComplete stack) s fun t =>
        t.rd stkStatusRebuilding stack = 0 ∧ t.rd stkStatusNoParity stack = 1 ∧ t.rd stkStatusParityOk stack = 0 ∧
          t.rd stkStatusRebuildProg stack = 0x8000 ∧
          (s.rd stkStatusFailedCh stack < 16 → ∀ l, l < 2 ^ 40 → l % 64 = 0 → stackOf l = stack → (t.lineBad l = true ↔
            l ∈ s.mem.badLines ∨ s.lineGone l = true ∧
              ((∃ a ∈ s.mem.badLines, stackOf a = stack ∧ stripeOf a = stripeOf l ∧ chanOf a ≠ chanOf l) ∨
                ∃ a ∈ s.mem.staleParity, stackOf a = stack ∧ stripeOf a = stripeOf l))) ∧
          Unchanged [.one .lines, stkStatusReg.grain] s t))

/-- Rings and fetches. A doorbell wakes an enabled ring and nothing else; ENABLE = 1 wakes it, ENABLE = 0 stops it at once
or, with descriptors held, once they complete. DESCRIPTOR_FETCH takes the next slot of the firing's work list, with its
engine's ring enabled, or of the ring in memory: with OWN = 0 the engine stops there, with OWN = 1 it writes 0 to the
slot's byte 63, holds the descriptor and advances DMA_HEAD modulo the ring size; with 16 held it fetches nothing. A
descriptor that fails its checks is not held and stops the ring: F-145 abandons its firing, S-240 tells of Sitter work; a
destination outside the job's subcube abandons with F-170. The slot of a firing switched out or not yet launched stays; one
of a firing stopped or ended is consumed. An unreadable slot stops the ring (R178, R184, R186, R196, R199, R308, Table 7.9).
What the manual leaves open is settled as log 32, 57, 105 and 122 say. -/
def Obligations.RingsAndFetches : Prop :=
  ∀ (e : Nat) (s : State), e < 136 → s.powered = true →
    (s.on dmaRingCtlEnable e = true → Answers (.dmaDoorbell e) s fun t =>
      t.engine e = { s.engine e with awake := true } ∧ (∀ k, k ≠ e → t.engine k = s.engine k) ∧
        Unchanged [.one .engines] s t) ∧
    (s.on dmaRingCtlEnable e = false → exec (.dmaDoorbell e) s = .next s) ∧
    (Answers (.dmaRingEnableWrite e true) s fun t => t.rd dmaRingCtlEnable e = 1 ∧
      t.engine e = { s.engine e with awake := true, stopAfter := false } ∧
        Unchanged [.one .engines, dmaRingCtlReg.grain] s t) ∧
    (Answers (.dmaRingEnableWrite e false) s fun t => (t.engine e).awake = false ∧ (t.engine e).held = (s.engine e).held ∧
      ((s.engine e).held = [] → t.rd dmaRingCtlEnable e = 0) ∧
      ((s.engine e).held ≠ [] → t.rd dmaRingCtlEnable e = s.rd dmaRingCtlEnable e ∧
        (t.engine e).stopAfter = s.on dmaRingCtlEnable e) ∧ Unchanged [.one .engines, dmaRingCtlReg.grain] s t) ∧
    (s.engineRuns e = true → s.engineHere e = true →
      (16 ≤ (s.engine e).held.length → exec (.descriptorFetch e) s = .next s) ∧
      ((s.engine e).held.length < 16 →
        let o := engineObserver e
        let holds := fun (w : Nat) (q i : Option Nat) (n : Nat) (t : State) => (t.engine e).held = (s.engine e).held ++
          [⟨(s.engine e).fetched, w, q, i, n, false, false, false, false, 0, false, [], [], []⟩]
        let ends := fun (q code : Nat) (t : State) =>
          ∃ g, t.firing? q = some g ∧ g.st = .abandoning ∧ g.code = code ∧ g.claimHeld = false
        (∀ f i w, s.onObserver o = some f → f.next o = some (i, w) → s.firing? f.fseq = some f →
          (s.inService = false ∨ s.on dmaRingCtlEnable e = false ∨ dmaOwn w = 0 → exec (.descriptorFetch e) s = .next s) ∧
          (s.inService = true → s.on dmaRingCtlEnable e = true → dmaOwn w = 1 →
            (s.outsideJob w = false → Answers (.descriptorFetch e) s fun t =>
              holds w (some f.fseq) (some i) (s.issuesBefore f o i) t ∧ t.firing? f.fseq = some (f.fetchSlot o i) ∧
              Unchanged [.one .engines, .one .firings] s t) ∧
            (s.outsideJob w = true → f.ending = false → Answers (.descriptorFetch e) s (ends f.fseq 170)))) ∧
        (∀ sp a w, (∀ f, s.onObserver o = some f → f.next o = none) → s.on dmaRingCtlEnable e = true →
          (s.engine e).awake = true → s.rd dmaRingBaseSpace e = sp → sp = 1 ∨ sp = 3 →
          64 * s.rd dmaRingBaseAddr e + 64 * (s.rd dmaHeadHead e % s.ringSlots e) = a → leNat (s.readSpace sp a 64) = w →
          (∀ l, sp = 3 → s.badIn a 64 = some l → Answers (.descriptorFetch e) s fun t =>
            t.engine e = { s.engine e with awake := false } ∧ t.rd stkUeAddrAddr (stackOf l) = l % 2 ^ stkUeAddrAddr.width ∧
            Unchanged [.one .engines, stkUeReg.grain, stkUeAddrReg.grain] s t) ∧
          ((sp = 3 → ∀ l ∈ linesOf a 64, s.lineBad l = false) →
            let freed := fun (t : State) => t.readSpace sp (a + 63) 1 = [0] ∧
              ∀ c, c ≠ spaceKey sp (a + 63) → mread (t.spaceMem sp) c = mread (s.spaceMem sp) c
            let gone := fun (t : State) => freed t ∧
              t.rd dmaHeadHead e = (s.rd dmaHeadHead e + 1) % s.ringSlots e % 2 ^ dmaHeadHead.width
            (dmaOwn w = 0 → Answers (.descriptorFetch e) s fun t => t.engine e = { s.engine e with awake := false } ∧
              Unchanged [.one .engines] s t) ∧
            (dmaOwn w ≠ 0 → dmaFslot w = 0xFFFF →
              ((⟨[], [], [], false⟩ : DmaCtx).codes w = [] → s.inService = true → Answers (.descriptorFetch e) s fun t =>
                holds w none none 0 t ∧ gone t ∧
                  Unchanged [.one .engines, .one .scratch, .one .stack, .one .lines, dmaHeadReg.grain] s t) ∧
              ((⟨[], [], [], false⟩ : DmaCtx).codes w ≠ [] → Answers (.descriptorFetch e) s fun t =>
                t.engine e = { s.engine e with awake := false } ∧ t.rd dmaStatusBadSeen e = 1 ∧ freed t ∧
                  t.rd dmaHeadHead e = s.rd dmaHeadHead e ∧
                  ∀ d ∈ eventFns (.s 240), ∃ v ∈ tget [] t.sit.events d, v.code = .s 240)) ∧
            (dmaOwn w ≠ 0 → dmaFslot w ≠ 0xFFFF →
              (∀ f, s.fe.firings.find? (fun f => f.fslot == dmaFslot w) = some f →
                (f.running = true → s.inService = true → s.firing? f.fseq = some f →
                  ((s.ctxOf (some f)).codes w = [] → s.outsideJob w = false → Answers (.descriptorFetch e) s fun t =>
                    holds w (some f.fseq) none (s.issuesBefore f o (f.items o).length + f.issueIndex o) t ∧ gone t ∧
                      Unchanged [.one .engines, .one .firings, .one .scratch, .one .stack, .one .lines,
                        dmaHeadReg.grain] s t) ∧
                  ((s.ctxOf (some f)).codes w ≠ [] → Answers (.descriptorFetch e) s fun t =>
                    ends f.fseq 145 t ∧ t.rd dmaStatusBadSeen e = 1) ∧
                  ((s.ctxOf (some f)).codes w = [] → s.outsideJob w = true → Answers (.descriptorFetch e) s (ends f.fseq 170))) ∧
                (f.running = true ∧ s.inService = false ∨ f.st = .switched ∨ f.st = .accepted →
                  exec (.descriptorFetch e) s = .next s) ∧
                (f.st = .faulted ∨ f.ending = true → Answers (.descriptorFetch e) s fun t => gone t ∧
                  t.engine e = s.engine e ∧
                  Unchanged [.one .scratch, .one .stack, .one .lines, dmaHeadReg.grain] s t)) ∧
              (s.fe.firings.find? (fun f => f.fslot == dmaFslot w) = none → Answers (.descriptorFetch e) s fun t => gone t ∧
                t.engine e = s.engine e ∧
                Unchanged [.one .scratch, .one .stack, .one .lines, dmaHeadReg.grain] s t))))))

/-- A descriptor that moves bytes within this module, every line of the stacks readable. It starts only with its
operation granted and nothing before it in the way; WAIT_COPY waits until its signal reaches WAIT_VAL, and starts then; a
read of a bucket not yet whole is held, and released once it is. An index entry outside its region is F-143 and moves
nothing. A started descriptor has read its source, and has its transfers to issue. Complete, its bytes with their CRC stand
at its destination, or under OP 2 the sums with what stood there, and no other byte has changed; without a pulse nothing
else happens but its slot and DMA_BYTES (R188, R189, R190, R192, R194, R195, R201, R254, R333).
What the manual leaves open is settled as log 40 and 53 say. -/
def Obligations.LocalDescriptors : Prop :=
  ∀ (e : Nat) (s : State) (h : HeldDesc) (f : Firing), e < 136 → s.engineRuns e = true → s.inService = true →
    (∀ l, s.lineBad l = false) → h.fseq = some f.fseq → s.firing? f.fseq = some f → s.dmaRemote h.word = false →
    let offs := s.dmaOffsets (some f) h.word
    let rs := s.dmaReads (some f) h.word offs
    let free := s.gateOf (some f) (s.dmaTable (some f) h.word) = .free ∧ s.gateOf (some f) rs = .free
    let go := fun (t : State) => (t.engine e).held = (s.engine e).held.map
      (fun d => if d.serial = h.serial then { h with
        started := true, waiting := false, readHeld := false, offs := offs, src := s.dmaSource (some f) h.word offs,
        todo := s.dmaPieces (some f) h.word offs } else d) ∧ Unchanged [.one .engines, .one .fresh] s t
    (splitHeld (s.engine e).held = ([], some h) → h.waiting = false → dmaHost h.word = false →
      (h.granted (some f) = false → exec (.descriptorStart e) s = .next s) ∧
      (h.granted (some f) = true → s.flue.opened = [] →
        (∀ r, r ∈ s.dmaTable (some f) h.word ∨ r ∈ rs ∨ r ∈ s.dmaDsts (some f) h.word offs →
          s.windowBusy r.1 r.2.1 r.2.2 = false) →
        (dmaOp h.word = 3 → s.sigVal (dmaWaitSig h.word) < dmaWaitVal h.word →
          (∀ x ∈ s.flue.waits, x.sig ≠ dmaWaitSig h.word) → Answers (.descriptorStart e) s fun t =>
            (t.engine e).held = (s.engine e).held.map
              (fun d => if d.serial = h.serial then { d with waiting := true } else d) ∧
            t.flue.waits = s.flue.waits ++ [⟨engineObserver e, some f.fseq, dmaWaitSig h.word, false, dmaWaitVal h.word,
              s.now, 0, dmaOpIndex h.word⟩] ∧ Unchanged [.one .engines, .one .waits] s t) ∧
        ((dmaOp h.word = 3 → dmaWaitVal h.word ≤ s.sigVal (dmaWaitSig h.word)) →
          (free → s.badIndex (some f) h.word offs = false → Answers (.descriptorStart e) s go) ∧
          (free → s.badIndex (some f) h.word offs = true → f.ending = false → Answers (.descriptorStart e) s fun t =>
            ∃ g, t.firing? f.fseq = some g ∧ g.st = .abandoning ∧ g.code = 143)))) ∧
    ((s.engine e).held.find? (·.waiting) = some h →
      (h.met = false → exec (.waitCopyRelease e) s = .next s) ∧
      (h.met = true → free → s.badIndex (some f) h.word offs = false → Answers (.waitCopyRelease e) s go)) ∧
    ((s.engine e).held.find? (·.readHeld) = some h → s.badIndex (some f) h.word offs = false →
      (free → Answers (.heldReadRelease e) s go) ∧
      (s.gateOf (some f) (s.dmaTable (some f) h.word) = .free → s.gateOf (some f) rs = .broken → f.ending = false →
        Answers (.heldReadRelease e) s fun t => ∃ g, t.firing? f.fseq = some g ∧ g.st = .abandoning ∧ g.code = 181)) ∧
    (∀ i r more, (s.engine e).held = h :: r → h.started = true → h.readHeld = false → h.placed = false → h.todo = [] →
      s.passing (engineObserver e) h.serial = false → h.index = some i → dmaIdx h.word ≠ 2 → dmaSigEn h.word = 0 →
      let m := s.dmaMoved (some f) h.word h.src
      let sp := dmaDstSpace h.word
      let b := m.bytes ++ dmaCrcOf h.word m.bytes
      let to_ := s.addr (some f) sp true (dmaDstAddr h.word)
      let a := spaceKey sp to_
      let done := fun (b : Bytes) (t : State) => mreadN (t.spaceMem sp) a b.length = b ∧
        (∀ c, c < a ∨ a + b.length ≤ c → mread (t.spaceMem sp) c = mread (s.spaceMem sp) c) ∧
        (t.engine e).held = r.filter (fun d => d.serial != h.serial) ∧
        t.rd dmaBytesBytes e = (s.rd dmaBytesBytes e + s.dmaCount h) % 2 ^ dmaBytesBytes.width ∧
        (∃ g, t.firing? f.fseq = some g ∧ g.work = (f.setItem (engineObserver e) i .done).work) ∧
        Unchanged [.one .scratch, .one .const, .one .stack, .one .lines, stkUeReg.grain, .one .engines, .one .firings,
          dmaBytesReg.grain, dmaRingCtlReg.grain] s t
      (dmaOp h.word = 1 ∨ dmaOp h.word = 3 → sp = 1 ∨ sp = 2 ∨ sp = 3 → s.shardAt to_ b.length = none →
        Answers (.descriptorComplete e more) s (done b)) ∧
      (dmaOp h.word = 2 → sp = 3 → s.instsMeeting to_ b.length = [] → b.length % accElemBytes (dmaAccFmt h.word) = 0 →
        Answers (.descriptorComplete e more) s
          (done (addBytes (dmaAccFmt h.word) (mreadN s.mem.stack to_ b.length) b))))

/-- A host access that ends in an error, or a host read that times out, be it of a source or the read-back of a host
destination: HOST_ERR_SEEN, and the first F-144 of the firing replays it, a second abandons it with F-144; Sitter work is
given up. With no such access in progress nothing happens (R192, R198, R344). -/
def Obligations.HostAccessErrors : Prop :=
  ∀ (e : Nat) (s : State), e < 136 →
    let asks := fun (h : HeldDesc) => h.started && dmaHost h.word && s.hostAsked e h
    ((∀ h ∈ (s.engine e).held, asks h = false) →
      exec (.hostAccessError e) s = .next s ∧ exec (.hostReadTimeout e) s = .next s) ∧
    (∀ h, (s.engine e).held.find? asks = some h →
      (∀ n f, h.fseq = some n → s.firing? n = some f → f.launched = true → f.ending = false →
        let failed := fun (t : State) => t.rd dmaStatusHostErrSeen e = 1 ∧ ∃ g, t.firing? n = some g ∧ g.claimHeld = false ∧
          (tget 0 f.counts 144 = 0 → g.st = .faulted ∧ tget 0 g.counts 144 = 1) ∧
          (tget 0 f.counts 144 ≠ 0 → g.st = .abandoning ∧ g.code = 144)
        Answers (.hostAccessError e) s failed ∧ Answers (.hostReadTimeout e) s failed) ∧
      (h.fseq = none →
        let given := fun (t : State) => t.rd dmaStatusHostErrSeen e = 1 ∧
          (t.engine e).held = (s.engine e).held.filter (fun d => d.serial != h.serial) ∧ t.fe.firings = s.fe.firings
        Answers (.hostAccessError e) s given ∧ Answers (.hostReadTimeout e) s given))

/-! ### Firings (spec/09) -/

/-- Submission and acceptance. A doorbell has the slot at HEAD read again; in a power-fail sequence none is taken. A slot with
OWN = 0 stops the queue until the next doorbell. A slot that fails a check of Table 9.9 gets its STATUS with byte 63 cleared, HEAD goes
on, and no firing exists; one that passes becomes a firing with the next FSEQ and its ACCEPT record is being written. Once
that record is in the log the slot returns with STATUS 0. firing.launch writes the slot itself and waits for its STATUS.
With no FSLOT free no slot is fetched, passing or not (R236-R239, R247, R263, R265). Acceptance also marks the firings that
R259 holds from then on.
What the manual leaves open is settled as log 60 and 61 say. -/
def Obligations.Acceptance : Prop :=
  ∀ (q : Nat) (s : State), q < 64 →
    let n := s.rd feSqCfgHead q
    let w := s.subSlot q n
    let only := fun (t : State) (v : Nat) => t.subSlot q n = v ∧
      ∀ p m, slotKey p m ≠ slotKey q n → t.subSlot p m = s.subSlot p m
    let bare := fun (f : Firing) => { f with copyWait := false }
    (s.powered = true → s.power.seq.isNone = true → Answers (.sqDoorbell q) s fun t => has t.fe.woken q = true ∧
      (∀ k, k ≠ q → has t.fe.woken k = has s.fe.woken k) ∧ t.fe.slots = s.fe.slots ∧ Unchanged [.one .slots] s t) ∧
    (s.power.seq.isSome = true → exec (.sqDoorbell q) s = .next s) ∧
    (s.issues = false ∨ has s.fe.woken q = false → exec (.slotAccept q) s = .next s) ∧
    (s.issues = true → has s.fe.woken q = true →
      (subOwn w = 0 → Answers (.slotAccept q) s fun t => has t.fe.woken q = false ∧
        (∀ k, k ≠ q → has t.fe.woken k = has s.fe.woken k) ∧ t.fe.slots = s.fe.slots ∧ Unchanged [.one .slots] s t) ∧
      (s.on feSqCfgEnable q = false → s.slotStatus q w = 5) ∧
      (s.on feSqCfgEnable q = true → s.on feSqCfgPtask q = false →
        (∀ g, s.graph? (subGraph w) = some g → imgPersistent g.header = 1 → s.slotStatus q w = 5) ∧
        (s.graph? (subGraph w) = none → (subCplKind w = 3 ∨ 16 < subInlineLen w → s.slotStatus q w = 4) ∧
          (subCplKind w = 0 → subInlineLen w = 0 → s.slotStatus q w = 1)) ∧
        (∀ g, s.graph? (subGraph w) = some g → imgPersistent g.header ≠ 1 → subCplKind w = 0 → subInlineLen w = 0 →
          s.slotStatus q w = if 65536 ≤ s.ledgerUsed then 2 else if s.logRoom then 0 else 3)) ∧
      (subOwn w ≠ 0 → s.freeFslot = none → exec (.slotAccept q) s = .next s) ∧
      (∀ k, subOwn w ≠ 0 → s.freeFslot = some k → (∀ f ∈ s.fe.firings, f.queue = q → f.slot = n → f.logged = true) →
        (s.slotStatus q w ≠ 0 → Answers (.slotAccept q) s fun t => only t (w % 2 ^ 496 + 2 ^ 496 * s.slotStatus q w) ∧
          t.rd feSqCfgHead q = (n + 1) % 64 ∧
          Unchanged [.one .slots, .one .boxes, .one .vectors, .one .frames, feSqCfgReg.grain, feStatusReg.grain] s t) ∧
        (s.slotStatus q w = 0 → s.rd feFseqNext 0 < s.rd feFseqEndEnd 0 →
          Answers (.slotAccept q) s fun t => only t w ∧ t.rd feSqCfgHead q = (n + 1) % 64 ∧
            t.rd feFseqNext 0 = (s.rd feFseqNext 0 + 1) % 2 ^ 64 ∧
            t.fe.firings.map bare = (s.fe.firings ++ [newFiring q n w (s.rd feFseqNext 0) k s.now]).map bare ∧
            (∃ r, t.fe.writing = s.fe.writing ++ [r] ∧ r.kind = 1 ∧ r.fseq = s.rd feFseqNext 0 ∧ r.fslot = k ∧
              r.graph = subGraph w ∧ r.queue = q ∧ r.account = subAccount w ∧ r.ctag = subCtag w) ∧
            Unchanged [.one .firings, .one .log, feSqCfgReg.grain, feFseqReg.grain] s t))) ∧
    (∀ (a : Nat) (r : LogRec) (f : Firing), s.powered = true → s.firing? a = some f → s.fe.asked = [] →
      s.fe.writing.find? (fun r => r.kind == 1 && r.fseq == a) = some r →
      Answers (.acceptRecordLogged a) s fun t => r ∈ t.fe.log ∧ t.firing? a = some { f with logged := true } ∧
        t.subSlot f.queue f.slot = s.subSlot f.queue f.slot % 2 ^ 496 ∧
        Unchanged [.one .slots, .one .log, .one .firings] s t) ∧
    (∀ (a : Nat), s.fe.writing.any (fun r => r.kind == 1 && r.fseq == a) = false →
      exec (.acceptRecordLogged a) s = .next s) ∧
    (∀ (o : Origin) (slot i : Nat), s.serves o 0x0110 → i < 64 → subOwn (s.subSlot q ((n + i) % 64)) = 0 →
      (∀ j < i, subOwn (s.subSlot q ((n + j) % 64)) ≠ 0) → Answers (.firingLaunchCmd o q slot) s fun t =>
        t.subSlot q ((n + i) % 64) = slot % 2 ^ 511 + 2 ^ 511 ∧ has t.fe.woken q = true ∧ (t.box o).st = 1 ∧
          (q, (n + i) % 64, o) ∈ t.fe.asked ∧
          (∀ p m, slotKey p m ≠ slotKey q ((n + i) % 64) → t.subSlot p m = s.subSlot p m) ∧
          Unchanged [.one .slots, .one .boxes] s t)

/-- FIRING_LAUNCH. Claims of firings whose operations are over are released first. No firing launches whose claim meets one
that another firing holds, whose queue holds an earlier one neither launched nor ending, whose block names an epoch the
ladder has not reached, or while a rest point or a wheel step waits or the meter or an unsynchronised wheel holds it; none
while another holds its LOCAL signals or groups or a copied thing it writes (R215, R278). A firing that may take its claim starts its first
attempt with its snapshot: the block with the slot's inline bytes, the ladder slots, EPOCH, the copies current. The rings
of its kiln engines are written with its FSLOT and OWN = 1, and enabled; LADDER_LATE is set when the ladder has passed its
block's epoch. A replay launches again on its snapshot as it was; a firing whose exchange reads a copy that is not current is abandoned
with F-180 (R80, R184, R239, R245, R249, R250, R259, R261, R334).
What the manual leaves open is settled as log 34, 62, 63 and 65 say. -/
def Obligations.Launches : Prop :=
  ∀ (n : Nat) (f : Firing) (g : Graph) (s : State), s.releaseDone.firing? n = some f →
    s.releaseDone.graph? f.graph = some g → f.st ≠ .switched →
    let u := s.releaseDone
    let bare := fun (f : Firing) => { f with copyWait := false }
    let held := fun (t : State) (sn : Snap) => (∃ h, t.firing? n = some h ∧ h.st = .running ∧ h.claimHeld = true ∧
        h.attempts = f.attempts + 1 ∧ h.snap = some sn ∧
        h.work = (if f.snap = none then boundWork g sn else f.work).map (fun l =>
          if 1280 ≤ l.1 ∧ l.1 < 1408 then (l.1, l.2.map fun x => (ringWord f.fslot x.1, x.2)) else l) ∧
        h.arith = (if blockEpoch sn.pblock ≠ 0 ∧ blockEpoch sn.pblock < sn.epoch then ⟨flLadderLate, [], []⟩ else .empty)) ∧
      (∀ l ∈ g.work, isKilnEngine l.1 = true → l.2 ≠ [] → t.rd dmaRingCtlEnable (l.1 - 1280) = 1) ∧
      (∀ p, p ≠ n → (t.firing? p).map bare = (u.firing? p).map bare) ∧
      Unchanged [.one .firings, .one .turns, .one .waits, .one .barriers, .one .opened, .one .tileMem, .one .scratch,
        .one .const, .one .stack, .one .hostMem, .one .fresh, .one .lines, fluSigValueReg.grain, dmaRingCtlReg.grain] s t
    ((∃ h ∈ u.fe.firings, h.fseq ≠ n ∧ h.claimHeld = true ∧ u.opsOver h = false ∧
        claimsMeet (u.claimOf f) (u.claimOf h) = true) → exec (.firingLaunch n) s = .next u) ∧
    (f.st = .accepted →
      ((∃ h ∈ u.fe.firings, h.queue = f.queue ∧ h.fseq < f.fseq ∧ h.launched = false ∧ h.ending = false) ∨
        u.rd feLadderCtlEpoch 0 < blockEpoch g.pblock ∨ (subWaitPrev f.word ≠ 0 ∧ u.predecessorsEnded f = false) ∨
        u.svc.resting = true ∨ u.wheel.step.isSome = true ∨ u.issues = false ∨ u.meterHolds = true ∨
        (imgFabric g.header ≠ 0 ∧ u.on whlStatusUnsync 0 = true) ∨
        u.syncHeld f g = true ∨ u.copyHeld f g = true ∨ u.copyTurn f g = false) → exec (.firingLaunch n) s = .next u) ∧
    (u.mayTake f = true → (∀ l, s.lineBad l = false) →
      (f.snap = none → u.exchangeReady f.graph (u.snapshot f g) = true →
        Answers (.firingLaunch n) s fun t => held t (u.snapshot f g)) ∧
      (f.snap = none → u.exchangeReady f.graph (u.snapshot f g) = false → f.ending = false →
        Answers (.firingLaunch n) s fun t => ∃ h, t.firing? n = some h ∧ h.st = .abandoning ∧ h.code = 180) ∧
      (∀ sn, f.snap = some sn → Answers (.firingLaunch n) s fun t => held t sn))
/-- Commit. A firing commits once its operations are over, its ACCEPT record is in the log and every earlier firing of its
queue has ended; with JOIN slots it waits for the merge, which it keeps. The COMMIT record takes the next LSEQ and the claim is released;
once the record is in the log, CUR of everything written flips, the ladder is evaluated where the graph asks (EPOCH one
higher, gauges cleared), the completion record goes to the ledger and the firing is over. An abandoned firing gets its
ABANDON record and completion record with no flip. The completion action follows: a WORD action stores its four bytes in
host memory once the host port's damper grants it, a SIGNAL action at a signal not declared FABRIC reports S-259; then ACTION_DONE is logged (R79, R238, R239,
R248, R258, R260-R262).
What the manual leaves open is settled as log 64, 68 and 108 say. -/
def Obligations.Commits : Prop :=
  ∀ (n : Nat) (f : Firing) (g : Graph) (s : State), s.firing? n = some f → s.graph? f.graph = some g →
    let begun := fun (t : State) => (∃ h, t.firing? n = some h ∧ h.st = .committing ∧ h.claimHeld = false ∧ h.tickEnd = s.now) ∧
      (∃ r, t.fe.writing = s.fe.writing ++ [r] ∧ r.kind = 2 ∧ r.fseq = n ∧ r.lseq = s.fe.nextLseq) ∧
      t.fe.nextLseq = s.fe.nextLseq + 1
    let ended := fun (t : State) (outcome code lseq tick : Nat) (ar : Arith) => ∃ c, t.fe.ledger = s.fe.ledger ++ [c] ∧
      c.outcome = outcome ∧ c.code = code ∧ c.fseq = n ∧ c.lseq = lseq ∧ c.graph = f.graph ∧ c.queue = f.queue ∧
      c.account = subAccount f.word ∧ c.ctag = subCtag f.word ∧ c.tickAccept = f.tickAccept ∧ c.tickEnd = tick ∧ c.arith = ar
    (s.issues = false ∨ s.opsOver f = false ∨ f.logged = false ∨ s.predecessorsEnded f = false →
      exec (.firingCommit n) s = .next s) ∧
    (s.commitReady f = true →
      (g.joins = false → Answers (.firingCommit n) s fun t => begun t ∧
        Unchanged [.one .firings, .one .log, .one .ledger, .one .turns] s t) ∧
      (g.joins = true →
        let e := s.rd feLadderCtlEpoch 0 + 1
        ((s.sendJoins f g e).joinMerge g e = none → exec (.firingCommit n) s = .next (s.sendJoins f g e)) ∧
        (∀ m h, (s.sendJoins f g e).joinMerge g e = some m → (s.sendJoins f g e).firing? n = some h →
          Answers (.firingCommit n) s fun t => begun t ∧ ∃ k, t.firing? n = some k ∧ k.merged = m))) ∧
    (∀ r, s.powered = true → f.st = .committing → s.fe.writing.find? (fun r => r.kind == 2 && r.fseq == n) = some r →
      let quiet := f.retire = [] ∧ ∀ a, (s.logLand 2 n).acceptRec n = some a → a.cplKind = 0
      (g.writtenKeys f.graph).Nodup → Answers (.commitRecordLogged n) s fun t =>
        r ∈ t.fe.log ∧ ended t 1 0 r.lseq r.tick f.arith ∧
        (∀ k, tget 0 t.fe.cur k = if k ∈ g.writtenKeys f.graph then 1 - tget 0 s.fe.cur k else tget 0 s.fe.cur k) ∧
        (imgLadderEval g.header = 1 → t.rd feLadderCtlEpoch 0 = (s.rd feLadderCtlEpoch 0 + 1) % 2 ^ 32 ∧
          ∀ k, t.gaugeAt k = .empty) ∧
        (imgLadderEval g.header ≠ 1 → t.rd feLadderCtlEpoch 0 = s.rd feLadderCtlEpoch 0 ∧
          ∀ k, k ∉ f.gauges.map (·.1) → t.gaugeAt k = s.gaugeAt k) ∧
        (quiet → t.firing? n = none ∧ (∀ p, p ≠ n → t.firing? p = s.firing? p) ∧
          Unchanged [.one .firings, .one .log, .one .ledger, .one .copies, .one .barriers, .one .meter, .one .stack, .one .lines,
            .one .watermarks, feGaugeReg.grain, feLadderReg.grain, feLadderStatReg.grain, feLadderCtlReg.grain,
            grxInstReg.grain, grxGatherReg.grain, stkUeReg.grain, stkUeAddrReg.grain] s t)) ∧
    (s.powered = true → f.st = .abandoning →
      (f.logged = false ∨ s.predecessorsEnded f = false → exec (.commitRecordLogged n) s = .next s) ∧
      (f.logged = true → s.predecessorsEnded f = true → Answers (.commitRecordLogged n) s fun t =>
        ended t 2 f.code s.fe.nextLseq s.now .empty ∧ t.fe.nextLseq = s.fe.nextLseq + 1 ∧ t.fe.cur = s.fe.cur ∧
        ∃ r ∈ t.fe.log, r.kind = 3 ∧ r.fseq = n ∧ r.lseq = s.fe.nextLseq ∧ r.result = f.code)) ∧
    (∀ (k : Nat) (a : Action) (acc : LogRec), s.inService = true → s.fe.actions.find? (fun a => a.fseq == k) = some a →
      s.acceptRec k = some acc → s.actionAcked k = true →
      let isOver := fun (t : State) => (∃ r ∈ t.fe.log, r.kind = 6 ∧ r.fseq = acc.fseq) ∧
        t.fe.actions = s.fe.actions.filter (fun b => b.fseq != k)
      (a.performed = true → a.kind ≠ 1 → Answers (.actionDone k) s fun t => isOver t ∧ Unchanged [.one .log, .one .actions] s t) ∧
      (a.performed = false → a.kind = 2 → s.hostReady = false → exec (.actionDone k) s = .next s) ∧
      (a.performed = false → a.kind = 2 → s.hostGrants = true → Answers (.actionDone k) s fun t => isOver t ∧
        mreadN t.mem.host a.addr 4 = natLe 4 a.val ∧
        (∀ c, c < a.addr ∨ a.addr + 4 ≤ c → mread t.mem.host c = mread s.mem.host c) ∧
        Unchanged [.one .hostMem, .one .log, .one .actions, dmpReqStatReg.grain] s t) ∧
      (a.performed = false → a.kind = 1 → a.mod = s.self → s.sigFabric a.sig = false → Answers (.actionDone k) s fun t =>
        isOver t ∧ ∃ e ∈ tget [] t.sit.events 0, e.code = .s 259))

/-- The ladder. When the COMMIT record of a firing whose graph evaluates the ladder is in the log, every slot that a resident
graph carries a rule for takes the state that R78 computes from its gauge: the module's gauge with the firing's updates, or
the job-wide merge where the rule has JOIN = 1. A slot with no elements keeps its state. A NaN takes what NAN_ACT and HOLD
say and is reported. Else too many saturated or zeroed elements widen the format to the next wider one of MASK, or are
reported where there is none; without them HOLD_LEFT counts down, and at 0 the format goes to the next narrower one of MASK.
SCX is 0 for Grog4 and Glaze16; else it is the largest k with AMAX x 2^k at most maxfin x 2^-HEAD, held within SCX_MIN and
SCX_MAX, and it is kept where AMAX is not finite or is 0. A slot without a rule keeps its state (R78, R79, R81). -/
def Obligations.LadderSlots : Prop :=
  ∀ (n : Nat) (f : Firing) (g : Graph) (c : LogRec) (s : State), s.Canon → s.powered = true → s.firing? n = some f →
    s.graph? f.graph = some g → f.st = .committing → imgLadderEval g.header = 1 →
    s.fe.writing.find? (fun r => r.kind == 2 && r.fseq == n) = some c →
    Answers (.commitRecordLogged n) s fun t => ∀ k,
      let r := s.regWord feRuleReg k
      let fmt := s.rd feLadderFmt k
      let hold := s.rd feLadderHoldLeft k
      let fmt' := t.rd feLadderFmt k
      let scx' := t.rd feLadderScx k
      let hold' := t.rd feLadderHoldLeft k
      let x := if ruleJoin r = 1 then tget .empty f.merged k else (s.mergeGauges f.gauges).gaugeAt k
      let has := fun (i : Nat) => i < 4 ∧ bit (ruleMask r) i = true
      let kept := fmt' = fmt ∧ scx' = s.rd feLadderScx k ∧ hold' = hold
      (k ∉ s.slotsInUse → kept) ∧
      (k ∈ s.slotsInUse → (ruleJoin r = 1 → k ∈ f.merged.map (·.1)) →
        (x.elem = 0 → kept) ∧
        (x.elem ≠ 0 → x.nan ≠ 0 → t.rd feLadderStatLadderNanSeen 0 = 1 ∧ hold' = ruleHold r ∧
          (ruleNanAct r = 0 → fmt' = fmt ∧ scx' = s.rd feLadderScx k) ∧
          (ruleNanAct r = 1 → scx' = s.rd feLadderScx k ∧ ∀ i, has i → has fmt' ∧ i ≤ fmt') ∧
          (ruleNanAct r = 2 → fmt' = ruleInitFmt r ∧ scx' = ruleInitScx r)) ∧
        (x.elem ≠ 0 → x.nan = 0 →
          let widen := ruleSatLim r * x.elem < x.sat * 2 ^ 20 ∨ ruleZeroLim r * x.elem < x.zero * 2 ^ 20
          (widen → ∀ i, has i → fmt < i → (∀ j, has j → fmt < j → i ≤ j) → fmt' = i ∧ hold' = ruleHold r) ∧
          (widen → (∀ i, has i → i ≤ fmt) → fmt' = fmt ∧ hold' = hold ∧ t.rd feLadderStatAtWidestSeen 0 = 1) ∧
          (¬widen → hold ≠ 0 → fmt' = fmt ∧ hold' = hold - 1) ∧
          (¬widen → hold = 0 → fmt < 4 → ∀ i, has i → i < fmt → (∀ j, has j → j < fmt → j ≤ i) →
            fmt' = i ∧ hold' = ruleHold r) ∧
          (¬widen → hold = 0 → fmt < 4 → (∀ i, has i → fmt ≤ i) → fmt' = fmt ∧ hold' = 0) ∧
          (fmt' = 0 ∨ fmt' = 3 → scx' = 0) ∧
          (fmt' ≠ 0 → fmt' ≠ 3 →
            let most := fltMax (ladderCode fmt')
            (∀ b m e, decodeFlt 1 x.amax = .num b m e → m ≠ 0 → ∃ z : Int,
              cmpMag m (e + z) most.1 (most.2 - ruleHead r) ≠ .gt ∧ cmpMag m (e + (z + 1)) most.1 (most.2 - ruleHead r) = .gt ∧
              signed 8 scx' = min (max z (signed 8 (ruleScxMin r))) (signed 8 (ruleScxMax r))) ∧
            ((∀ b m e, decodeFlt 1 x.amax = .num b m e → m = 0) → scx' = s.rd feLadderScx k))))
/-- Faults, cancels, time slices and context switches. A fault replays a firing in flight on its snapshot, its claim
released, or abandons it as Table 9.12 and the rules of the fault say; no other firing changes. firing.cancel abandons
with F-161, and is refused with S-257 for a firing unknown or ending. A slice that ends starts again unless other queues'
firings want parts of the claims that its queue's firings hold: each of those then leaves. A firing at a pass boundary whose
slice has ended, or that a rest point waits for, is switched out: its LOCAL signals, the waits of its sequencers, its arrivals,
its withdrawn descriptors, none of them started, and every byte of its claim's tiles, scratchpad and constant store are kept,
and come back as they were when it is restored; FLU_BAR_RESTART counts the generations in progress then (R10, R198, R211, R222,
R232-R235, R250, R251, R257, R261). The clauses on a switch and a restore are for states where no ctl cycle is under way and
the Sitter waits for nothing.
What the manual leaves open is settled as log 66 and 67 say. -/
def Obligations.FaultsAndSwitches : Prop :=
  ∀ (n : Nat) (f : Firing) (s : State), s.firing? n = some f →
    let others := fun (t : State) => ∀ p, p ≠ n → t.firing? p = s.firing? p
    let leaves := has (tget idleTurn s.fe.turns f.queue).leaving n || s.svc.resting
    let u := s.releaseDone
    let kept := fun (c : Context) (sp : Nat) => if sp = 0 then c.tile else if sp = 1 then c.scratch else c.const
    (s.powered = true → f.launched = true → f.ending = false →
      let replayed := fun (t : State) => (∃ h, t.firing? n = some h ∧ h.st = .faulted ∧ h.claimHeld = false ∧ h.snap = f.snap ∧
        h.attempts = f.attempts ∧ h.granted = [] ∧ h.arith = .empty) ∧ others t
      let abandoned := fun (code : Nat) (t : State) => (∃ h, t.firing? n = some h ∧ h.st = .abandoning ∧ h.code = code ∧
        h.claimHeld = false) ∧ others t
      (∀ code ∈ [130, 131, 132, 140, 141], Answers (.firingFault n code) s replayed) ∧
      (∀ code ∈ [144, 152, 150, 172], Answers (.firingFault n code) s
        (if tget 0 f.counts code < (if code = 144 ∨ code = 152 then 1 else 3) then fun t => replayed t ∧
          ∃ h, t.firing? n = some h ∧ tget 0 h.counts code = tget 0 f.counts code + 1 else abandoned code)) ∧
      (∀ code ∈ [143, 145, 151, 160, 162, 164, 170, 171, 180, 181],
        Answers (.firingFault n code) s (abandoned code)) ∧
      (∀ o, s.serves o 0x0111 → Answers (.firingCancel o n) s fun t => s.replied t o (.s 0) [] ∧ abandoned 161 t)) ∧
    (∀ o k, s.serves o 0x0111 → (∀ g, s.firing? k = some g → g.ending = true) →
      Replies (.firingCancel o k) o (.s 257) [] [] s) ∧
    (f.ending = true → ∀ code, Answers (.firingFault n code) s fun t => t.firing? n = some f ∧ others t) ∧
    (∀ q, q < 64 →
      let slot := tget idleTurn s.fe.turns q
      let late := s.advanceTo (slot.start + max 1 (s.rd feSqCfgSlice q))
      let mine := s.fe.firings.filter fun g => g.queue == q && g.running && g.claimHeld
      let go := (mine.filter late.wanted).map (·.fseq)
      (mine = [] → exec (.timeSliceExpiry q) s = .next s) ∧
      (mine ≠ [] → Answers (.timeSliceExpiry q) s fun t => t.now = late.now ∧
        tget idleTurn t.fe.turns q = (if go = [] then { slot with start := t.now, leaving := [] } else { slot with leaving := go }) ∧
        (∀ p, p ≠ q → tget idleTurn t.fe.turns p = tget idleTurn s.fe.turns p) ∧
        Unchanged [.one .turns, whlCountReg.grain] s t)) ∧
    ((s.issues = false ∨ leaves = false ∨ s.canSwitch f = false → exec (.contextSwitch n) s = .next s) ∧
      (s.Canon → s.issues = true → leaves = true → s.canSwitch f = true → s.flue.opened = [] → Answers (.contextSwitch n) s fun t =>
        ∃ h c, t.firing? n = some h ∧ h.st = .switched ∧ h.claimHeld = false ∧ h.ctx = some c ∧
          c.waits = s.flue.waits.filter (fun w => w.fseq == some n && !isEngineObs w.observer) ∧
          (∀ w ∈ t.flue.waits, w.fseq ≠ some n) ∧ (∀ e, ∀ d ∈ (t.engine e).held, d.fseq ≠ some n) ∧
          (∀ e, ∀ d ∈ (s.engine e).held, d.fseq = some n → ∃ p ∈ c.withdrawn, p.1 = e ∧ ∃ x ∈ p.2, x.serial = d.serial ∧
            x.word = d.word ∧ x.index = d.index ∧ x.started = false ∧ x.waiting = false) ∧
          (∀ g b, (g, b) ∈ s.flue.bars → b.fseq = n → b.arrived ≠ [] →
            (g, b.arrived.filter fun o => !(decide (1280 ≤ o) && decide (o < 1416))) ∈ c.arrivals) ∧
          (∀ g, s.graph? f.graph = some g → ∀ e ∈ g.signals, sigCls e = 0 →
            tget 0 c.locals (sigSig e) = s.sigVal (sigSig e)) ∧
          (∀ r ∈ claimRuns (s.claimOf f), ∀ a, r.2.1 ≤ a → a < r.2.1 + r.2.2 →
            mread (kept c r.1) a = mread (s.spaceMem r.1) a) ∧ others t ∧
          Unchanged [.one .fresh, .one .tileMem, .one .scratch, .one .const, .one .stack, .one .hostMem, .one .engines, .one .waits,
            .one .barriers, .one .firings, .one .turns, .one .dampers] s t)) ∧
    (∀ h c, u.firing? n = some h → h.ctx = some c → h.st = .switched →
        (u.mayTake h = false → exec (.contextRestore n) s = .next u) ∧
        (u.mayTake h = true → (∀ sp < 3, tsorted (kept c sp).cells = true) → (c.withdrawn.map (·.1)).Nodup →
          s.flue.opened = [] → s.flue.sitter = [] → Answers (.contextRestore n) s fun t =>
            (∀ r ∈ claimRuns (u.claimOf h), ∀ a, r.2.1 ≤ a → a < r.2.1 + r.2.2 →
              mread (t.spaceMem r.1) a = mread (kept c r.1) a) ∧
            (c.waits = [] → (∀ p ∈ c.withdrawn, (t.engine p.1).held = p.2 ++ (s.engine p.1).held) ∧
              ∀ e, e ∉ c.withdrawn.map (·.1) → t.engine e = s.engine e) ∧
            (s.Canon → t.rd fluBarRestartRestarts 0 =
              min (2 ^ fluBarRestartRestarts.width - 1) (s.rd fluBarRestartRestarts 0 + c.arrivals.length)) ∧
            (c.waits = [] → c.arrivals = [] → ∃ k, t.firing? n = some k ∧ k.st = .running ∧ k.claimHeld = true ∧ k.ctx = none ∧
              k.work = h.work ∧ k.snap = h.snap) ∧
            Unchanged [.one .tileMem, .one .scratch, .one .const, .one .engines, .one .waits, .one .barriers, .one .firings,
              .one .turns, fluNearTimeoutReg.grain, fluSigValueReg.grain, fluBarRestartReg.grain] s t))
/-- The host ring, the ladder's reset and the commands on graphs. A CURSOR record closes what the ring has taken. A copy
stores the next completion record's 256 bytes at HEAD; read back without error it leaves the ledger and HEAD advances, with an
error the ring is detached with S-258, and each copy makes room for rebuilt records; ring.attach empties and attaches the ring. ladder.reset puts every slot to its
rule's initial state, unless a firing names a slot (S-230). graph.store replies the lowest code of the checks that fail, with
the PARAM_ID of L-043, or makes the graph resident with its image in stack memory, ladder slots that another graph uses
keeping their state; graph.drop takes it out; both are refused with S-255 while a firing of it
is accepted; param.patch writes exactly its bytes of the block or, out of bounds, nothing (S-256); task.bind and
task.unbind set and clear the queue's binding (R75, R82, R242, R243, R246, R253, R262, R266-R269).
What the manual leaves open is settled as log 36, 59, 69, 71 and 124 say. -/
def Obligations.RingAndGraphs : Prop :=
  ∀ (o : Origin) (s : State),
    (s.inService = true → 0 < s.fe.sinceCursor → Answers .cursorRecord s fun t => t.fe.sinceCursor = 0 ∧
      (∃ r ∈ t.fe.log, r.kind = 5 ∧ r.lseq = s.oldestLseq) ∧ Unchanged [.one .log] s t) ∧
    (s.inService = false ∨ s.fe.sinceCursor = 0 → exec .cursorRecord s = .next s) ∧
    (let room := (s.rd feHringPtrHead 0 + 2 ^ 32 - s.rd feHringPtrTail 0) % 2 ^ 32 < s.ringSize;
      (s.issues = false ∨ s.on feHringCtlEnable 0 = false ∨ s.on feHringCtlDetached 0 = true ∨ s.hostReady = false ∨
        s.hostGrants = false ∨ s.fe.copying.isSome = true ∨ s.nextRecord = none ∨ ¬room → exec .hostRingCopy s = .next s) ∧
      (∀ c, s.issues = true → s.on feHringCtlEnable 0 = true → s.on feHringCtlDetached 0 = false → s.hostGrants = true →
        s.fe.copying = none → room → s.nextRecord = some c → Answers .hostRingCopy s fun t =>
          let a := 256 * s.rd feHringBaseAddr 0 + 256 * (s.rd feHringPtrHead 0 % s.ringSize)
          mreadN t.mem.host a 256 = natLe 256 c.word ∧ (∀ k, k < a ∨ a + 256 ≤ k → mread t.mem.host k = mread s.mem.host k) ∧
          t.fe.copying = some c ∧ t.fe.ledger = s.fe.ledger ∧ Unchanged [.one .hostMem, .one .ledger, dmpReqStatReg.grain] s t)) ∧
    (∀ c e, s.powered = true → s.power.seq = none → s.fe.copying = some c → Answers (.hostRingReadback e) s fun t => t.fe.copying = none ∧
      (e = true → t.rd feHringCtlDetached 0 = 1 ∧ t.fe.ledger = s.fe.ledger ∧
        (∃ v ∈ tget [] t.sit.events 0, v.code = .s 258) ∧
        Unchanged [.one .ledger, .one .events, .one .vectors, feHringCtlReg.grain] s t) ∧
      (e = false → t.rd feHringPtrHead 0 = (s.rd feHringPtrHead 0 + 1) % 2 ^ 32 ∧
        (let kept := s.fe.ledger.filter (fun d => d.lseq != c.lseq)
          let free := 65536 - (s.fe.firings.length + kept.length)
          t.fe.ledger = kept ++ s.fe.rebuilt.take free ∧ t.fe.rebuilt = s.fe.rebuilt.drop free) ∧
        (s.fe.sinceCursor + 1 < 4096 → t.fe.sinceCursor = s.fe.sinceCursor + 1 ∧ t.fe.log = s.fe.log) ∧
        (4096 ≤ s.fe.sinceCursor + 1 → t.fe.sinceCursor = 0 ∧ ∃ r ∈ t.fe.log, r.kind = 5) ∧
        Unchanged [.one .log, .one .ledger, .one .vectors, feHringPtrReg.grain] s t)) ∧
    (∀ e, s.fe.copying = none ∨ s.powered = false ∨ s.power.seq.isSome = true → exec (.hostRingReadback e) s = .next s) ∧
    (s.serves o 0x0115 → Answers (.ringAttach o) s fun t => s.replied t o (.s 0) [] ∧ t.rd feHringPtrHead 0 = 0 ∧
      t.rd feHringPtrTail 0 = 0 ∧ t.rd feHringCtlDetached 0 = 0 ∧ t.fe.copying = none ∧
      Unchanged (replyGrains ++ [.one .ledger, feHringCtlReg.grain, feHringPtrReg.grain]) s t) ∧
    (s.serves o 0x0120 →
      let named := fun (f : Firing) => ∃ g, s.graph? f.graph = some g ∧ g.ladderSlots ≠ []
      ((∃ f ∈ s.fe.firings, named f) → Replies (.ladderReset o) o (.s 230) [] [] s) ∧
      ((∀ f ∈ s.fe.firings, ¬named f) → Answers (.ladderReset o) s fun t => s.replied t o (.s 0) [] ∧
        t.rd feLadderCtlEpoch 0 = 0 ∧ (∀ k, t.gaugeAt k = .empty) ∧
        (∀ k ∈ s.slotsInUse, t.rd feLadderFmt k = ruleInitFmt (s.regWord feRuleReg k) ∧
          t.rd feLadderScx k = ruleInitScx (s.regWord feRuleReg k) ∧ t.rd feLadderHoldLeft k = 0) ∧
        Unchanged (replyGrains ++ [feLadderReg.grain, feGaugeReg.grain, feLadderCtlReg.grain]) s t)) ∧
    (∀ n base src image, n < 1024 → s.serves o 0x0100 →
      let g := readImage image base
      let codes := s.imageCodes n (s.fe.graphs.filter fun p => p.1 != n) g
      (s.graphBusy n = true → Replies (.graphStore o n base src image) o (.s 255) [] [] s) ∧
      (s.graphBusy n = false → s.sourceReady src = false → exec (.graphStore o n base src image) s = .next s) ∧
      (∀ c, s.graphBusy n = false → s.sourceReady src = true → s.sourceRefusal src = some c →
        Replies (.graphStore o n base src image) o c [] [] s) ∧
      (s.graphBusy n = false → s.sourceReady src = true → s.sourceRefusal src = none →
        (imageBroken image = true → Replies (.graphStore o n base src image) o (.l 1) [] [] s) ∧
        (imageBroken image = false →
          (∀ c, lowest codes = some c → c ≠ 43 → Replies (.graphStore o n base src image) o (.l c) [] [] s) ∧
          (lowest codes = some 43 → Replies (.graphStore o n base src image) o (.l 43)
            [((g.badParams (s.fe.graphs.filter fun p => p.1 != n)).min?).getD 0] [] s) ∧
          (lowest codes = none → Answers (.graphStore o n base src image) s fun t => s.replied t o (.s 0) [] ∧
            t.graph? n = some g ∧ (∀ k, k ≠ n → t.graph? k = s.graph? k) ∧
            (∀ k f, f ∈ feLadderReg.fields ++ feGaugeReg.fields ++ feRuleReg.fields →
              (∃ p ∈ s.fe.graphs, p.1 ≠ n ∧ k ∈ p.2.ladderSlots) ∨ k ∈ s.sameRules n g → t.rd f k = s.rd f k) ∧
            (g.bucketList n = [] → s.writeBlocked g.base (image.take (imgImageBytes g.header)).length = none → mreadN t.mem.stack g.base (image.take (imgImageBytes g.header)).length =
              image.take (imgImageBytes g.header)) ∧
            Unchanged (replyGrains ++ [.one .fresh, .one .stack, .one .lines, .one .graphs, .one .copies, .one .dampers,
              .one .buckets, .one .watermarks, .one .pieces, feGaugeReg.grain, feLadderReg.grain, feRuleReg.grain,
              feSqCfgReg.grain, grxGatherReg.grain, grxInstReg.grain, stkUeAddrReg.grain, stkUeReg.grain]) s t)))) ∧
    (∀ n, n < 1024 → s.serves o 0x0101 →
      (s.graphBusy n = true → Replies (.graphDrop o n) o (.s 255) [] [] s) ∧
      (s.graphBusy n = false → s.graph? n = none → Replies (.graphDrop o n) o (.s 250) [] [] s) ∧
      (s.graphBusy n = false → s.graph? n ≠ none → Answers (.graphDrop o n) s fun t => s.replied t o (.s 0) [] ∧
        t.graph? n = none ∧ (∀ k, k ≠ n → t.graph? k = s.graph? k) ∧ t.mem = s.mem)) ∧
    (∀ n off data, n < 1024 → s.serves o 0x0112 →
      (s.graph? n = none → Replies (.paramPatch o n off data) o (.s 250) [] [] s) ∧
      (∀ g, s.graph? n = some g →
        (4096 < data.length ∨ g.pblock.length < off + data.length → Replies (.paramPatch o n off data) o (.s 256) [] [] s) ∧
        (data.length ≤ 4096 → off + data.length ≤ g.pblock.length → Answers (.paramPatch o n off data) s fun t =>
          s.replied t o (.s 0) [] ∧ (∃ h, t.graph? n = some { g with pblock := h } ∧ h.length = g.pblock.length ∧
            ∀ i, h[i]? = if off ≤ i ∧ i < off + data.length then data[i - off]? else g.pblock[i]?) ∧
          (∀ k, k ≠ n → t.graph? k = s.graph? k) ∧ Unchanged (replyGrains ++ [.one .graphs]) s t))) ∧
    (∀ n q, n < 1024 → q < 64 → s.serves o 0x0113 →
      (s.graphBusy n = true → Replies (.taskBind o n q) o (.s 255) [] [] s) ∧
      (s.graphBusy n = false → s.graph? n = none → Replies (.taskBind o n q) o (.s 250) [] [] s) ∧
      (∀ g, s.graphBusy n = false → s.graph? n = some g →
        (imgPersistent g.header = 0 ∨ s.on feSqCfgPtask q = true → Replies (.taskBind o n q) o (.s 254) [] [] s) ∧
        (imgPersistent g.header ≠ 0 → s.on feSqCfgPtask q = false →
          (s.taskHolds n g.claim = true → Replies (.taskBind o n q) o (.l 10) [] [] s) ∧
          (s.taskHolds n g.claim = false →
            (∃ f ∈ s.fe.firings, f.claimHeld = true ∧ s.opsOver f = false ∧ claimsMeet g.claim (s.claimOf f) = true) →
            exec (.taskBind o n q) s = .next s) ∧
          (s.taskHolds n g.claim = false →
            (∀ f ∈ s.fe.firings, f.claimHeld = true → s.opsOver f = false → claimsMeet g.claim (s.claimOf f) = false) →
            Answers (.taskBind o n q) s fun t => s.replied t o (.s 0) [] ∧
            t.rd feSqCfgPtask q = 1 ∧ t.rd feSqCfgPtaskGraph q = n ∧
            (∀ f ∈ [feSqCfgSlice, feSqCfgEnable, feSqCfgHead], ∀ k, t.rd f k = s.rd f k) ∧
            (∀ f ∈ feSqCfgReg.fields, ∀ k, k ≠ q → t.rd f k = s.rd f k) ∧
            Unchanged (replyGrains ++ [feSqCfgReg.grain]) s t)))) ∧
    (∀ q, q < 64 → s.serves o 0x0114 →
      (s.on feSqCfgPtask q = false → Replies (.taskUnbind o q) o (.s 254) [] [] s) ∧
      (s.on feSqCfgPtask q = true → s.graphBusy (s.rd feSqCfgPtaskGraph q) = true →
        Replies (.taskUnbind o q) o (.s 255) [] [] s) ∧
      (s.on feSqCfgPtask q = true → s.graphBusy (s.rd feSqCfgPtaskGraph q) = false → Answers (.taskUnbind o q) s fun t =>
        s.replied t o (.s 0) [] ∧ t.rd feSqCfgPtask q = 0 ∧ t.rd feSqCfgPtaskGraph q = 0 ∧
        (∀ f ∈ feSqCfgReg.fields, ∀ k, k ≠ q → t.rd f k = s.rd f k) ∧ Unchanged (replyGrains ++ [feSqCfgReg.grain]) s t))
/-! ### The wheel and the dampers (spec/10) -/

/-- Turns, angles, sources and marks. A turn that starts takes T0 + L, the next number and a pending length whose turn it is;
power steps take effect at their events, in the order of these. The root takes the first edge as angle 0 of turn 0; an edge more than 32 tk off, or a lost
reference, loses its copy. The root sends its mark to every trained child; a follower measures a mark of its parent, forwards it
with the delay of its link, takes the turn length it carries, is UNSYNC beyond 10 ns and steps, beyond 1 ms, at the next
angle 0 with no firing in flight, to the turn that the mark says, every registered timeout and hint moving with the count. wheel.turn and power.step are refused as the rules say, and otherwise pend
(R271-R273, R275-R281, R431).
What the manual leaves open is settled as log 12, 72, 73 and 129 say. -/
def Obligations.WheelTime : Prop :=
  ∀ (s : State), s.powered = true → s.wheel.running = true →
    let up := fun (x : Nat) => if s.now < x then x % 2 ^ 64 else s.now
    let n := (s.rd whlPosTurnNo 0 + 1) % 2 ^ 48
    let due := fun (x : Nat) (p : Nat × Nat × Nat) =>
      decide (p.2.1 < s.rd whlPosTurnNo 0) || p.2.1 == s.rd whlPosTurnNo 0 && decide (s.angleCount p.2.2 ≤ x)
    let before := fun (p q : Nat × Nat × Nat) => p.2.1 < q.2.1 ∨ p.2.1 = q.2.1 ∧ p.2.2 < q.2.2
    let stepped := fun (x : Nat) (t : State) =>
      t.wheel.steps = s.wheel.steps.filter (fun p => !due x p) ∧ t.rd whlStatusStepsPending 0 = t.wheel.steps.length % 2 ^ 5 ∧
      (s.wheel.steps.filter (due x) = [] → t.rd modClkStepCapStep 0 = s.rd modClkStepCapStep 0) ∧
      (∀ a p b, s.wheel.steps.filter (due x) = a ++ p :: b → (∀ q ∈ a, ¬before p q) → (∀ q ∈ b, before q p) →
        t.rd modClkStepCapStep 0 = p.1 % 8)
    (Answers .turnStart s fun t => t.now = up (s.rd whlTurnStartT0 0 + s.rd whlTurnLenLen 0) ∧ stepped t.now t ∧
      t.rd whlTurnStartT0 0 = (s.rd whlTurnStartT0 0 + s.rd whlTurnLenLen 0) % 2 ^ 64 ∧ t.rd whlPosTurnNo 0 = n ∧
      (∀ l, s.wheel.pendLen = some (l, n) → t.rd whlTurnLenLen 0 = l % 2 ^ 41 ∧ t.wheel.pendLen = none) ∧
      ((∀ l, s.wheel.pendLen ≠ some (l, n)) → t.rd whlTurnLenLen 0 = s.rd whlTurnLenLen 0 ∧
        t.wheel.pendLen = s.wheel.pendLen) ∧
      (s.inService = true → s.rd modRestCfgTurns 0 ≠ 0 → n % s.rd modRestCfgTurns 0 = 0 → t.svc.resting = true)) ∧
    (∀ a, a < 65536 → Answers (.angleEvent a) s fun t =>
      stepped (up (s.angleCount a)) t ∧
      (s.windowed = [] → s.fab.inbox = [] → t.now = up (s.angleCount a) ∧
        Unchanged [.one .wheel, whlCountReg.grain, whlStatusReg.grain, modClkStepReg.grain] s t)) ∧
    (∀ c x, c < 2 →
      let lost := 2 * c + 1
      (s.isRoot = true → s.wheel.firstMark = false → s.wheel.source = c → Answers (.turnEdge c x) s fun t =>
        t.rd whlTurnStartT0 0 = x % 2 ^ 64 ∧ t.rd whlPosTurnNo 0 = 0 ∧ t.wheel.firstMark = true ∧ t.now = up x) ∧
      (s.wheel.firstMark = true → x ≤ s.rd whlTurnStartT0 0 + 32 → s.rd whlTurnStartT0 0 ≤ x + 32 →
        exec (.turnEdge c x) s = .next (s.advanceTo x)) ∧
      (s.wheel.firstMark = true → (x + 32 < s.rd whlTurnStartT0 0 ∨ s.rd whlTurnStartT0 0 + 32 < x) →
        (x + 32 < s.rd whlTurnStartT0 0 + s.rd whlTurnLenLen 0 ∨ s.rd whlTurnStartT0 0 + s.rd whlTurnLenLen 0 + 32 < x) →
        Answers (.turnEdge c x) s fun t => has t.wheel.lost lost = true)) ∧
    (∀ c b, c < 2 → Answers (.wheelRefLoss c b) s fun t => has t.wheel.lost (2 * c + b2n b) = true ∧ t.wheel.copyOk c = false ∧
      (∀ k, k ≠ c → t.wheel.copyOk k = s.wheel.copyOk k) ∧
      (t.wheel.source = 2 → s.isRoot = true ∨ s.wheel.firstMark = false ∨ 16 ≤ s.wheel.missed → t.rd whlStatusUnsync 0 = 1) ∧ Unchanged [.one .wheel, whlStatusReg.grain] s t) ∧
    (s.isRoot = true → 65536 * ceilDiv s.now 65536 < 2 ^ 64 → Answers .wheelMarkSend s fun t =>
      t.now = 65536 * ceilDiv s.now 65536 ∧ t.wheel.marks = s.wheel.marks ++ s.childPorts.map (fun d =>
        (d, ⟨t.now, s.rd whlPosTurnNo 0, s.rd whlTurnStartT0 0, s.rd whlTurnLenLen 0, s.wheel.pendLen⟩)) ∧
      Unchanged [.one .wheel, whlCountReg.grain] s t) ∧
    (s.isRoot = false → exec .wheelMarkSend s = .next s) ∧
    (∀ (p : Nat) (m : Mark), p < 14 → s.isRoot = false →
      let ps := s.rd fabPortStatusDelayPs p
      let e : Int := ((m.count : Int) - (s.now : Int)) * 1000 + (ps : Int)
      let fwd := { m with count := m.count + ps / 1000 }
      let turn := s.rd whlPosTurnNo 0
      let len := s.rd whlTurnLenLen 0
      (s.linkRuns p = true → s.rd whlStatusParent 0 = p → Answers (.wheelMark p m) s fun t =>
        (e.natAbs < 2 ^ 31 → t.rd whlErrLastPs 0 = unsigned 32 e) ∧ t.wheel.missed = 0 ∧
        (s.wheel.firstMark = false → t.wheel.pendLen = m.pend ∧ t.rd whlTurnLenLen 0 = len) ∧
        (s.wheel.firstMark = true →
          (m.turnNo = turn → t.wheel.pendLen = m.pend ∧ t.rd whlTurnLenLen 0 = m.len % 2 ^ 41) ∧
          (turn < m.turnNo → t.rd whlTurnLenLen 0 = len ∧
            t.wheel.pendLen = if m.len = len then m.pend else some (m.len, m.turnNo)) ∧
          (∀ l n, m.turnNo < turn → m.pend = some (l, n) → n ≤ turn →
            t.rd whlTurnLenLen 0 = l % 2 ^ 41 ∧ t.wheel.pendLen = none) ∧
          (m.turnNo < turn → (∀ l n, m.pend = some (l, n) → turn < n) →
            t.rd whlTurnLenLen 0 = len ∧ t.wheel.pendLen = m.pend)) ∧
        t.wheel.step = (if s.wheel.firstMark = true ∧ e.natAbs ≤ 1000000000 then none else some (s.now, fwd)) ∧
        (s.wheel.firstMark = true → 10000 < e.natAbs → t.rd whlStatusUnsync 0 = 1) ∧
        t.wheel.marks = s.wheel.marks ++ ((s.childPorts.filter fun d => some d != some p).map fun d => (d, fwd)) ∧
        Unchanged [.one .fresh, .one .wheel, whlErrReg.grain, whlStatusReg.grain, whlTurnLenReg.grain] s t) ∧
      (s.linkRuns p = false ∨ (s.rd whlStatusParent 0 ≠ p ∧ s.wheel.missed < 16) → exec (.wheelMark p m) s = .next s)) ∧
    (s.isRoot = false → Answers .wheelMarkLoss s fun t => t.wheel.missed = 16 ∧
      (s.wheel.source = 2 → t.rd whlStatusUnsync 0 = 1) ∧ Unchanged [.one .wheel, whlStatusReg.grain] s t) ∧
    ((s.wheel.step = none ∨ s.now ≠ s.rd whlTurnStartT0 0 ∨ ∃ f ∈ s.fe.firings, f.launched = true) →
      exec .wheelStep s = .next s) ∧
    (∀ k m, s.wheel.step = some (k, m) → s.now = s.rd whlTurnStartT0 0 → (∀ f ∈ s.fe.firings, f.launched = false) →
      Answers .wheelStep s fun t =>
        let x := m.count + (s.now - k)
        t.now = x % 2 ^ 64 ∧ t.rd whlStatusStepSeen 0 = 1 ∧ t.wheel.step = none ∧
        (let turnAt := fun (t0 turn len : Nat) (pend : Option (Nat × Nat)) =>
            t.rd whlTurnLenLen 0 = len % 2 ^ 41 ∧ t.rd whlTurnStartT0 0 = (t0 + (x - t0) / len * len) % 2 ^ 64 ∧
            t.rd whlPosTurnNo 0 = (turn + (x - t0) / len) % 2 ^ 48 ∧ t.wheel.pendLen = pend
          let change := fun (n : Nat) => m.t0 + (n - m.turnNo) * m.len
          (∀ l n, m.pend = some (l, n) → change n ≤ x → turnAt (change n) n l none) ∧
          ((∀ l n, m.pend = some (l, n) → x < change n) → turnAt m.t0 m.turnNo m.len m.pend)) ∧
        (∀ d, (t.damper d).hints = (s.damper d).hints.map fun h => (h.1, h.2.1 + x - s.now, h.2.2)) ∧
        t.flue.waits = s.flue.waits.map (fun w => { w with tick := w.tick + x - s.now }) ∧
        Unchanged [.one .waits, .one .wheel, .one .dampers, .one .repair, whlCountReg.grain, whlPosReg.grain, whlStatusReg.grain,
          whlTurnLenReg.grain, whlTurnStartReg.grain] s t) ∧
    (∀ o len turn, s.serves o 0x0140 →
      let bad := turn < s.rd whlPosTurnNo 0 + 2 ∨ len < 65536 ∨ 2 ^ 40 < len ∨ (s.source < 2 ∧ len % 8 ≠ 0) ∨
        (∃ f ∈ s.fe.firings, ∃ g, s.graph? f.graph = some g ∧ g.slots ≠ []) ∨
        (∃ g ∈ s.fe.graphs, ∃ w ∈ g.2.slots, windowTicks w len < 64)
      (bad → Replies (.wheelTurn o len turn) o (.s 260) [] [] s) ∧
      (¬bad → Answers (.wheelTurn o len turn) s fun t => s.replied t o (.s 0) [] ∧ t.wheel.pendLen = some (len, turn) ∧
        Unchanged (replyGrains ++ [.one .wheel]) s t)) ∧
    (∀ o cap turn a, s.serves o 0x0141 →
      (turn ≤ s.rd whlPosTurnNo 0 ∨ 16 ≤ s.wheel.steps.length → Replies (.powerStep o cap turn a) o (.s 261) [] [] s) ∧
      (s.rd whlPosTurnNo 0 < turn → s.wheel.steps.length < 16 → Answers (.powerStep o cap turn a) s fun t =>
        s.replied t o (.s 0) [] ∧ t.wheel.steps = s.wheel.steps ++ [(cap, turn, a % 65536)] ∧
        t.rd whlStatusStepsPending 0 = s.wheel.steps.length + 1 ∧
        Unchanged (replyGrains ++ [.one .wheel, whlStatusReg.grain]) s t))
/-- Dampers. A free damper goes to the waiting transfer of its open window, else, while none of that window's transfers waits and
no stopped unit is under way, to the eligible loose transfer with the lowest stamp, equal stamps to the lower requester, and
counts the grant; a held or masked one grants nothing. A transfer that arrives waits with its stamp, a blocked loose one hinted;
scheduled in the open window it takes the resource from a loose holder at the unit's end, which waits again first among its
own with its stamp, but never from a scheduled one, an ACCUM or a last unit. A window opens within its counts alone and closes at
its count; a scheduled transfer still running finishes its unit, the rest goes on as loose with the stamp of the opening. A loose
grant beyond HOLD_LIMIT is cut off at the unit's end and its requester held until released (R272, R282, R286-R294).
What the manual leaves open is settled as log 12, 74 and 127 say. -/
def Obligations.Dampers : Prop :=
  ∀ (s : State) (d : Nat), s.powered = true → d < 272 → s.fab.inbox = [] →
    let x := s.damper d
    let best := fun (l : List Waiting) (q : Waiting) => q ∈ l ∧
      ∀ r ∈ l, q.stamp < r.stamp ∨ q.stamp = r.stamp ∧ q.t.req ≤ r.t.req
    let sched := fun (w : Option Nat) => x.waiting.filter fun q =>
      q.sched && w.any (fun w => inWindow w q.t) && !has x.held q.t.req && s.canGo d q
    let loose := (firstOfEach x.waiting []).filter (s.eligible d)
    let next := if sched x.window ≠ [] then sched x.window else if x.windowBusy = true ∨ s.now < x.freeAt then [] else loose
    let keep := fun (gs : List Grain) (t : State) => Unchanged (.one .dampers :: gs) s t ∧ ∀ k, k ≠ d → t.damper k = s.damper k
    let up := fun (n : Nat) => if s.now < n then n % 2 ^ 64 else s.now
    -- no window of the damper opens or closes at a count
    let quiet := fun (c : Nat) => s.wheel.running = false ∨ (∀ w, x.window = some w → c < x.closes) ∧
      (x.window = none → ∀ w ∈ s.windows d, c < s.openCount w ∨ s.closeCount w ≤ c)
    let runs := fun (c : Nat) => ∀ h g, x.holder = some (h, g) → c < g + h.t.ticks
    -- a loose holder with units left, and the count at which its unit ends
    let stops := fun (c : Nat) (h : Waiting) (g : Nat) => h.sched = false ∧ h.t.accum = false ∧ (boundary h.t g c).1 < h.t.units
    let served := fun (c free : Nat) (rest : List Waiting) (q : Waiting) (t : State) =>
      let start := max c free
      (t.damper d).waiting = rest ∧ (t.damper d).holder = if c < start + q.t.ticks then
        some ({ q with granted := true, counted := q.late start || q.granted && q.counted }, start) else none
    -- grants
    (∀ h g, x.holder = some (h, g) → g + h.t.ticks ≤ s.now →
      exec (.damperGrant d) s = exec (.damperGrant d) ((s.setDamper d { x with holder := none }).depart d h)) ∧
    (quiet s.now → x.holder = none → s.damperHeld d = true ∨ next = [] → Answers (.damperGrant d) s fun t =>
      (t.damper d).holder = none ∧ (t.damper d).waiting = x.waiting ∧ keep [] t) ∧
    (quiet s.now → x.holder.isSome = true → runs s.now → Answers (.damperGrant d) s fun t =>
      (t.damper d).holder = x.holder ∧ (t.damper d).waiting = x.waiting ∧ keep [] t) ∧
    (quiet s.now → x.holder = none → s.damperHeld d = false → next ≠ [] → Answers (.damperGrant d) s fun t => ∃ q, best next q ∧
      (q.pkt = none → served s.now x.freeAt (x.waiting.erase q) q t ∧
        (let c := (s.reqSlot d q.t.req).1
         let u := (s.reqSlot d q.t.req).2
         t.rd dmpReqStatGrants c = min (2 ^ 32 - 1) (u.rd dmpReqStatGrants c + 1) ∧
         t.rd dmpReqStatWaits c = (if q.late (max s.now x.freeAt) then min (2 ^ 32 - 1) (u.rd dmpReqStatWaits c + 1)
           else u.rd dmpReqStatWaits c) ∧
         t.rd dmpReqStatLongest c =
           max (u.rd dmpReqStatLongest c) (min (max s.now x.freeAt - q.since) (2 ^ 32 - 1)) % 2 ^ 32) ∧
        keep [dmpReqStatReg.grain] t) ∧
      (256 ≤ d → q.pkt.isSome = true → s.now < max s.now x.freeAt + q.t.ticks → (t.damper d).waiting = x.waiting.erase q ∧
        ∃ r, (t.damper d).holder = some (r, max s.now x.freeAt) ∧ r.t = q.t ∧ r.numbered = true ∧ r.pkt.isSome = true)) ∧
    -- arrivals
    (∀ r, requesterOk r.req = true → transferOk d r = true → isEngineObs r.req = false → quiet s.now → runs s.now →
      sched x.window = [] →
      let q : Waiting := ⟨r, s.now, s.now, (s.windows d).any fun w => inWindow w r, false, false, none, true⟩
      ((∀ w, x.window = some w → inWindow w r = false ∨ has x.held r.req = true) → Answers (.damperTransferArrival d r) s fun t =>
        (t.damper d).waiting = x.waiting ++ [q] ∧ (t.damper d).holder = x.holder ∧
        (∀ w, x.window = none → s.blockedBy d r = some w → ∃ h ∈ (t.damper d).hints, h.1 = r.req ∧ h.2.2 = w) ∧ keep [] t) ∧
      (∀ w, x.window = some w → w ∈ s.windows d → inWindow w r = true → has x.held r.req = false → s.damperHeld d = false →
        (x.holder = none → Answers (.damperTransferArrival d r) s fun t =>
          served s.now x.freeAt x.waiting q t ∧ keep [dmpReqStatReg.grain] t) ∧
        (∀ h g, x.holder = some (h, g) → h.pkt = none →
          (stops s.now h g → Answers (.damperTransferArrival d r) s fun t =>
            served s.now (boundary h.t g s.now).2 ({ h with since := s.now, counted := false } :: x.waiting) q t ∧
            keep [dmpReqStatReg.grain] t) ∧
          (¬stops s.now h g → Answers (.damperTransferArrival d r) s fun t =>
            (t.damper d).holder = some (h, g) ∧ (t.damper d).waiting = x.waiting ++ [q] ∧ keep [] t)))) ∧
    -- windows
    (∀ i w, s.wheel.running = true → (s.windows d)[i]? = some w →
      let c := up (s.openCount w)
      (quiet c → runs c → Answers (.windowOpen d i) s fun t => t.now = c ∧ t.damper d = x ∧ keep [whlCountReg.grain] t) ∧
      (x.window = none → runs c → (s.windows d).find? (fun v => decide (s.openCount v ≤ c) && decide (c < s.closeCount v)) = some w →
        s.damperHeld d = false → (∀ q ∈ sched (some w), q.pkt = none) → (∀ h g, x.holder = some (h, g) → h.pkt = none) →
        Answers (.windowOpen d i) s fun t =>
        t.now = c ∧ (t.damper d).window = some w ∧ (t.damper d).opened = s.openCount w ∧ (t.damper d).closes = s.closeCount w ∧
        (sched (some w) = [] → (t.damper d).holder = x.holder ∧ (t.damper d).waiting = x.waiting ∧ keep [whlCountReg.grain] t) ∧
        (sched (some w) ≠ [] → x.holder = none → ∃ q, best (sched (some w)) q ∧
          served c x.freeAt (x.waiting.erase q) q t ∧ keep [dmpReqStatReg.grain, whlCountReg.grain] t) ∧
        (∀ h g, sched (some w) ≠ [] → x.holder = some (h, g) →
          (stops c h g → ∃ q, best (sched (some w)) q ∧
            served c (boundary h.t g c).2 ({ h with since := c, counted := false } :: x.waiting.erase q) q t ∧
            keep [dmpReqStatReg.grain, whlCountReg.grain] t) ∧
          (¬stops c h g → (t.damper d).holder = some (h, g) ∧ (t.damper d).waiting = x.waiting ∧ keep [whlCountReg.grain] t))) ∧
      (x.window ≠ some w → exec (.windowClose d i) s = .next s) ∧
      (x.window = some w → runs (up x.closes) →
        (∀ v ∈ s.windows d, up x.closes < s.openCount v ∨ s.closeCount v ≤ up x.closes) → x.closes < 2 ^ 64 →
        Answers (.windowClose d i) s fun t =>
        t.now = up x.closes ∧ (t.damper d).window = none ∧ keep [dmpStatusReg.grain, whlCountReg.grain] t ∧
        (∀ h g, x.holder = some (h, g) → h.sched = true → inWindow w h.t = true → h.pkt = none →
          t.rd dmpStatusLateSeen d = 1 ∧
          (let b := boundary h.t g x.closes
           (h.t.units ≤ b.1 → (t.damper d).holder = some (h, g) ∧ (t.damper d).waiting = x.waiting) ∧
           (b.1 < h.t.units → (t.damper d).holder = none ∧ (t.damper d).freeAt = b.2 ∧ (t.damper d).waiting =
             { h with t := { h.t with units := h.t.units - b.1, ticks := h.t.ticks - h.t.ticks * b.1 / h.t.units },
                      stamp := x.opened, since := x.closes, sched := false } :: x.waiting))) ∧
        ((∀ h g, x.holder = some (h, g) → h.sched = false ∨ inWindow w h.t = false) →
          (t.damper d).waiting = x.waiting ∧ (t.damper d).holder = x.holder ∧
          t.rd dmpStatusLateSeen d = s.rd dmpStatusLateSeen d))) ∧
    -- cut-offs
    (let limit := max 100 (s.rd dmpCfgHoldLimit d)
     (x.holder = none → exec (.cutOff d) s = .next s) ∧
     ∀ h g, x.holder = some (h, g) →
      (h.t.ticks ≤ limit ∨ (h.sched = true ∧ ∃ w, x.window = some w ∧ inWindow w h.t = true) → exec (.cutOff d) s = .next s) ∧
      (limit < h.t.ticks → (h.sched = false ∨ ∀ w, x.window = some w → inWindow w h.t = false) →
        quiet (up (g + limit)) → up (g + limit) < g + h.t.ticks → h.pkt = none → Answers (.cutOff d) s fun t =>
        let c := up (g + limit)
        let b := boundary h.t g c
        t.now = c ∧ (t.damper d).holder = none ∧ has (t.damper d).held h.t.req = true ∧ (t.damper d).freeAt = b.2 ∧
        t.rd dmpStatusCutSeen d = 1 ∧ t.rd dmpCutLastReq d = h.t.req % 2 ^ 16 ∧
        (t.damper d).waiting = (if h.t.accum then { h with
            t := { h.t with units := h.t.units - b.1, ticks := h.t.ticks - h.t.ticks * b.1 / h.t.units }, since := c }
          else { h with since := c, counted := false }) :: x.waiting ∧
        t.rd dmpCutHeld d = (t.damper d).held.length % 2 ^ 7 ∧ (∃ e ∈ tget [] t.sit.events 0, e.code = .s 270) ∧
        keep [whlCountReg.grain, dmpReqStatReg.grain, dmpStatusReg.grain, dmpCutReg.grain, .one .events, .one .vectors] t)) ∧
    -- releases
    (∀ r, let held := if r % 65536 = 0xFFFF then [] else x.held.filter (· != r % 65536)
      (Answers (.dmpRelease d r) s fun t => t.damper d = { x with held := held } ∧
        t.rd dmpCutHeld d = held.length % 2 ^ 7 ∧ keep [dmpCutReg.grain, dmpReqStatReg.grain] t) ∧
      ∀ o, s.serves o 0x0142 → Answers (.damperRelease o d r) s fun t => s.replied t o (.s 0) [] ∧
        t.damper d = { x with held := held } ∧ t.rd dmpCutHeld d = held.length % 2 ^ 7 ∧
        keep (replyGrains ++ [dmpCutReg.grain, dmpReqStatReg.grain]) t)
/-! ### The fabric (spec/11) -/

/-- The link layer of a port. A flit that does not check is answered with a NAK that names the last good one; a good one frees
what it acknowledges, a NAK has every flit after it sent again, and the next in order brings its part of a packet, drops a
partial one, or completes one, which leaves the link layer or waits whole at the damper of its next hop. A packet leaves when
that damper picks it. A lost lane or spare counts; a link that keeps a width retrains and carries no flits meanwhile, one below
its narrowest width goes down, as a third failed retrain does; a link that goes down is noted and flooded and its packets
repaired. Training, identity and quarantine as Table 11.5; notices are kept and forwarded once; fabric.port trains a port no
claim names (R282, R296-R304, R310, R312).
What the manual leaves open is settled as log 27, 28, 30, 46, 50, 51, 52, 125, 126 and 128 say. -/
def Obligations.LinkLayer : Prop :=
  ∀ (s : State) (p : Nat), p < 14 →
    let x := s.port p
    let y := s.damper (256 + p)
    let others := fun (t : State) => ∀ k, k ≠ p → t.portSt k = s.portSt k
    let gs := [Grain.one .ports, .one .sent, fabPortCntReg.grain]
    let moves := [Grain.one .dampers, .one .ports, .one .flows, .one .sent, .one .inbox, dmpReqStatReg.grain, dmpStatusReg.grain,
      fabHoldReg.grain, fabPortCntReg.grain]
    let lanes := [Grain.one .ports, .one .events, .one .vectors, .one .persistent, .one .repair, fabPortCntReg.grain,
      fabPortStatusReg.grain, modSparesReg.grain, prsCopySelReg.grain, prsStatusReg.grain]
    let fails := moves ++ [Grain.one .topology, fabPortStatusReg.grain, fabStatusReg.grain]
    let trains := [Grain.one .topology, .one .sent, .one .ports, fabPortStatusReg.grain]
    let low := min s.self (across s.self p)
    let known := fun (low d : Nat) => ∀ m ∈ s.fab.notices, m.low = low → m.dim = d → m.version = (s.linkVersion low d).1
    let lost := fun (bad : List Nat) => { x with
      failed := (bad.filter (· < lanesAll p)).foldl (fun l k => if has l k then l else l ++ [k]) x.failed }
    -- the packets at the port: of its link, and at its damper
    let here := x.packets.length + (((y.holder.map (·.1)).toList ++ y.waiting).filter fun q => q.pkt.isSome).length
    let wait := fun (h : HeldPkt) (again : Bool) =>
      (⟨packetTransfer s.self h, s.now, s.now, false, again, again, some h, true⟩ : Waiting)
    let downed := fun (failed : List Nat) (t : State) =>
      let v := s.linkVersion low p
      let n : Notice := ⟨low, p, false, if v.2 then (v.1 + 1) % 2 ^ 16 else v.1, s.switchTurn⟩
      t.portSt p = 3 ∧ others t ∧ t.rd fabStatusDownSeen 0 = 1 ∧ t.rd fabPortCntDowns p = min 255 (s.rd fabPortCntDowns p + 1) ∧
      t.port p = { idlePort with failed := failed, fpr := x.fpr, down := true } ∧
      (here ≠ 0 → t.rd fabPortCntRepaired p = min 65535 (s.rd fabPortCntRepaired p + here)) ∧
      (x.down = false → t.fab.floods = s.fab.floods ++ (s.treePorts.filter (· != p)).map (fun d => (d, n)) ∧
        (v.2 = true → known low p → n ∈ t.fab.notices)) ∧ (x.down = true → t.fab.floods = s.fab.floods)
    let failed := fun (gs : List Grain) (t : State) => t.portSt p = (if s.neighbour? p then 3 else 0) ∧ others t ∧ Unchanged gs s t ∧
      (s.neighbour? p = true → t.rd fabPortCntDowns p = (if x.down then s.rd fabPortCntDowns p else
        min 255 (s.rd fabPortCntDowns p + 1)) ∧ (x.down = false → t.rd fabStatusDownSeen 0 = 1))
    let left := fun (ack : Nat) => { x with acked := ack, buffer := x.buffer.filter fun b => !seqLe 20 (b.1 + b.2.1 - 1) ack }
    -- flits
    (s.linkRuns p = false → (∀ f, exec (.flitReceive p f) s = .next s) ∧ (∀ a, exec (.linkReplay p a) s = .next s) ∧
      ∀ n, exec (.linkStateNotice p n) s = .next s) ∧
    (s.linkRuns p = true → ∀ f : Flit,
      let good := f.fecOk && f.bytes.length == 256 && crc32c (f.bytes.take 252) == field f.bytes 252 4
      let h := leNat (f.bytes.take 8)
      let vl := bits h 43 1
      let z := left (bits h 20 20)
      let got := if bits h 41 2 = 1 then (f.bytes.drop 8).take 244 else tget [] x.partials vl ++ (f.bytes.drop 8).take 244
      let next := { z with rxSeq := (x.rxSeq + 1) % 2 ^ 20 }
      let only := fun (w : Port) (t : State) => t.port p = w ∧
        t.fab.sent = s.fab.sent ++ (if bit h 40 then z.unacked.map fun b => (p, b) else []) ∧ ∀ k, k ≠ p → t.port k = s.port k
      (good = false → Answers (.flitReceive p f) s fun t =>
        t.fab.sent = s.fab.sent ++ [(p, flitBytes x.txSeq x.ack 0 0 true [])] ∧
        t.port p = { x with txSeq := (x.txSeq + 1) % 2 ^ 20, buffer := x.buffer ++ [(x.txSeq, 1, .idle)] } ∧
        Unchanged [.one .ports, .one .sent] s t) ∧
      (good = true →
        (bits h 0 20 ≠ x.rxSeq → Answers (.flitReceive p f) s fun t => only z t ∧ Unchanged gs s t) ∧
        (bits h 0 20 = x.rxSeq → bits h 41 2 = 0 → Answers (.flitReceive p f) s fun t => only next t ∧ Unchanged gs s t) ∧
        (bits h 0 20 = x.rxSeq → bits h 41 2 = 3 → Answers (.flitReceive p f) s fun t =>
          only { next with partials := tdel x.partials vl } t ∧ Unchanged gs s t) ∧
        (bits h 0 20 = x.rxSeq → bits h 41 2 = 1 ∨ bits h 41 2 = 2 →
          (packetWhole got = false → Answers (.flitReceive p f) s fun t =>
            only { next with partials := tput x.partials vl got } t ∧ Unchanged gs s t) ∧
          (packetWhole got = true →
            let q := { parsePacket got with vl := vl }
            let w := { next with partials := tdel x.partials vl }
            (q.dst = s.self → Answers (.flitReceive p f) s fun t => only w t ∧ Unchanged gs s t) ∧
            (∀ d, q.dst ≠ s.self → q.route[q.hop]? = some d → d < 14 →
              (s.portSt d = 3 → Answers (.flitReceive p f) s fun t =>
                t.rd fabPortCntRepaired d = min 65535 (s.rd fabPortCntRepaired d + 1) ∧ Unchanged moves s t) ∧
              (s.portSt d ≠ 3 → s.windows (256 + d) = [] → (s.damper (256 + d)).window = none →
                (∀ h g, (s.damper (256 + d)).holder = some (h, g) → s.now < g + h.t.ticks) → Answers (.flitReceive p f) s fun t =>
                only w t ∧ t.damper (256 + d) = { s.damper (256 + d) with
                  waiting := (s.damper (256 + d)).waiting ++ [wait (bare q).leave false] } ∧
                (∀ k, k ≠ 256 + d → t.damper k = s.damper k) ∧ Unchanged (.one .dampers :: gs) s t)))))) ∧
    (s.linkRuns p = true → ∀ a, Answers (.linkReplay p a) s fun t => t.port p = left a ∧
      t.fab.sent = s.fab.sent ++ (left a).unacked.map (fun b => (p, b)) ∧
      ((left a).unacked ≠ [] → t.rd fabPortCntReplays p = min 65535 (s.rd fabPortCntReplays p + 1)) ∧ Unchanged gs s t) ∧
    -- packets that leave
    (s.powered = false → exec (.packetForward p) s = .next s) ∧
    (s.powered = true → s.windows (256 + p) = [] → y.window = none → y.holder = none → y.freeAt ≤ s.now →
      let next := (firstOfEach y.waiting []).filter (s.eligible (256 + p))
      (next = [] → Answers (.packetForward p) s fun t => (t.damper (256 + p)).waiting = y.waiting ∧
        (t.damper (256 + p)).holder = none ∧ Unchanged [.one .dampers] s t) ∧
      (next ≠ [] → ∃ q ∈ next, (∀ r ∈ next, q.stamp < r.stamp ∨ q.stamp = r.stamp ∧ q.t.req ≤ r.t.req) ∧
        ∀ h, q.pkt = some h → q.numbered = true → q.t.ticks = 0 → Answers (.packetForward p) s fun t =>
          t.fab.sent = s.fab.sent ++ (List.range (flitsOf h.p)).map (fun i => (p, (Sent.packet h).flit x.txSeq x.ack i)) ∧
          t.port p = { x with txSeq := (x.txSeq + flitsOf h.p) % 2 ^ 20,
                              buffer := x.buffer ++ [(x.txSeq, flitsOf h.p, .packet h)] } ∧
          (∀ k, k ≠ p → t.port k = s.port k) ∧ (t.damper (256 + p)).waiting = y.waiting.erase q ∧
          (t.damper (256 + p)).holder = none ∧ Unchanged [.one .dampers, .one .ports, .one .sent, dmpReqStatReg.grain] s t)) ∧
    -- lanes, retraining, links down
    (∀ l, l < lanesAll p → s.powered = false ∨ has x.failed l = true → exec (.laneFail p l) s = .next s) ∧
    (∀ l, l < lanesAll p → s.powered = true → has x.failed l = false → Answers (.laneFail p l) s fun t =>
      let w := { x with failed := x.failed ++ [l] }
      t.rd fabPortCntLanesLost p = min 255 (s.rd fabPortCntLanesLost p + 1) ∧
      t.rd fabPortStatusWidth p = ((portWidth p w).getD 0) ∧ t.rd fabPortStatusSparesLeft p = sparesLeft p w ∧
      (s.portSt p ≠ 2 → t.port p = w ∧ t.portSt p = s.portSt p ∧ others t ∧ Unchanged lanes s t) ∧
      (s.portSt p = 2 → portWidth p w ≠ none → t.port p = { w with retraining := true } ∧ t.portSt p = 2 ∧ others t ∧
        Unchanged lanes s t) ∧
      (s.portSt p = 2 → portWidth p w = none → downed w.failed t ∧ Unchanged (lanes ++ fails) s t)) ∧
    (s.portSt p ≠ 2 → (∀ bad ok, exec (.linkRetrain p bad ok) s = .next s) ∧ exec (.linkDown p) s = .next s) ∧
    (s.portSt p = 2 → ∀ bad,
      (portWidth p (lost bad) = none → ∀ ok, Answers (.linkRetrain p bad ok) s fun t => downed (lost bad).failed t ∧
        Unchanged (lanes ++ fails) s t) ∧
      (portWidth p (lost bad) ≠ none →
        (Answers (.linkRetrain p bad true) s fun t => t.port p = { lost bad with stage := 0, retraining := false } ∧
          t.rd fabPortCntRetrains p = min 65535 (s.rd fabPortCntRetrains p + 1) ∧ t.portSt p = 2 ∧
          t.fab.sent = s.fab.sent ++ x.unacked.map (fun b => (p, b)) ∧ Unchanged (.one .sent :: lanes) s t) ∧
        (x.stage < 2 → Answers (.linkRetrain p bad false) s fun t => t.portSt p = 2 ∧
          t.port p = { lost bad with stage := x.stage + 1, retraining := true } ∧
          t.rd fabPortCntRetrains p = min 65535 (s.rd fabPortCntRetrains p + 1) ∧ Unchanged lanes s t) ∧
        (2 ≤ x.stage → Answers (.linkRetrain p bad false) s fun t => downed (lost bad).failed t ∧
          Unchanged (lanes ++ fails) s t))) ∧
    (s.portSt p = 2 → Answers (.linkDown p) s fun t => downed x.failed t ∧ Unchanged fails s t) ∧
    -- training
    (s.portSt p ≠ 1 → (∀ r, exec (.linkTraining p r) s = .next s) ∧ ∀ f, exec (.identityFrame p f) s = .next s) ∧
    (s.portSt p = 1 →
      (∀ n, Answers (.linkTraining p (.failedAt n)) s (failed fails)) ∧
      (∀ bad w ps, portWidth p (lost bad) = some w → Answers (.linkTraining p (.trained bad ps)) s fun t =>
        t.rd fabPortStatusWidth p = w ∧ t.rd fabPortStatusSparesLeft p = sparesLeft p (lost bad) ∧
        t.rd fabPortStatusDelayPs p = ps % 2 ^ 32 ∧ t.portSt p = (if x.identOk then 2 else 1) ∧ others t ∧
        t.port p = { lost bad with trained := true, down := !x.identOk && x.down } ∧ Unchanged (lanes ++ trains) s t) ∧
      (∀ bad ps, portWidth p (lost bad) = none → Answers (.linkTraining p (.trained bad ps)) s (failed (lanes ++ fails))) ∧
      (Answers (.identityFrame p none) s fun t => t.fab.frames = s.fab.frames ++ [(p, s.identity p)] ∧ failed fails t) ∧
      (∀ f : IdFrame,
        (s.fab.plan = [] → Answers (.identityFrame p (some f)) s fun t => t.portSt p = 0 ∧ others t ∧
          t.fab.frames = s.fab.frames ++ [(p, s.identity p)] ∧ Unchanged [.one .sent, fabPortStatusReg.grain] s t) ∧
        (s.fab.plan ≠ [] → s.neighbour? p = false ∨ f.mod ≠ across s.self p ∨ f.port ≠ p ∨ f.planId ≠ s.rd fabPlanPlanId 0 →
          Answers (.identityFrame p (some f)) s fun t => t.portSt p = 4 ∧ others t ∧ t.rd fabStatusQuarSeen 0 = 1 ∧
            (∃ e ∈ tget [] t.sit.events 0, e.code = .s 282) ∧ t.port p = x ∧
            t.fab.frames = s.fab.frames ++ [(p, s.identity p)] ∧
            Unchanged [.one .sent, fabPortStatusReg.grain, fabStatusReg.grain, .one .events, .one .vectors] s t) ∧
        (s.fab.plan ≠ [] → s.neighbour? p = true → f.mod = across s.self p → f.port = p → f.planId = s.rd fabPlanPlanId 0 →
          Answers (.identityFrame p (some f)) s fun t => t.portSt p = (if x.trained then 2 else 1) ∧ others t ∧
            t.fab.frames = s.fab.frames ++ [(p, s.identity p)] ∧ t.rd fabPortStatusNeighbour p = f.mod % 2 ^ 14 ∧
            t.port p = { x with fpr := some f.fpr, identOk := true, down := !x.trained && x.down } ∧
            (∀ k, x.fpr = some k → k ≠ f.fpr → t.rd fabPortStatusNeighChanged p = 1) ∧
            Unchanged trains s t))) ∧
    (s.portSt p ≠ 3 ∨ s.powered = false → exec (.trainingRetry p) s = .next s) ∧
    (let back := x.packets ++ (y.holder.bind fun h => h.1.pkt).toList
     let trained := fun (t : State) => t.portSt p = 1 ∧ others t ∧
       t.port p = { idlePort with failed := x.failed, fpr := x.fpr, down := x.down } ∧ (∀ k, k ≠ p → t.port k = s.port k) ∧
       (t.damper (256 + p)).waiting = back.map (wait · true) ++ y.waiting ∧ ∀ k, k ≠ 256 + p → t.damper k = s.damper k
     (s.portSt p = 3 → s.powered = true → Answers (.trainingRetry p) s fun t => trained t ∧
       Unchanged [.one .dampers, .one .ports, fabPortStatusReg.grain] s t) ∧
     ∀ o, s.serves o 0x0152 →
      (s.portClaimed p = true → Replies (.fabricPort o p) o (.s 283) [] [] s) ∧
      (s.portClaimed p = false → Answers (.fabricPort o p) s fun t => s.replied t o (.s 0) [] ∧ trained t ∧
        Unchanged (replyGrains ++ [.one .dampers, .one .ports, fabPortStatusReg.grain]) s t)) ∧
    -- notices
    (∀ n : Notice, s.linkRuns p = true →
      (seqLe 16 n.version (s.linkVersion n.low n.dim).1 = true → exec (.linkStateNotice p n) s = .next s) ∧
      (seqLe 16 n.version (s.linkVersion n.low n.dim).1 = false → known n.low n.dim → Answers (.linkStateNotice p n) s fun t =>
        n ∈ t.fab.notices ∧ t.fab.floods = s.fab.floods ++ (s.treePorts.filter fun d => some d != some p).map (fun d => (d, n)) ∧
        (∀ m ∈ s.fab.notices, ¬(m.low = n.low ∧ m.dim = n.dim) → m ∈ t.fab.notices) ∧ Unchanged [.one .topology, .one .sent] s t))
/-- Sequenced packets at their destination and their source. One in sequence is taken: its effect happens once, its number is
passed and acknowledged, or it is refused with the REASON of its cause and counted; a write or an accumulate waits, neither taken
nor acknowledged, until the dampers of its channels let it through; earlier numbers are acknowledged and counted, later ones
counted and answered with a NAK, at most one a microsecond; another incarnation is dropped, and without state REFUSE and RESYNC go
back. A keyed increment is applied once, and held back unacknowledged while the record table is full; RETIRE frees entries. At
the source ACK frees held packets, NAK and a silent 50 us send them again, REFUSE and RESYNC take them back and fault firings or
repeat at the next turn, and an unreachable destination holds its firings with F-173 (R211, R223, R224, R248,
R282, R290, R313-R319).
What the manual leaves open is settled as log 27, 29, 31, 43, 58, 125, 126 and 128 say. -/
def Obligations.Packets : Prop :=
  ∀ (s : State) (p : Packet), s.powered = true →
    -- a damper without windows at which nothing waits or holds
    let free := fun (d : Nat) => s.windows d = [] ∧ (s.damper d).window = none ∧ (s.damper d).holder = none ∧
      (s.damper d).waiting = [] ∧ (s.damper d).freeAt ≤ s.now ∧ has (s.damper d).held (0x8000 + p.src) = false
    let busy := fun (d : Nat) => s.windows d = [] ∧ (s.damper d).window = none ∧
      ∃ h g, (s.damper d).holder = some (h, g) ∧ s.now < g + h.t.ticks
    -- where the way back is free, n packets without payload go back, this one last
    let answered := fun (t : State) (n typ seq reason : Nat) => ∀ d, p.route.reverse[0]? = some d → d < 14 → s.linkRuns d = true →
      free (256 + d) → (∀ vl, (s.port d).buffered vl + 256 * n ≤ replayBytes d) → ∃ a m,
        (t.port d).buffer.getLast? = some (m, 1, .packet a) ∧ a.p.typ = typ ∧ a.p.src = p.dst ∧ a.p.dst = p.src ∧
        a.p.seq = seq % 2 ^ 32 ∧ a.p.reason = reason ∧ a.p.route = p.route.reverse ∧
        t.fab.sent.getLast? = some (d, (Sent.packet a).flit m (s.port d).ack 0)
    let moves := [Grain.one .dampers, .one .ports, .one .flows, .one .sent, .one .inbox, dmpReqStatReg.grain, dmpStatusReg.grain,
      fabHoldReg.grain, fabPortCntReg.grain]
    let gs := fabE2eCntReg.grain :: moves
    let four := fun (more : Bool) => [Instr.writePacket p, .accumPacket p, .signalPacket p more, .retirePacket p]
    let old := s.dstSeq? p.src
    let known := fun (inc exp : Nat) (nak : Option Nat) => old = some ⟨exp, inc, nak⟩
    let first := (old = none ∧ p.sync = true) ∨ ∃ inc exp nak, known inc exp nak ∧
      ((inc ≠ p.inc ∧ p.sync = true) ∨ (inc = p.inc ∧ p.seq % 2 ^ 32 = exp % 2 ^ 32))
    let sig := bits (leNat p.data) 0 13
    let reason := fun (typ : Nat) => if s.inService = false then 1 else if p.tag ≠ s.rd fabJobTag 0 then 2
      else if typ < 3 ∧ bits p.addr 27 9 = 511 then 3 else if typ = 3 ∧ s.sigFabric sig = false then 5 else 0
    let passed := fun (t : State) => t.dstSeq? p.src = some ⟨(p.seq + 1) % 2 ^ 32, p.inc, none⟩ ∧
      ∀ m, m ≠ p.src → t.dstSeq? m = s.dstSeq? m
    let k := packetKey p
    -- at the destination
    (∀ more, ∀ c ∈ four more, p.dst ≠ s.self → exec c s = .next s) ∧
    (p.dst = s.self → ∀ more, ∀ c ∈ four more,
      (old = none → p.sync = false → Answers c s fun t => answered t 2 10 p.seq 0 ∧ Unchanged gs s t) ∧
      (∀ inc exp nak, known inc exp nak → inc ≠ p.inc → p.sync = false → exec c s = .next s) ∧
      (∀ inc exp nak, known inc exp nak → inc = p.inc → p.seq % 2 ^ 32 ≠ exp % 2 ^ 32 →
        (seqLe 32 p.seq exp = true → Answers c s fun t => answered t 1 5 (exp + 2 ^ 32 - 1) 0 ∧
          t.rd fabE2eCntDup 0 = min 65535 (s.rd fabE2eCntDup 0 + 1) ∧ Unchanged gs s t) ∧
        (seqLe 32 p.seq exp = false →
          ((∃ a, nak = some a ∧ s.now < a + 1000) → Answers c s fun t =>
            t.rd fabE2eCntAhead 0 = min 65535 (s.rd fabE2eCntAhead 0 + 1) ∧ Unchanged [fabE2eCntReg.grain] s t) ∧
          ((∀ a, nak = some a → a + 1000 ≤ s.now) → Answers c s fun t => answered t 1 6 exp 0 ∧
            t.rd fabE2eCntAhead 0 = min 65535 (s.rd fabE2eCntAhead 0 + 1) ∧
            t.dstSeq? p.src = some ⟨exp, inc, some s.now⟩ ∧ Unchanged gs s t)))) ∧
    (p.dst = s.self → first → ∀ more, ∀ c ∈ [(1, Instr.writePacket p), (2, .accumPacket p), (3, .signalPacket p more), (4, .retirePacket p)],
      reason c.1 ≠ 0 → Answers c.2 s fun t => passed t ∧ answered t 1 7 p.seq (reason c.1) ∧ t.fab.refusals = s.fab.refusals + 1 ∧
        (reason c.1 = 1 → c.1 = 2 ∨ c.1 = 3 → t.rd fluStatusRemoteRefusedSeen 0 = 1) ∧
        Unchanged (fluStatusReg.grain :: moves) s t) ∧
    (p.dst = s.self → first →
      (let cs := (channelLines p.addr p.data.length).map (·.1)
       let lets := fun (typ : Nat) => s.landing { p with typ := typ } = false ∧ ∀ c ∈ cs, free c
       (reason 1 = 0 → lets 1 → Answers (.writePacket p) s fun t => passed t ∧ answered t 1 5 p.seq 0 ∧
         (s.shardAt p.addr p.data.length = none → s.writeBlocked p.addr p.data.length = none →
           t.mem.stack = mwriteN s.mem.stack p.addr p.data)) ∧
       (reason 2 = 0 → lets 2 → Answers (.accumPacket p) s fun t => passed t ∧ answered t 1 5 p.seq 0 ∧
         (s.instAt p.addr p.data.length = none → s.badIn p.addr p.data.length = none →
           t.mem.stack = mwriteN s.mem.stack p.addr (addBytes p.accFmt (mreadN s.mem.stack p.addr p.data.length) p.data))) ∧
       (∀ c ∈ [(1, Instr.writePacket p), (2, .accumPacket p)], reason c.1 = 0 → s.landing { p with typ := c.1 } = false →
         ∀ d r, cs = d :: r → busy d → (∀ e ∈ r, free e ∨ busy e) → Answers c.2 s fun t =>
           (∃ q, (t.damper d).waiting = (s.damper d).waiting ++ [q] ∧ q.pkt = some (bare { p with typ := c.1 }) ∧ q.stamp = s.now) ∧
           (t.damper d).holder = (s.damper d).holder ∧ (∀ k, k ≠ d → t.damper k = s.damper k) ∧ Unchanged [.one .dampers] s t)) ∧
      (reason 4 = 0 → Answers (.retirePacket p) s fun t => passed t ∧ answered t 1 5 p.seq 0 ∧
        t.flue.records = s.flue.records.filter (fun r => !(k.same r)) ∧ Unchanged (.one .records :: moves) s t) ∧
      (reason 3 = 0 → ∀ more,
        (bit (leNat p.data) 24 = true → (∀ e ∈ s.flue.records, k.same e = false) → 16384 ≤ s.flue.records.length →
          Answers (.signalPacket p more) s fun t => t.rd fluStatusRecordFullSeen 0 = 1 ∧ Unchanged [fluStatusReg.grain] s t) ∧
        (∀ e, bit (leNat p.data) 24 = true → s.flue.records.find? (k.same ·) = some e → k.index ≤ e.index →
          Answers (.signalPacket p more) s fun t => passed t ∧ answered t 1 5 p.seq 0 ∧ Unchanged moves s t) ∧
        (let o := tget noneOpen s.flue.opened sig
         let gs := [Grain.one .records, .one .opened, fluSigValueReg.grain, fluRecordUseReg.grain] ++ moves
         (bit (leNat p.data) 24 = false ∨ ((∀ e ∈ s.flue.records, k.same e = false) ∧ s.flue.records.length < 16384)) →
          ((∀ w ∈ s.flue.waits, w.sig ≠ sig) → s.sigVal sig + (o.sum + 1) < 2 ^ 32 → Answers (.signalPacket p false) s fun t =>
            passed t ∧ answered t 1 5 p.seq 0 ∧ t.sigVal sig = s.sigVal sig + (o.sum + 1) ∧
            (∀ m, m ≠ sig → t.sigVal m = s.sigVal m) ∧ (bit (leNat p.data) 24 = true → k ∈ t.flue.records) ∧ Unchanged gs s t) ∧
          (Answers (.signalPacket p true) s fun t => passed t ∧ answered t 1 5 p.seq 0 ∧
            (tget noneOpen t.flue.opened sig).sum = o.sum + 1 ∧ (∀ m, t.sigVal m = s.sigVal m) ∧
            (bit (leNat p.data) 24 = true → k ∈ t.flue.records) ∧ Unchanged gs s t)))) ∧
    -- at the source
    (p.dst = s.self →
      let x := s.srcSeq p.src
      let fault := fun (code q : Nat) (f : Firing) (t : State) => if code ≠ 171 ∧ tget 0 f.counts code < 3
        then ∃ h, t.firing? q = some h ∧ h.st = .faulted ∧ h.claimHeld = false ∧ tget 0 h.counts code = tget 0 f.counts code + 1
        else ∃ h, t.firing? q = some h ∧ h.st = .abandoning ∧ h.code = code ∧ h.claimHeld = false
      (let left := x.held.filter fun h => !seqLe 32 h.p.seq p.seq
       Answers (.ackPacket p) s fun t => (t.srcSeq p.src).held = left ∧ (t.srcSeq p.src).next = x.next ∧
        (left ≠ x.held → (t.srcSeq p.src).since = s.now) ∧ (∀ m, m ≠ p.src → t.srcSeq m = s.srcSeq m) ∧
        (∀ h ∈ x.held, h ∉ left → h.p.typ = 4 → h.action = true → ∀ q, h.fseq = some q →
          ∀ r ∈ t.fe.log, r.kind = 6 → r.fseq = q → r.acked = true) ∧ Unchanged [.one .flows, .one .log] s t) ∧
      (s.route? p.src = none → exec (.nakPacket p) s = .next s) ∧
      (∀ r, s.route? p.src = some r → Answers (.nakPacket p) s fun t =>
        (let n := (x.held.filter fun h => seqLe 32 p.seq h.p.seq).length
         n ≠ 0 → t.rd fabE2eCntResent 0 = min 65535 (s.rd fabE2eCntResent 0 + n)) ∧
        ((t.srcSeq p.src).held.take x.held.length).map (·.p.seq) = x.held.map (·.p.seq) ∧
        (∀ h ∈ (t.srcSeq p.src).held.take x.held.length, seqLe 32 p.seq h.p.seq = true → h.p.route = r ∧ h.p.sched = false) ∧
        Unchanged gs s t) ∧
      (p.reason = 4 ∨ x.held.find? (fun h => h.p.seq == p.seq) = none → Answers (.refusePacket p) s fun t =>
        t.rd fabE2eCntRefused 0 = min 65535 (s.rd fabE2eCntRefused 0 + 1) ∧ Unchanged [fabE2eCntReg.grain] s t) ∧
      (∀ h, p.reason ≠ 4 → x.held.find? (fun h => h.p.seq == p.seq) = some h →
        let gone := fun (t : State) => (t.srcSeq p.src).held = x.held.filter (fun h => h.p.seq != p.seq) ∧
          t.rd fabE2eCntRefused 0 = min 65535 (s.rd fabE2eCntRefused 0 + 1)
        (h.p.typ = 4 ∧ p.reason = 1 ∨ h.p.typ ≠ 4 ∧ h.action = true ∧ p.reason ≠ 5 → Answers (.refusePacket p) s fun t =>
          gone t ∧ t.fab.again = s.fab.again ++ [(p.src, h)] ∧ Unchanged [.one .flows, fabE2eCntReg.grain] s t) ∧
        (h.p.typ = 4 ∧ p.reason ≠ 1 → Answers (.refusePacket p) s fun t => gone t ∧ t.fab.again = s.fab.again ∧
          Unchanged [.one .flows, fabE2eCntReg.grain] s t) ∧
        (h.p.typ ≠ 4 → h.action = true → p.reason = 5 → Answers (.refusePacket p) s fun t => gone t ∧
          (∃ e ∈ tget [] t.sit.events 0, e.code = .s 259) ∧
          Unchanged [.one .flows, .one .events, .one .vectors, fabE2eCntReg.grain] s t) ∧
        (∀ q f, h.p.typ ≠ 4 → h.action = false → h.fseq = some q → s.firing? q = some f → f.launched = true → f.ending = false →
          Answers (.refusePacket p) s fun t => gone t ∧
            fault (if p.reason = 1 then (if h.p.typ = 1 then 172 else 150) else 171) q f t)) ∧
      (Answers (.resyncPacket p) s fun t => t.rd fabStatusResyncSeen 0 = 1 ∧ t.srcSeq p.src = idleSrc ∧
        (∀ m, m ≠ p.src → t.srcSeq m = s.srcSeq m) ∧
        t.fab.again = s.fab.again ++ (x.held.filter fun h => h.action || h.p.typ == 4).map (fun h => (p.src, h)) ∧
        ∀ h ∈ x.held, h.action = false → h.p.typ ≠ 4 → ∀ q f, h.fseq = some q → s.firing? q = some f → f.st = .running →
          f.launched = true → fault 172 q f t)) ∧
    (∀ d, d < 16384 →
      let x := s.srcSeq d
      let up := fun (n : Nat) => if s.now < n then n % 2 ^ 64 else s.now
      (x.held = [] → exec (.resendTimeout d) s = .next s ∧ exec (.destinationUnreachable d) s = .next s) ∧
      (x.held ≠ [] → Answers (.resendTimeout d) s fun t => t.now = up (x.since + 50000) ∧
        t.rd fabE2eCntResent 0 = (if s.route? d = none then s.rd fabE2eCntResent 0
          else min 65535 (s.rd fabE2eCntResent 0 + x.held.length)) ∧ Unchanged (whlCountReg.grain :: gs) s t) ∧
      (x.held ≠ [] → Answers (.destinationUnreachable d) s fun t =>
        t.now = (if s.route? d = none then s.now else up (x.since + 1000000000)) ∧ t.fab.src = s.fab.src ∧
        ∀ h ∈ x.held, h.action = false → h.p.typ ≠ 4 → ∀ q f, h.fseq = some q → s.firing? q = some f → f.launched = true →
          f.ending = false → ∃ g, t.firing? q = some g ∧ g.st = .faulted ∧ g.claimHeld = false ∧ g.heldFor = some d))
/-- Plans, jobs and the gradient exchange. fabric.plan checks, loads the plan and retrains every port that is not quarantined when its id is new;
fabric.job checks the subcube. A packet's bytes land once the channels of its lines let it through. A contribution at its source's watermark is taken, below it counted as a repeat, above it breaks
the instance; arrival mode adds it in place, ordered mode stages it and adds complete stages in rank order. A parameter shard from
its owner follows its own watermark; other writes and adds land where they are addressed, and nowhere else. grx.reset
clears every instance to -0 and every watermark; grx.status reports them. A write or an add that needs a line no stack can give
counts it and changes nothing (R178, R190, R305, R306, R322, R325, R329-R331, R335, R336, R338).
What the manual leaves open is settled as log 33, 55, 56, 75, 121 and 126 say. -/
def Obligations.ExchangeAndPlans : Prop :=
  ∀ (s : State),
    (∀ o plan, s.serves o 0x0150 →
      (planOk plan = false ∨ planPresent plan s.self = false ∨ s.fabricFiring = true →
        Replies (.fabricPlan o plan) o (.s 280) [] [] s) ∧
      (planOk plan = true → planPresent plan s.self = true → s.fabricFiring = false → Answers (.fabricPlan o plan) s fun t =>
        s.replied t o (.s 0) [] ∧ t.fab.plan = plan.take (field plan 20 4) ∧ t.rd fabPlanPlanId 0 = planId plan % 2 ^ 32 ∧
        t.rd fabStatusPlanOk 0 = 1 ∧ t.rd whlStatusParent 0 = planParent t.fab.plan s.self % 16 ∧ t.fab.links = s.fab.links ∧
        (planId plan = s.rd fabPlanPlanId 0 → t.fab.ports = s.fab.ports ∧ ∀ d, t.portSt d = s.portSt d) ∧
        (planId plan ≠ s.rd fabPlanPlanId 0 → ∀ d, d < 14 →
          let x := s.port d
          let y := s.damper (256 + d)
          let back := x.packets ++ (y.holder.bind fun h => h.1.pkt).toList
          t.portSt d = (if s.portSt d = 4 then 4 else 1) ∧
          t.port d = { idlePort with failed := x.failed, fpr := x.fpr, down := x.down } ∧
          (t.damper (256 + d)).waiting = back.map (fun h =>
            (⟨packetTransfer s.self h, s.now, s.now, false, true, true, some h, true⟩ : Waiting)) ++ y.waiting) ∧
        (∀ d, d < 256 ∨ 270 ≤ d → t.damper d = s.damper d) ∧
        Unchanged (replyGrains ++ [.one .topology, .one .dampers, .one .ports, fabPlanReg.grain, fabPortStatusReg.grain, fabStatusReg.grain,
          whlStatusReg.grain]) s t)) ∧
    (∀ o tag base mask, s.serves o 0x0151 → tag < 2 ^ 16 → base < 2 ^ 14 → mask < 2 ^ 14 →
      let member := s.self < 2 ^ 14 ∧ planPresent s.fab.plan s.self = true ∧ s.self &&& (16383 - mask) = base &&& (16383 - mask)
      let good := member ∧ mask &&& planDims s.fab.plan = mask ∧ s.fabricFiring = false
      (¬good → Replies (.fabricJob o tag base mask) o (.s 281) [] [] s) ∧
      (good → Answers (.fabricJob o tag base mask) s fun t => s.replied t o (.s 0) [] ∧ t.rd fabJobTag 0 = tag ∧
        t.rd fabJobBase 0 = base ∧ t.rd fabJobMask 0 = mask ∧ t.rd fabStatusJobSet 0 = 1 ∧
        Unchanged (replyGrains ++ [fabJobReg.grain, fabStatusReg.grain]) s t)) ∧
    (∀ o, s.serves o 0x0160 →
      (s.exchangeFiring = true → Replies (.grxReset o) o (.s 290) [] [] s) ∧
      (s.exchangeFiring = false → Answers (.grxReset o) s fun t => s.replied t o (.s 0) [] ∧ t.grx.slots = s.grx.slots ∧
        (∀ q ∈ s.grx.slots, s.grx.slots.find? (fun p => p.1 == q.1) = some q → ∀ i, i < 2 → (∀ r, r < 2 ^ 14 → t.mark q.1 i r = 0 ∧
            t.pmark q.1 i r = 0) ∧ t.rd grxInstNext (2 * q.1 + i) = 0 ∧ t.rd grxInstDone (2 * q.1 + i) = 0 ∧
          t.rd grxInstState (2 * q.1 + i) = 0 ∧ t.rd grxGatherWhole (2 * q.1 + i) = 0) ∧
        (s.mem.badLines = [] → (∀ m, s.on stkStatusRebuilding m = false) → ∀ b k, s.grx.slots = [(b, k)] → ∀ i, i < 2 →
          mreadN t.mem.stack (k.area i) (negZeros k.fmt k.elems).length = negZeros k.fmt k.elems) ∧
        (∀ a, (∀ q ∈ s.grx.slots, ∀ i, i < 2 → a < q.2.area i ∨ q.2.area i + (negZeros q.2.fmt q.2.elems).length ≤ a) →
          mread t.mem.stack a = mread s.mem.stack a) ∧
        Unchanged (replyGrains ++ [.one .stack, .one .lines, .one .watermarks, grxInstReg.grain, grxGatherReg.grain,
          stkUeReg.grain, stkUeAddrReg.grain]) s t)) ∧
    (∀ o, s.serves o 0x0161 → Replies (.grxStatus o) o (.s 0) (s.grx.slots.flatMap fun p => [p.1, p.2.graph, p.2.param] ++
      ([0, 1].map fun i => s.regWord grxInstReg (2 * p.1 + i)) ++ [0, 1].map fun c => s.regWord grxGatherReg (2 * p.1 + c)) [] s) ∧
    (∀ p : Packet, s.powered = true → p.dst = s.self → s.seqAct p = .accept →
      let n := p.data.length
      let wrote := fun (t : State) (a : Nat) (d : Bytes) => mreadN t.mem.stack a d.length = d ∧
        ∀ x, x < a ∨ a + d.length ≤ x → mread t.mem.stack x = mread s.mem.stack x
      let moves := [Grain.one .dampers, .one .ports, .one .flows, .one .sent, .one .inbox, dmpReqStatReg.grain, dmpStatusReg.grain,
        fabHoldReg.grain, fabPortCntReg.grain]
      let lines := [Grain.one .stack, .one .lines, stkUeReg.grain] ++ moves
      let free := fun (d : Nat) => s.windows d = [] ∧ (s.damper d).window = none ∧ (s.damper d).holder = none ∧
        (s.damper d).waiting = [] ∧ (s.damper d).freeAt ≤ s.now ∧ has (s.damper d).held (0x8000 + p.src) = false
      -- no waiting packet is this one, and the channels of its lines let it through
      let lets := fun (typ : Nat) => s.landing { p with typ := typ } = false ∧ ∀ c ∈ (channelLines p.addr n).map (·.1), free c
      let lost := fun (l : Nat) (t : State) => t.rd stkUeUe (stackOf l) = min 65535 (s.rd stkUeUe (stackOf l) + 1) ∧
        t.rd stkUeAddrAddr (stackOf l) = l % 2 ^ 40 ∧ Unchanged ([stkUeReg.grain, stkUeAddrReg.grain] ++ moves) s t
      let sound := s.mem.badLines = [] ∧ ∀ m, s.on stkStatusRebuilding m = false
      (s.refusal { p with typ := 2 } = 0 → lets 2 →
        (s.instAt p.addr n = none →
          (s.badIn p.addr n = none → Answers (.accumPacket p) s fun t =>
            wrote t p.addr (addBytes p.accFmt (mreadN s.mem.stack p.addr n) p.data) ∧ Unchanged lines s t) ∧
          (∀ l, s.badIn p.addr n = some l → Answers (.accumPacket p) s (lost l))) ∧
        (∀ b k i, s.instAt p.addr n = some (b, k, i) →
          let r := s.rankOf p.src
          let off := p.addr - k.area i
          let m := s.mark b i r
          let next := s.rd grxInstNext (2 * b + i)
          let whole := fun (x : Nat) => if x = s.sources then 2 else 1
          let done := (List.range s.sources).filter fun q => (if q = r then off + n else s.mark b i q) == k.bytes
          (off < m → Answers (.accumPacket p) s fun t => t.rd grxCntRepeats 0 = min (2 ^ 32 - 1) (s.rd grxCntRepeats 0 + 1) ∧
            Unchanged (grxCntReg.grain :: moves) s t) ∧
          (m < off → Answers (.accumPacket p) s fun t => t.rd grxInstState (2 * b + i) = 4 ∧ t.rd grxStatusBrokenSeen 0 = 1 ∧
            Unchanged ([grxInstReg.grain, grxStatusReg.grain] ++ moves) s t) ∧
          (off = m → ∀ l, (if k.mode = 0 then s.writeBlocked (k.stageAt s.sources i r + off) n else s.badIn p.addr n) = some l →
            Answers (.accumPacket p) s (lost l)) ∧
          (off = m → k.mode ≠ 0 → s.badIn p.addr n = none → Answers (.accumPacket p) s fun t => t.mark b i r = off + n ∧
            wrote t p.addr (addBytes k.fmt (mreadN s.mem.stack p.addr n) p.data) ∧
            t.rd grxInstDone (2 * b + i) = done.length % 2 ^ 15 ∧
            t.rd grxInstState (2 * b + i) = (if s.rd grxInstState (2 * b + i) = 4 then 4 else whole (done.length % 2 ^ 15)) ∧
            Unchanged ([.one .watermarks, grxInstReg.grain] ++ lines) s t) ∧
          (off = m → k.mode = 0 → next ≠ r ∨ off + n ≠ k.bytes → s.mark b i next ≠ k.bytes →
            s.writeBlocked (k.stageAt s.sources i r + off) n = none → Answers (.accumPacket p) s fun t =>
            t.mark b i r = off + n ∧ wrote t (k.stageAt s.sources i r + off) p.data ∧ t.rd grxInstNext (2 * b + i) = next ∧
            t.rd grxInstState (2 * b + i) = (if s.rd grxInstState (2 * b + i) = 4 then 4 else whole next) ∧
            Unchanged ([.one .watermarks, grxInstReg.grain] ++ lines) s t) ∧
          (off = m → k.mode = 0 → next = r → off + n = k.bytes → r < s.sources → s.sources < 2 ^ 15 → sound →
            r + 1 = s.sources ∨ s.mark b i (r + 1) ≠ k.bytes → Answers (.accumPacket p) s fun t =>
            t.mark b i r = off + n ∧ t.rd grxInstNext (2 * b + i) = r + 1 ∧
            t.rd grxInstState (2 * b + i) = (if s.rd grxInstState (2 * b + i) = 4 then 4 else whole (r + 1)) ∧
            (let st := mwriteN s.mem.stack (k.stageAt s.sources i r + off) p.data
             t.mem.stack = mwriteN st (k.area i) (addBytes k.fmt (mreadN st (k.area i) k.bytes)
              (mreadN st (k.stageAt s.sources i r) k.bytes))) ∧
            Unchanged ([.one .watermarks, grxInstReg.grain] ++ lines) s t))) ∧
      (s.refusal { p with typ := 1 } = 0 → lets 1 →
        (s.shardAt p.addr n = none ∨ (∃ b k c r, s.shardAt p.addr n = some (b, k, c, r) ∧ s.rankOf p.src ≠ r) →
          (s.writeBlocked p.addr n = none → Answers (.writePacket p) s fun t => wrote t p.addr p.data ∧ Unchanged lines s t) ∧
          (∀ l, s.writeBlocked p.addr n = some l → Answers (.writePacket p) s (lost l))) ∧
        (∀ b k c x, s.shardAt p.addr n = some (b, k, c, s.rankOf p.src) → s.bucketParam k = some x →
          let r := s.rankOf p.src
          let off := p.addr - paramCopy x c - r * (4 * k.elems)
          let m := s.pmark b c r
          (off < m → Answers (.writePacket p) s fun t => t.rd grxCntRepeats 0 = min (2 ^ 32 - 1) (s.rd grxCntRepeats 0 + 1) ∧
            Unchanged (grxCntReg.grain :: moves) s t) ∧
          (m < off → Answers (.writePacket p) s fun t => Unchanged moves s t) ∧
          (off = m → ∀ l, s.writeBlocked p.addr n = some l → Answers (.writePacket p) s (lost l)) ∧
          (off = m → s.writeBlocked p.addr n = none → Answers (.writePacket p) s fun t => wrote t p.addr p.data ∧ t.pmark b c r = off + n ∧
            t.rd grxGatherWhole (2 * b + c) = ((List.range s.sources).filter fun q => t.pmark b c q == 4 * k.elems).length % 2 ^ 15 ∧
            Unchanged ([.one .watermarks, grxGatherReg.grain] ++ lines) s t))))
/-! ### Host port, Sitter and storage (spec/13) -/

/-- Function resets, port H and Sitter restarts. A function reset
clears the function's mailboxes, nonces, storage commands and enables, undoes its sync operations, posts S-313 for every command in
progress, and on F0 stops every firing in flight for replay, the queues and the host ring; the next FSEQ then comes from a block none
was drawn from, as after a Sitter restart; PERST_N low resets the three functions and takes port H down. A
lost lane takes a routed spare, narrows the link or downs it. A Sitter restart sets RESTARTING, counts, and at its end boots the
copy SEC_FW_SEL names or the other, or ends service when the boot's checks fail; it replies with RESTARTED = 1 (R39, R236, R341, R345,
R347-R349, R355-R357).
What the manual leaves open is settled as log 17, 76 and 82 say. -/
def Obligations.HostAndSitter : Prop :=
  ∀ (s : State),
    let quiet := ∀ a ∈ s.fe.actions, a.kind = 2
    let cleared := fun (l : List Nat) (t : State) =>
      (∀ fn m, m < 8 → t.box (.box fn m) = if has l fn = true ∧ fn < 3 then idleBox else s.box (.box fn m)) ∧
      (∀ n, n ∈ t.sec.nonces ↔ n ∈ s.sec.nonces ∧ has l n.dest = false) ∧
      (∀ c, c ∈ t.pci.nvme ↔ c ∈ s.pci.nvme ∧ ∀ fn ∈ l, fromFn fn c.o = false) ∧
      (∀ i, t.pci.fns[i]? = if has l i then (s.pci.fns[i]?).map (fun _ => ⟨false, false⟩) else s.pci.fns[i]?) ∧
      t.fe.slots = s.fe.slots ∧ t.fe.ledger = s.fe.ledger ∧
      (∀ x, x ∈ t.flue.sitter ↔ x ∈ s.flue.sitter ∧ ∀ fn ∈ l, fromFn fn x.1 = false) ∧
      (∀ x, x ∈ t.sit.latched ↔ x ∈ s.sit.latched ∧ ∀ fn ∈ l, fromFn fn x.1 = false) ∧
      t.rd feFseqNext 0 = s.rd feFseqEndEnd 0 % 2 ^ 64
    let stopped := fun (t : State) => (∀ q f, s.firing? q = some f → f.launched = true → f.ending = false →
        ∃ h, t.firing? q = some h ∧ h.st = .faulted ∧ h.claimHeld = false ∧ h.snap = f.snap) ∧
      (∀ q f, s.firing? q = some f → f.launched = false ∨ f.ending = true → t.firing? q = some f) ∧
      t.fe.actions = s.fe.actions.map (fun a => { a with performed := false }) ∧ (∀ q, q < 64 → t.on feSqCfgEnable q = false) ∧
      t.on feHringCtlEnable 0 = false ∧ t.rd feHringPtrHead 0 = 0 ∧ t.rd feHringPtrTail 0 = 0
    let fnGrains := [Grain.one .barriers, .one .sitterSync, .one .slots, .one .functions, .one .storage, .one .boxes, .one .events, .one .vectors, .one .sitter,
      .one .signing, sitMbStateReg.grain, feFseqReg.grain]
    let workGrains := [Grain.one .fresh, .one .tileMem, .one .scratch, .one .const, .one .stack, .one .hostMem, .one .passes, .one .engines,
      .one .waits, .one .dampers, .one .firings, .one .ledger, .one .actions, shfAbandonReg.grain, shfFeedStallReg.grain, shfInfZeroReg.grain,
      shfIntSatReg.grain, feSqCfgReg.grain, feHringCtlReg.grain, feHringPtrReg.grain]
    let restarts := fun (cause : Nat) (t : State) => t.rd sitCoreRestarting 0 = 1 ∧ t.sit.restartCause = cause ∧
      t.rd sitCoreRestarts 0 = min 255 (s.rd sitCoreRestarts 0 + 1) ∧ t.rd feFseqNext 0 = s.rd feFseqEndEnd 0 % 2 ^ 64 ∧
      (∀ e, (t.engine e).held = if e < 128 then (s.engine e).held else (s.engine e).held.map fun h =>
        if h.fseq.isNone && !h.placed then { h with started := false, waiting := false, met := false, readHeld := false, sent := 0,
                                                    offs := [], src := [], todo := [] } else h)
    let restartGrains := [Grain.one .fresh, .one .tileMem, .one .scratch, .one .const, .one .stack, .one .hostMem, .one .engines,
      .one .dampers, .one .sitter, feFseqReg.grain, sitCoreReg.grain]
    (∀ fn, fn < 3 →
      (s.powered = false → exec (.functionLevelReset fn) s = .next s) ∧
      (s.powered = true → quiet → Answers (.functionLevelReset fn) s fun t => cleared [fn] t ∧
        ((∃ p ∈ s.sit.boxes, p.1 < 24 ∧ p.1 / 8 = fn ∧ p.2.st = 1) → ∃ e ∈ tget [] t.sit.events fn, e.code = .s 313) ∧
        ((∀ p ∈ s.sit.boxes, p.1 < 24 → p.1 / 8 = fn → p.2.st ≠ 1) → tget [] t.sit.events fn = []) ∧
        (∀ d, d ≠ fn → tget [] t.sit.events d = tget [] s.sit.events d) ∧
        (if fn = 0 then stopped t ∧ Unchanged (fnGrains ++ workGrains) s t else Unchanged fnGrains s t)) ∧
      (∀ bme d3, (s.powered = false ∨ has s.pci.inReset fn = true → exec (.configurationWrite fn bme d3) s = .next s) ∧
        (s.powered = true → has s.pci.inReset fn = false → ∀ f, s.pci.fns[fn]? = some f →
          (f.d3hot = true → d3 = false → quiet → Answers (.configurationWrite fn bme d3) s fun t => cleared [fn] t ∧
            (fn = 0 → stopped t)) ∧
          (f.d3hot = false ∨ d3 = true → Answers (.configurationWrite fn bme d3) s fun t =>
            (∀ i, t.pci.fns[i]? = if i = fn then some ⟨bme, d3⟩ else s.pci.fns[i]?) ∧ t.pci.inReset = s.pci.inReset ∧
            Unchanged [.one .functions] s t)))) ∧
    (∀ low, quiet → s.powered = true → Answers (.perstN low) s fun t => cleared [0, 1, 2] t ∧ stopped t ∧
      (low = true → t.power.perstN = false ∧ t.power.trstN = false ∧ t.pci.inReset = [0, 1, 2] ∧ t.rd pciHStatusSpeed 0 = 0 ∧
        t.rd pciHStatusWidth 0 = 0 ∧ t.rd pciHStatusFlit 0 = 0 ∧
        Unchanged (fnGrains ++ workGrains ++ [.one .power, pciHStatusReg.grain]) s t) ∧
      (low = false → Unchanged (fnGrains ++ workGrains) s t)) ∧
    (s.power.perstN = true → exec .perstNRelease s = .next s) ∧
    (s.power.perstN = false → Answers .perstNRelease s fun t => t.power = { s.power with perstN := true, trstN := true } ∧
      t.pci.inReset = [] ∧ (s.powered = true → ∀ w, s.hWidth = some w → t.rd pciHStatusSpeed 0 = 7 ∧ t.rd pciHStatusWidth 0 = w ∧
        t.rd pciHStatusFlit 0 = 1) ∧ (s.powered = false → t.regs = s.regs) ∧
      Unchanged [.one .power, .one .functions, pciHStatusReg.grain] s t) ∧
    (∀ lane, lane < 16 →
      (s.powered = false ∨ has s.pci.hFailed lane = true → exec (.hostLaneLoss .h lane) s = .next s) ∧
      (s.powered = true → has s.pci.hFailed lane = false → quiet →
        let routed := s.on modCradleSpareH 0
        let failed := s.pci.hFailed ++ [lane]
        let width := widestLink (16 - (failed.length - laneSpares routed failed))
        Answers (.hostLaneLoss .h lane) s fun t => t.pci.hFailed = failed ∧
          (s.rd pciHStatusSpeed 0 ≠ 0 → ∀ w, width = some w → t.rd pciHStatusSpeed 0 = 7 ∧ t.rd pciHStatusWidth 0 = w ∧
            t.rd pciHStatusSparesUsed 0 = laneSpares routed failed) ∧
          (width = none → t.rd pciHStatusSpeed 0 = 0 ∧ t.rd pciHStatusWidth 0 = 0 ∧ cleared [0, 1, 2] t ∧ stopped t) ∧
          (laneSpares routed s.pci.hFailed < laneSpares routed failed → ∃ e ∈ t.rep.events, e.kind = 11) ∧
          Unchanged (fnGrains ++ workGrains ++ [pciHStatusReg.grain, .one .persistent, .one .repair, modSparesReg.grain,
            prsCopySelReg.grain, prsStatusReg.grain]) s t)) ∧
    (s.powered = true → s.rd sitCoreRestarting 0 = 0 →
      (Answers .heartbeatLoss s fun t => restarts 0 t ∧ Unchanged restartGrains s t) ∧
      (Answers (.lockstepMismatch false false) s fun t => restarts 0 t ∧
        t.rd sitCoreTransient 0 = min 255 (s.rd sitCoreTransient 0 + 1) ∧ Unchanged restartGrains s t) ∧
      (∀ a, s.rd sitCoreSpare 0 ≠ 3 → Answers (.lockstepMismatch a (!a)) s fun t => restarts 0 t ∧ t.rd sitCoreSpare 0 = 3 ∧
        t.rd sitCorePairA 0 = (if a then s.rd sitCoreSpare 0 % 4 else s.rd sitCorePairA 0) ∧
        t.rd sitCorePairB 0 = (if a then s.rd sitCorePairB 0 else s.rd sitCoreSpare 0 % 4) ∧
        t.rep.coresRetired = s.rep.coresRetired ++ [if a then s.rd sitCorePairA 0 else s.rd sitCorePairB 0] ∧
        (∃ e ∈ t.rep.events, e.kind = 8) ∧ Unchanged (restartGrains ++ [.one .events, .one .vectors, .one .persistent, .one .repair,
          modSparesReg.grain, prsCopySelReg.grain, prsStatusReg.grain]) s t)) ∧
    (s.powered = true → ∀ a b, (a = true ∧ b = true) ∨ ((a = true ∨ b = true) ∧ s.rd sitCoreSpare 0 = 3) →
      Answers (.lockstepMismatch a b) s fun t => (∃ e ∈ tget [] t.sit.events 0, e.code = .f 190) ∧ t.svc.phase = .down (s.svc.phase.endCode 163) ∧
        t.svc.causeNext = 3 ∧ t.passes = [] ∧ t.power.faults = s.power.faults ++ [.f 190] ∧ t.fe.slots = s.fe.slots) ∧
    (∀ o, s.serves o 0x0003 → Answers (.sitterRestart o) s fun t => restarts 1 t ∧ (t.box o).st = 1 ∧ (t.box o).req.cmd = 3 ∧
      Unchanged (restartGrains ++ [.one .boxes]) s t) ∧
    (s.powered = false ∨ s.rd sitCoreRestarting 0 = 0 → ∀ found, exec (.sitterRestartComplete found) s = .next s) ∧
    (s.powered = true → s.rd sitCoreRestarting 0 = 1 → ∀ found : BootFindings, found.keysOk = false ∨ found.copiesOk = false →
      Answers (.sitterRestartComplete found) s fun t => t.rd sitCoreRestarting 0 = 0 ∧
        (∃ e ∈ tget [] t.sit.events 0, e.code = .f 195) ∧ t.svc.phase = .down (s.svc.phase.endCode 163) ∧ t.svc.causeNext = 3 ∧
        t.passes = [] ∧ t.power.faults = s.power.faults ++ [.f 195]) ∧
    (s.powered = true → s.rd sitCoreRestarting 0 = 1 → ∀ o k b, s.sit.boxes.filter (fun p => p.2.st == 1) = [(k, b)] → boxOrigin k = o →
      boxNo o = k → s.box o = b → s.sit.latched = [] → s.svc.phase = .service ∨ s.svc.phase = .warm → ∀ found : BootFindings,
        found.keysOk = true → found.copiesOk = true → Answers (.sitterRestartComplete found) s fun t =>
        let sel := s.rd secFwSelSel 0
        t.rd sitCoreRestarting 0 = 0 ∧ t.rd secIdNextNext 0 = s.rd secKeystateIdEnd 0 % 2 ^ 40 ∧
        (s.copyValid sel = true → t.sec.running = sel ∧ t.rd secStateFallback 0 = 0 ∧ t.rd secStateRecovery 0 = 0 ∧ t.svc = s.svc) ∧
        (s.copyValid sel = false → s.copyValid (1 - sel) = true → t.sec.running = 1 - sel ∧ t.rd secStateFallback 0 = 1 ∧
          t.rd secStateRecovery 0 = 0 ∧ t.svc = s.svc) ∧
        (s.copyValid sel = false → s.copyValid (1 - sel) = false → t.rd secStateRecovery 0 = 1 ∧
          (∃ e ∈ tget [] t.sit.events 2, e.code = .s 342) ∧ (s.svc.phase = .service → t.svc.phase = .recovery 0)) ∧
        ((s.fe.asked.any (fun a => decide (a.2.2 = o)) = true ∨ s.sec.queue.any (fun i => match i with
            | .ack p _ => decide (p = o)
            | _ => false) = true) → (t.box o).st = 1 ∧ (t.box o).crossed = true) ∧
        ((s.fe.asked.any (fun a => decide (a.2.2 = o)) = false ∧ s.sec.queue.any (fun i => match i with
            | .ack p _ => decide (p = o)
            | _ => false) = false) → (t.box o).st = 2 ∧ ∃ r, (t.box o).reply = some r ∧ r.seq = b.req.seq ∧ r.restarted = true ∧
          (has [3, 0x0403, 0x0500] b.req.cmd = true → r.status = .s 0)))

/-- Storage. store.list names the namespaces of the links that are up; store.read and store.write refuse a link that is down with
S-312, a namespace that is absent or not of 4 KiB blocks with S-311, a destination in use or declared with S-314, and else
queue their command. A completion with an error ends it with S-310 and the status; a write goes on to its Flush and replies
with the CRC-64. A drive reaches mapped extents and nothing else, through the dampers of its channels and of the storage port, and its bytes
count for a port-die engine. A link that goes down ends its commands with S-312 and
posts it on F1, and so does its return. store.port applies SPLIT. A lost lane narrows the link (R39, R183, R282,
R341, R350-R354).
What the manual leaves open is settled as log 5, 77, 78, 121 and 130 say. -/
def Obligations.Storage : Prop :=
  ∀ (s : State),
    let bad := fun (link ns : Nat) => ns = 0 ∨ 16 < ns ∨ Config.namespaceLba link ns = 0 ∨ Config.namespaceLbaBytes link ns ≠ 4096
    let ended := fun (t : State) (o : Origin) (c : Code) => (t.box o).st = 2 ∧ ∃ r, (t.box o).reply = some r ∧ r.status = c
    (∀ o, s.serves o 0x0200 → Replies (.storeList o) o (.s 0) ((s.pci.sUp.flatMap fun l => ((List.range 16).filter fun i =>
      Config.namespaceLba l (i + 1) != 0).flatMap fun i =>
        [l, i + 1, Config.namespaceLba l (i + 1), Config.namespaceLbaBytes l (i + 1)])) [] s) ∧
    (∀ o link ns lba side, ∀ p ∈ [(Instr.storeRead o link ns lba side, 0x0201), (.storeWrite o link ns lba side, 0x0202)],
      s.serves o p.2 → (has s.pci.sUp link = false → Replies p.1 o (.s 312) [] [] s) ∧
      (has s.pci.sUp link = true → bad link ns → Replies p.1 o (.s 311) [] [] s)) ∧
    (∀ o link ns lba side, has s.pci.sUp link = true → ¬bad link ns →
      (s.serves o 0x0201 →
        (∀ a n, side = .extent a n → (∃ g ∈ s.fe.graphs, g.2.declaresBytes a n = true) →
          Replies (.storeRead o link ns lba side) o (.s 314) [] [] s) ∧
        (∀ id r, side = .region id → s.regionById id = some r → regKind r = 0 →
          (∃ f ∈ s.fe.firings, ∃ g, s.graph? f.graph = some g ∧ ∃ x ∈ g.regions, regId x = id) →
          Replies (.storeRead o link ns lba side) o (.s 314) [] [] s) ∧
        (∀ id, (side = .region id ∧ ∀ r, s.regionById id = some r → regKind r ≠ 0) ∨ side = .param id →
          Replies (.storeRead o link ns lba side) o (.s 302) [] [] s) ∧
        (s.readRefusal side = none → s.sideExtent side = none → Replies (.storeRead o link ns lba side) o (.s 302) [] [] s) ∧
        (∀ a n h, s.readRefusal side = none → s.sideExtent side = some (a, n, h) → Answers (.storeRead o link ns lba side) s fun t =>
          (t.box o).st = 1 ∧ t.pci.nvme = s.pci.nvme ++ [⟨o, link, ns, lba, false, a, n, false, 0, none⟩] ∧
          Unchanged [.one .storage, .one .boxes] s t)) ∧
      (s.serves o 0x0202 →
        (s.sideExtent side = none → Replies (.storeWrite o link ns lba side) o (.s 302) [] [] s) ∧
        (∀ a n h, s.sideExtent side = some (a, n, h) → s.badIn a n = none → Answers (.storeWrite o link ns lba side) s fun t =>
          (t.box o).st = 1 ∧ t.pci.nvme = s.pci.nvme ++
            [⟨o, link, ns, lba, true, a, n, false, crc64 (mreadN s.mem.stack a n), h⟩] ∧
          Unchanged [.one .fresh, .one .storage, .one .boxes] s t))) ∧
    (∀ link status, link < 4 →
      ((∀ c ∈ s.pci.nvme, c.link ≠ link) → exec (.nvmeCompletion link status) s = .next s) ∧
      (∀ pre c post, s.pci.nvme = pre ++ c :: post → c.link = link → (∀ d ∈ pre, d.link ≠ link) →
        (status ≠ 0 → Answers (.nvmeCompletion link status) s fun t => ended t c.o (.s 310) ∧
          (∃ r, (t.box c.o).reply = some r ∧ r.payload = [status]) ∧ t.pci.nvme = pre ++ post ∧
          Unchanged (replyGrains ++ [.one .storage]) s t) ∧
        (status = 0 → c.write = true → c.flushing = false → Answers (.nvmeCompletion link status) s fun t =>
          t.pci.nvme = pre ++ { c with flushing := true, holds := none } :: post ∧ Unchanged [.one .storage] s t) ∧
        (status = 0 → c.write = false ∨ c.flushing = true → Answers (.nvmeCompletion link status) s fun t => ended t c.o (.s 0) ∧
          (∃ r, (t.box c.o).reply = some r ∧ r.payload = if c.write then [c.crc] else []) ∧ t.pci.nvme = pre ++ post ∧
          Unchanged (replyGrains ++ [.one .storage]) s t))) ∧
    (∀ link addr len data, link < 4 →
      let n := (data.map List.length).getD len
      let mapped := ∃ c ∈ s.pci.nvme, c.link = link ∧ c.flushing = false ∧ c.addr ≤ addr ∧ addr + n ≤ c.addr + c.bytes
      (has s.pci.sUp link = false → exec (.driveRequest link addr len data) s = .next s) ∧
      (has s.pci.sUp link = true →
        (mapped →
          let req := engineObserver s.pieceEngine
          let l := driveParts addr n data.isNone
          let passes := s.passesAll ⟨req, 0, 2 ^ 32, false, false, data.isNone, 0, 0⟩ l
          ((∀ d ∈ l.map (·.1), s.windows d = [] ∧ (s.damper d).window = none ∧ (s.damper d).holder = none ∧
            (s.damper d).waiting = [] ∧ (s.damper d).freeAt ≤ s.now ∧ has (s.damper d).held req = false) → passes = true) ∧
          (passes = false → exec (.driveRequest link addr len data) s = .next s) ∧
          (passes = true → Answers (.driveRequest link addr len data) s fun t =>
            (∀ b, data = some b → s.writeBlocked addr b.length = none → mreadN t.mem.stack addr b.length = b) ∧
            (∀ a, data = none ∨ a < addr ∨ addr + n ≤ a → mread t.mem.stack a = mread s.mem.stack a) ∧
            t.sit.pieces = s.sit.pieces ++ [(s.fresh, n)] ∧ t.fresh = s.fresh + 1 ∧
            (data = none → Unchanged [.one .fresh, .one .pieces, dmpReqStatReg.grain] s t) ∧
            Unchanged [.one .fresh, .one .pieces, .one .stack, .one .lines, dmpReqStatReg.grain, stkUeReg.grain, stkUeAddrReg.grain] s t)) ∧
        (¬mapped → Answers (.driveRequest link addr len data) s fun t =>
          t.rd pciSStatusUrCnt link = min 65535 (s.rd pciSStatusUrCnt link + 1) ∧ Unchanged [pciSStatusReg.grain] s t))) ∧
    (∀ link, link < 4 →
      (has s.pci.sUp link = false → exec (.storageLinkDown link) s = .next s) ∧
      (has s.pci.sUp link = true → Answers (.storageLinkDown link) s fun t => has t.pci.sUp link = false ∧
        (∀ k, k ≠ link → has t.pci.sUp k = has s.pci.sUp k) ∧ t.pci.nvme = s.pci.nvme.filter (fun c => c.link != link) ∧
        (∀ c ∈ s.pci.nvme, c.link = link → ended t c.o (.s 312)) ∧ t.rd pciSStatusSpeed link = 0 ∧ t.rd pciSStatusWidth link = 0 ∧
        t.rd pciSStatusReady link = 0 ∧ (∃ e ∈ tget [] t.sit.events 1, e.code = .s 312) ∧
        Unchanged [.one .storage, .one .boxes, .one .events, .one .vectors, .one .frames, pciSStatusReg.grain] s t) ∧
      (∀ up, s.powered = false ∨ up = false ∨ has s.pci.sUp link = true ∨ splitLinks s.pci.split ≤ link →
        exec (.storageLinkRetrain link up) s = .next s) ∧
      (∀ w, s.powered = true → has s.pci.sUp link = false → link < splitLinks s.pci.split → s.sWidth link = some w →
        Answers (.storageLinkRetrain link true) s fun t => has t.pci.sUp link = true ∧ t.pci.nvme = s.pci.nvme ∧
          t.rd pciSStatusSpeed link = 7 ∧ t.rd pciSStatusWidth link = w ∧ t.rd pciSStatusReady link = 1 ∧
          (∃ e ∈ tget [] t.sit.events 1, e.code = .s 312) ∧
          Unchanged [.one .storage, .one .events, .one .vectors, pciSStatusReg.grain] s t)) ∧
    (∀ o, s.serves o 0x0203 → Answers (.storePort o) s fun t =>
      let split := if s.rd pciSCfgSplit 0 = 3 then 0 else s.rd pciSCfgSplit 0
      ended t o (.s 0) ∧ t.pci.split = split ∧ (∀ c ∈ s.pci.nvme, c.link < 4 → boxNo c.o ≠ boxNo o → ended t c.o (.s 312)) ∧
      t.pci.nvme = s.pci.nvme.filter (fun c => decide (4 ≤ c.link)) ∧
      (∀ l, l < 4 → (has t.pci.sUp l = true ↔ l < splitLinks split ∧ (t.sWidth l).isSome = true) ∧
        (l < splitLinks split → ∀ w, t.sWidth l = some w → t.rd pciSStatusSpeed l = 7 ∧ t.rd pciSStatusWidth l = w ∧
          t.rd pciSStatusReady l = 1)) ∧
      Unchanged (replyGrains ++ [.one .storage, pciSStatusReg.grain]) s t) ∧
    (∀ link lane, link < splitLinks s.pci.split → lane < splitLanes s.pci.split → s.powered = true →
      let n := splitLanes s.pci.split * link + lane
      let failed := s.pci.sFailed ++ [n]
      let routed := s.on modCradleSpareS 0
      let lost := ((failed.drop (laneSpares routed failed)).filter fun l => l / splitLanes s.pci.split == link).length
      let width := widestLink (splitLanes s.pci.split - lost)
      (has s.pci.sFailed n = true → exec (.hostLaneLoss (.s link) lane) s = .next s) ∧
      (has s.pci.sFailed n = false → Answers (.hostLaneLoss (.s link) lane) s fun t => t.pci.sFailed = failed ∧
        (has s.pci.sUp link = true → ∀ w, width = some w → t.rd pciSStatusWidth link = w ∧ t.pci.sUp = s.pci.sUp) ∧
        (has s.pci.sUp link = true → width = none → has t.pci.sUp link = false ∧ (∃ e ∈ tget [] t.sit.events 1, e.code = .s 312) ∧
          ∀ c ∈ s.pci.nvme, c.link = link → ended t c.o (.s 312)) ∧
        Unchanged [.one .storage, .one .boxes, .one .events, .one .vectors, .one .frames, .one .persistent, .one .repair, modSparesReg.grain,
          pciSStatusReg.grain, prsCopySelReg.grain, prsStatusReg.grain] s t))

/-! ### Keys, tokens, firmware and the management bus (spec/13, 14) -/

/-- Two-party tokens. The checks of Table 14.6 run in order and the first that fails refuses the token with its code, changing nothing; a
commit that its worn persistent register refuses answers S-345. An applied token ends its nonce, waits for its signed
acknowledgement, and does what its KIND says: CAL and RULES replace the inactive copy and ask for a seal, FLOOR raises SEC_FLOOR and
makes older firmware invalid, DEBUG sets the lock, MGMT_KEYS, OWNER_KEYS, ENROL and RELEASE commit a new keys copy with KEYS_VER + 1,
ID_ROTATE starts the next identity key at index 0 (R380-R387, R394, R403).
A relock ends a debug instruction that the test access serves (R40, R385). A request on the bus that names a further part of the kept large
reply gets that part and does nothing else (log 132). What the manual leaves open is settled as log 10, 82, 83 and 84 say. -/
def Obligations.Tokens : Prop :=
  ∀ (o : Origin) (t : Token) (s : State), s.serves o 0x0401 →
    let kv := (s.rd secKeystateKeysVer 0 + 1) % 2 ^ 16
    let idEnd := s.rd secKeystateIdEnd 0
    let copySel := s.prsValue 5
    let keep := fun (new old : Bytes) => if new.all (fun x => x == 0) then old else new
    let table := [(1, Instr.tokenApplyCal o t, 5, copySel ^^^ 2), (2, .tokenApplyRules o t, 5, copySel ^^^ 4),
      (3, .tokenApplyFloor o t, 3, field t.body 0 4), (5, .tokenApplyMgmtKeys o t, 2, keyState kv idEnd),
      (6, .tokenApplyOwnerKeys o t, 2, keyState kv idEnd), (7, .tokenApplyIdRotate o t, 2, keyState kv 1024),
      (8, .tokenApplyEnrol o t, 2, keyState kv idEnd), (9, .tokenApplyRelease o t, 2, keyState kv idEnd)]
    let room := fun (r v : Nat) => ∃ slot c, s.prsActive r = some (slot, c) ∧ c.value ≠ v % 2 ^ 64 ∧ c.count + 1 < 190000000
    let applied := fun (kind : Nat) (u : State) => (u.box o).st = 1 ∧ u.sec.nonces = s.sec.nonces.filter (fun n => n.value != t.nonce) ∧
      u.sec.queue = s.sec.queue ++ [.ack o (digest32 (t.bytes kind) ++ natLe 8 (u.regWord secKeystateReg 0) ++
        if kind = 7 then u.sec.rotation else [])]
    let keys := fun (u : State) (k : Keys) (e : Nat) => u.sec.keys = { k with ver := kv } ∧ u.sec.oldKeys = s.sec.keys ∧
      u.mgmt.peers = k.mgmt ∧ u.rd secKeystateKeysVer 0 = kv ∧ u.rd secKeystateIdEnd 0 = e % 2 ^ 41 ∧ u.prsValue 2 = keyState kv e
    let tap := fun (u : State) => u.power = { s.power with tap := match s.power.tap with
      | some (.debug i) => if u.rd secStateDebug 0 = 1 then some (.debug i) else none
      | x => x }
    (∀ p ∈ (4, Instr.tokenApplyDebug o t) :: table.map (fun q => (q.1, q.2.1)), ∀ peer, o = .bus peer → (s.box o).req.place ≠ 0 →
      Replies p.2 o (.s 0) (largePart (s.box o).large (s.box o).req.place) [] s) ∧
    ((∀ peer, o = .bus peer → (s.box o).req.place = 0) →
    (∀ p ∈ (4, Instr.tokenApplyDebug o t) :: table.map (fun q => (q.1, q.2.1)),
      let k := s.tokenKeys p.1 t
      let m := t.header p.1 ++ t.body
      let formed := t.magic = 0x4E4B4F54 ∧ t.bodyLen = t.body.length ∧ t.bodyLen ≤ 8388608 ∧
        t.ownerSig.length = Config.signatureSize k.1 ∧ t.auditorSig.length = Config.signatureSize k.2
      let live := ∃ n ∈ s.sec.nonces, n.value = t.nonce
      (¬formed → Replies p.2 o (.s 330) [] [] s) ∧
      (formed → t.serial ≠ Config.serial → Replies p.2 o (.s 331) [] [] s) ∧
      (formed → t.serial = Config.serial → ¬live → Replies p.2 o (.s 332) [] [] s) ∧
      (formed → t.serial = Config.serial → live → Config.xmssVerify k.1 m t.ownerSig = false → Replies p.2 o (.s 333) [] [] s) ∧
      (formed → t.serial = Config.serial → live → Config.xmssVerify k.1 m t.ownerSig = true →
        (Config.xmssVerify k.2 m t.auditorSig = false → Replies p.2 o (.s 334) [] [] s) ∧
        (Config.xmssVerify k.2 m t.auditorSig = true →
          (s.kindAllowed p.1 t = false → Replies p.2 o (.s 335) [] [] s) ∧
          (s.kindAllowed p.1 t = true → s.bodyOk p.1 t = false → Replies p.2 o (.s 336) [] [] s) ∧
          (s.kindAllowed p.1 t = true → s.bodyOk p.1 t = true → s.tokenRefusal p.1 t = none)))) ∧
    (∀ p ∈ table, ∀ c, s.tokenRefusal p.1 t = none → s.prsActive p.2.2.1 = some (3, c) → c.value ≠ p.2.2.2 % 2 ^ 64 →
      200000000 ≤ c.count → Answers p.2.1 s fun u => s.replied u o (.s 345) [] ∧ u.rd prsStatusRefusedSeen 0 = 1 ∧
        Unchanged (replyGrains ++ [prsStatusReg.grain]) s u) ∧
    (s.tokenRefusal 4 t = none → Answers (.tokenApplyDebug o t) s fun u => applied 4 u ∧ u.rd secStateDebug 0 = field t.body 0 1 % 2 ∧
      tap u ∧ Unchanged [.one .boxes, .one .signing, .one .power, secStateReg.grain] s u) ∧
    (s.Bounds →
      (s.tokenRefusal 1 t = none → room 5 (copySel ^^^ 2) → Answers (.tokenApplyCal o t) s fun u => applied 1 u ∧
        u.meter.cal = s.meter.cal.set (1 - s.rd prsCopySelCal 0) t.body ∧ u.meter.rules = s.meter.rules ∧ u.meter.sealAsked = true ∧
        u.prsValue 5 = (copySel ^^^ 2) % 2 ^ 64 ∧
        Unchanged [.one .boxes, .one .signing, .one .persistent, .one .tables, .one .meter, prsCopySelReg.grain] s u) ∧
      (s.tokenRefusal 2 t = none → room 5 (copySel ^^^ 4) → Answers (.tokenApplyRules o t) s fun u => applied 2 u ∧
        u.meter.rules = s.meter.rules.set (1 - s.rd prsCopySelRules 0) t.body ∧ u.meter.cal = s.meter.cal ∧ u.meter.sealAsked = true ∧
        u.prsValue 5 = (copySel ^^^ 4) % 2 ^ 64 ∧
        Unchanged [.one .boxes, .one .signing, .one .persistent, .one .tables, .one .meter, prsCopySelReg.grain] s u) ∧
      (s.tokenRefusal 3 t = none → room 3 (field t.body 0 4) → Answers (.tokenApplyFloor o t) s fun u => applied 3 u ∧
        u.rd secFloorFloor 0 = field t.body 0 4 % 2 ^ 32 ∧ u.prsValue 3 = field t.body 0 4 % 2 ^ 64 ∧
        u.sec.fw = s.sec.fw.map (fun c => if c.version < field t.body 0 4 then { c with valid := false } else c) ∧
        Unchanged [.one .boxes, .one .signing, .one .firmware, .one .persistent, secFloorReg.grain] s u) ∧
      (room 2 (keyState kv idEnd) →
        (∀ l, s.tokenRefusal 5 t = none → s.unwrapped t = some l → Answers (.tokenApplyMgmtKeys o t) s fun u => applied 5 u ∧
          keys u { s.sec.keys with mgmt := l } idEnd ∧
          Unchanged [.one .boxes, .one .events, .one .signing, .one .bus, .one .keys, .one .persistent, secKeystateReg.grain] s u) ∧
        (s.tokenRefusal 6 t = none → Answers (.tokenApplyOwnerKeys o t) s fun u => applied 6 u ∧
          keys u { s.sec.keys with owner := keep (t.body.take 68) s.sec.keys.owner, auditor := keep ((t.body.drop 68).take 68) s.sec.keys.auditor } idEnd ∧
          Unchanged [.one .boxes, .one .signing, .one .bus, .one .keys, .one .persistent, secKeystateReg.grain] s u) ∧
        (s.tokenRefusal 8 t = none → Answers (.tokenApplyEnrol o t) s fun u => applied 8 u ∧
          keys u { s.sec.keys with owner := t.body.take 68, auditor := t.body.drop 68 } idEnd ∧ u.rd secStateOwned 0 = 1 ∧
          Unchanged [.one .boxes, .one .signing, .one .bus, .one .keys, .one .persistent, secKeystateReg.grain, secStateReg.grain] s u) ∧
        (s.tokenRefusal 9 t = none → Answers (.tokenApplyRelease o t) s fun u => applied 9 u ∧
          keys u { s.sec.keys with owner := [], auditor := [], mgmt := [] } idEnd ∧ u.rd secStateOwned 0 = 0 ∧ u.rd secStateDebug 0 = 0 ∧ tap u ∧
          Unchanged [.one .boxes, .one .events, .one .power, .one .signing, .one .bus, .one .keys, .one .persistent, secKeystateReg.grain,
            secStateReg.grain] s u)) ∧
      (s.tokenRefusal 7 t = none → room 2 (keyState kv 1024) → Answers (.tokenApplyIdRotate o t) s fun u => applied 7 u ∧
        keys u { s.sec.keys with idKey := s.sec.keys.idKey + 1 } 1024 ∧ u.rd secIdNextNext 0 = 0 ∧ u.rd secStateIdLow 0 = 0 ∧
        u.rd secStateIdOut 0 = 0 ∧
        (∃ body, u.sec.rotation = body ++ Config.identitySign s.sec.keys.idKey (2 ^ 40 - 1024) body) ∧
        Unchanged [.one .boxes, .one .signing, .one .bus, .one .keys, .one .persistent, secKeystateReg.grain, secIdNextReg.grain,
          secStateReg.grain] s u)))
/-- Attestation, signatures, firmware and test access. attest.report issues a fresh nonce, at most four live for a destination,
and waits for its signature, or is refused with S-344 when the indices are spent; asked for the certificate it answers at once. A large
reply goes to the host address that the request names, or on the bus 1,400 bytes of it from the request's offset, a later part from the
reply that is kept (R378, log 132). Requests are signed in order, each with
the next unspent index, reserved 1,024 at a time; none is signed with the kept block. A report shows the state when its signature
begins. fw.load writes only the copy that is not running, and it is valid only when the image passes and is not below the
floor; fw.activate names a valid copy and restarts the Sitter. Test access beyond scan and identification needs the debug
lock open (R40, R370-R379).
What the manual leaves open is settled as log 2, 10, 80, 85, 86 and 132 say. -/
def Obligations.Signing : Prop :=
  ∀ (o : Origin) (s : State),
    let place := (s.box o).req.place
    let done := fun (u : State) (b : Bytes) => (u.box o).st = 2 ∧ (u.box o).large = b ∧ ∃ r, (u.box o).reply = some r ∧ r.status = .s 0 ∧
      match o with
      | .box _ _ => u.mem.host = if s.hostReady then (s.writeSpace 5 place b).mem.host else s.mem.host
      | .bus _ => u.mem.host = s.mem.host ∧ r.payload = largePart b place
    (∀ cert challenge, s.serves o 0x0400 →
      (s.on secStateIdOut 0 = true → Replies (.attestReport o challenge cert) o (.s 344) [] [] s) ∧
      (∀ p, s.on secStateIdOut 0 = false → o = .bus p → place ≠ 0 →
        Replies (.attestReport o challenge cert) o (.s 0) (largePart (s.box o).large place) [] s) ∧
      (s.on secStateIdOut 0 = false → (∀ p, o = .bus p → place = 0) → Answers (.attestReport o challenge true) s fun u =>
        done u Config.identityCertificate ∧ Unchanged (replyGrains ++ [.one .hostMem]) s u) ∧
      (s.on secStateIdOut 0 = false → (∀ p, o = .bus p → place = 0) → Answers (.attestReport o challenge false) s fun u =>
        let n : Nonce := ⟨destOf o, Config.freeNat s.fresh % 2 ^ 128, Config.freeNat (s.fresh + 1)⟩
        (u.box o).st = 1 ∧ n ∈ u.sec.nonces ∧ u.sec.queue = s.sec.queue ++ [.report o (u.report challenge n.value n.dk)] ∧
        (∀ x, x.dest ≠ destOf o → (x ∈ u.sec.nonces ↔ x ∈ s.sec.nonces)) ∧
        ((s.sec.nonces.filter fun x => x.dest == destOf o).length ≤ 4 →
          (u.sec.nonces.filter fun x => x.dest == destOf o).length ≤ 4) ∧
        Unchanged [.one .fresh, .one .boxes, .one .signing] s u)) ∧
    (∀ item,
      (s.powered = false ∨ (∃ m, item = .rotation m) ∨ (∃ n, item = .batch n ∧ s.batchWaits n = false) →
        exec (.signatureRequest item) s = .next s) ∧
      (s.powered = true → (∃ m, item = .ack o m) ∨ (∃ m, item = .report o m) ∨ (∃ n, item = .batch n ∧ s.batchWaits n = true) →
        Answers (.signatureRequest item) s fun u => u.sec = { s.sec with queue := s.sec.queue ++ [item] } ∧
          Unchanged [.one .signing] s u)) ∧
    (s.powered = false ∨ s.on sitCoreRestarting 0 = true ∨ s.sec.queue = [] ∨ 2 ^ 40 - 1024 ≤ s.rd secIdNextNext 0 →
      exec .signatureComplete s = .next s) ∧
    (∀ item rest, s.powered = true → s.on sitCoreRestarting 0 = false → s.sec.queue = item :: rest → s.Bounds →
      let i := s.rd secIdNextNext 0
      let e := s.rd secKeystateIdEnd 0
      let next := keyState (s.rd secKeystateKeysVer 0) (e + 1024)
      let sign := fun (m : Bytes) => Config.identitySign s.sec.keys.idKey i m
      i < 2 ^ 40 - 1024 → (i < e ∨ e = i ∧ ∃ slot c, s.prsActive 2 = some (slot, c) ∧ c.value ≠ next ∧ c.count + 1 < 190000000) →
      Answers .signatureComplete s fun u => u.rd secIdNextNext 0 = i + 1 ∧ u.sec.queue = rest ∧ u.sec.nonces = s.sec.nonces ∧
        u.rd secKeystateIdEnd 0 = (if i < e then e else e + 1024) ∧ u.sec.keys = s.sec.keys ∧
        (2 ^ 40 - 1024 - (i + 1) < 2 ^ 30 → u.rd secStateIdLow 0 = 1) ∧ (i + 1 = 2 ^ 40 - 1024 → u.rd secStateIdOut 0 = 1) ∧
        (∀ m, item = .ack o m → done u (m ++ sign m)) ∧
        (∀ b n, item = .report o b → s.sec.nonces.find? (fun n => n.value == field b 48 16) = some n →
          let body := u.report (field b 16 32) n.value n.dk
          done u (body ++ sign body)) ∧
        (∀ q pre x post, item = .batch q → s.meter.staging = pre ++ x :: post → x.seq = q → (∀ y ∈ pre, y.seq ≠ q) →
          let h := finalHeader x.header s.meter.prevDigest s.sec.keys.ver
          u.meter.staging = pre ++ { x with header := h, signature := some (sign h) } :: post ∧
            u.meter.prevDigest = leNat (digest32 h))) ∧
    (∀ src image, s.serves o 0x0402 →
      let j := 1 - s.sec.running
      let ver := field image 4 4
      (s.sourceReady src = false → exec (.fwLoad o src image) s = .next s) ∧
      (∀ c, s.sourceReady src = true → s.sourceRefusal src = some c → Replies (.fwLoad o src image) o c [] [] s) ∧
      (s.sourceReady src = true → s.sourceRefusal src = none → ∀ code good,
        (code = .s 338 ∧ good = false ∧ imageValid image = false) ∨
        (code = .s 339 ∧ good = false ∧ imageValid image = true ∧ ver < s.rd secFloorFloor 0) ∨
        (code = .s 0 ∧ good = true ∧ imageValid image = true ∧ s.rd secFloorFloor 0 ≤ ver) →
        Answers (.fwLoad o src image) s fun u => s.replied u o code [] ∧
          (u.sec.fw = s.sec.fw.set j (if good then ⟨true, ver, leNat (digest32 image)⟩ else ⟨false, 0, 0⟩) ∧
            u.sec.fwBytes = s.sec.fwBytes.set j image ∧ u.sec.running = s.sec.running) ∧
          Unchanged (replyGrains ++ [.one .firmware]) s u)) ∧
    (s.serves o 0x0403 →
      let j := 1 - s.sec.running
      (s.copyValid j = false → Replies (.fwActivate o) o (.s 340) [] [] s) ∧
      (∀ c, s.copyValid j = true → s.prsActive 4 = some (3, c) → c.value ≠ j → 200000000 ≤ c.count →
        Answers (.fwActivate o) s fun u => s.replied u o (.s 345) [] ∧ u.rd prsStatusRefusedSeen 0 = 1 ∧
          Unchanged (replyGrains ++ [prsStatusReg.grain]) s u) ∧
      (∀ slot c, s.Bounds → s.copyValid j = true → s.prsActive 4 = some (slot, c) → c.value ≠ j → c.count + 1 < 190000000 →
        Answers (.fwActivate o) s fun u => u.prsValue 4 = j ∧ u.rd secFwSelSel 0 = j ∧ u.rd sitCoreRestarting 0 = 1 ∧
          u.sit.restartCause = 1 ∧ (u.box o).st = 1 ∧ (u.box o).req.cmd = 0x0403 ∧ u.sec = s.sec ∧
          Unchanged [.one .fresh, .one .tileMem, .one .scratch, .one .const, .one .stack, .one .hostMem, .one .engines, .one .dampers,
            .one .boxes, .one .sitter, .one .persistent, feFseqReg.grain, secFwSelReg.grain, sitCoreReg.grain] s u)) ∧
    (∀ j, let locked := (∃ c, j = JtagInstr.debug c) ∧ s.on secStateDebug 0 = false;
      (s.powered = false ∨ s.power.trstN = false ∨ locked → exec (.testAccess j) s = .next s) ∧
      (s.powered = true → s.power.trstN = true → ¬locked → Answers (.testAccess j) s fun u =>
        u.power = { s.power with tap := some j } ∧ Unchanged [.one .power] s u))

/-- The management bus. Frames are filtered in the order of R365 and each drop is counted in its field and posted as S-320 to the
bus peers, at most once in each 10^9 tk; a frame that passes takes its packet number into the window. A request of a COMMAND peer is taken as a doorbell is,
a saved reply is sent again, and nothing is answered while the Sitter restarts; a time frame of a TIME peer is stamped with the wheel
count; frames of other kinds are dropped. The loss of PLCA beacons falls back to CSMA/CD and posts S-321 (R356, R359, R363-R367).
What the manual leaves open is settled as log 79 says. -/
def Obligations.ManagementBus : Prop :=
  ∀ (s : State),
    let alarm := fun (t : State) => if s.now < tget 0 s.sit.nextAt 10 then t.sit = s.sit
      else (∀ p ∈ s.busPeers, ∃ e ∈ tget [] t.sit.events (p + 3), e.code = .s 320) ∧ tget 0 t.sit.nextAt 10 = s.now + 1000000000
    let dropped := fun (f : Fld) (i : Instr) => Answers i s fun t => t.rd f 0 = min 65535 (s.rd f 0 + 1) ∧
      alarm t ∧ Unchanged [.one .events, .one .vectors, sitMgmtCntReg.grain] s t
    let right := fun (sci r : Nat) => ∃ e ∈ s.mgmt.peers, e.sci = sci ∧ bit e.rights r = true
    let requested := fun (p : Nat) (req : MbReq) (gs : List Grain) (i : Instr) =>
      let o := Origin.bus p
      (¬right p 0 ∨ s.on sitCoreRestarting 0 = true ∨ (s.box o).st = 1 → Answers i s fun t => t.sit = s.sit ∧ Unchanged gs s t) ∧
      (right p 0 → s.on sitCoreRestarting 0 = false → (s.box o).st ≠ 1 →
        (∀ r, (s.box o).reply = some r → r.seq = req.seq → Answers i s fun t => t.sit.boxes = s.sit.boxes ∧
          t.sit.busOut = (if s.on sitMgmtCfgTxEn 0 then s.sit.busOut ++ [(p, r.payload)] else s.sit.busOut) ∧
          Unchanged (.one .frames :: gs) s t) ∧
        ((∀ r, (s.box o).reply = some r → r.seq ≠ req.seq) →
          (s.gate o req.cmd = none → req.malformed = false → Answers i s fun t => (t.box o).st = 1 ∧ (t.box o).req = req ∧
            (t.box o).crossed = false ∧ Unchanged (.one .boxes :: gs) s t) ∧
          (∀ c, s.gate o req.cmd = some c ∨ (s.gate o req.cmd = none ∧ req.malformed = true ∧ c = .s 302) →
            Answers i s fun t => (t.box o).st = 2 ∧ (t.box o).reply = some ⟨req.seq, req.tag, c, false, []⟩ ∧
              Unchanged (.one .boxes :: .one .frames :: gs) s t)))
    (∀ f : MgmtFrame,
      let known := ∃ e ∈ s.mgmt.peers, e.sci = f.sci
      (s.powered = false → exec (.mgmtFrame f) s = .next s) ∧
      (s.powered = true →
        (f.fcsOk = false → dropped sitMgmtCntNoise (.mgmtFrame f)) ∧
        (f.fcsOk = true → f.secTag = false ∨ ¬known → dropped sitMgmtCntStranger (.mgmtFrame f)) ∧
        (f.fcsOk = true → f.secTag = true → known →
          (s.frameSa f = none ∨ f.icvOk = false → dropped sitMgmtCntBadIcv (.mgmtFrame f)) ∧
          (∀ i, s.frameSa f = some i → f.icvOk = true →
            let next := tget 0 s.mgmt.seen i
            (f.pn + 16 < next → dropped sitMgmtCntReplay (.mgmtFrame f)) ∧
            (next ≤ f.pn + 16 →
              (Answers (.mgmtFrame f) s fun t => t.mgmt.seen = tset 0 s.mgmt.seen i (max next (f.pn + 1)) ∧ t.mgmt.peers = s.mgmt.peers) ∧
              (f.kind = 1 → requested f.sci f.req [.one .bus] (.mgmtFrame f)) ∧
              (f.kind = 3 → Answers (.mgmtFrame f) s fun t => (right f.sci 1 → t.mgmt.time = some (f.tai, s.now)) ∧
                (¬right f.sci 1 → t.mgmt.time = s.mgmt.time) ∧ Unchanged [.one .bus] s t) ∧
              (f.kind = 2 ∨ f.kind = 4 → Answers (.mgmtFrame f) s fun t =>
                t.mgmt = { s.mgmt with seen := tset 0 s.mgmt.seen i (max next (f.pn + 1)) } ∧ Unchanged [.one .bus] s t) ∧
              (f.kind = 0 ∨ 4 < f.kind → Answers (.mgmtFrame f) s fun t =>
                t.rd sitMgmtCntStranger 0 = min 65535 (s.rd sitMgmtCntStranger 0 + 1) ∧
                alarm t ∧ Unchanged [.one .events, .one .vectors, .one .bus, sitMgmtCntReg.grain] s t)))))) ∧
    (∀ p req, (s.powered = false → exec (.mgmtRequest p req) s = .next s) ∧
      (s.powered = true → right p 0 → s.on sitCoreRestarting 0 = false → (s.box (.bus p)).st ≠ 1 → s.gate (.bus p) req.cmd = none →
        req.malformed = false → (∀ r, (s.box (.bus p)).reply = some r → r.seq ≠ req.seq) →
        Answers (.mgmtRequest p req) s fun t => (t.box (.bus p)).st = 1 ∧ (t.box (.bus p)).req = req ∧ Unchanged [.one .boxes] s t) ∧
      (s.powered = true → requested p req [] (.mgmtRequest p req))) ∧
    (∀ p tai, (s.powered = false ∨ ¬right p 1 → exec (.mgmtTime p tai) s = .next s) ∧
      (s.powered = true → right p 1 → Answers (.mgmtTime p tai) s fun t => t.mgmt = { s.mgmt with time := some (tai, s.now) } ∧
        Unchanged [.one .bus] s t)) ∧
    (let on := s.powered = true ∧ s.rd sitMgmtCfgNodeId 0 ≠ 0 ∧ s.rd sitMgmtCfgNodeId 0 ≠ 255;
      (¬on → exec .plcaBeaconLoss s = .next s) ∧
      (on → Answers .plcaBeaconLoss s fun t => t.mgmt = { s.mgmt with csma := true } ∧
        (∀ p ∈ s.busPeers, ∃ e ∈ tget [] t.sit.events (p + 3), e.code = .s 321) ∧ Unchanged [.one .events, .one .vectors, .one .bus] s t))

/-- Metering. A window that ends is measured: MTR_WIN shows it, its whole energy joins the records of the batch in progress
(R405, R407), and at a boundary where the batch is due it is sealed, staged, queued for its signature and announced, and the
next batch starts with the active tables; a batch also seals when it is full. The input chain's loss sets METER_FAIL and posts
F-196; its return clears it. meter.seal asks for a seal; meter.batch fetches, releases and proves staged batches, S-353 for
one that is not staged or not yet signed (R399-R415).
A window ends on a sample boundary, and a batch that follows a gap says so in its flags and in GAP_SEEN. A fetched batch is a large reply,
kept as it is and handed to the host or, 1,400 bytes at a time, to the bus (R378, R399, R412).
What the manual leaves open is settled as log 87, 89, 91 and 132 say. -/
def Obligations.Metering : Prop :=
  ∀ (s : State),
    (∀ w : WindowSample,
      let off := s.powered = false ∨ s.wheel.running = false ∨ s.meter.pfClosed = true ∨ (w.powerFail = true ∧ s.power.seq = none)
      let edge := s.windowEnd w.powerFail
      let stop := (s.advanceTo edge).now
      let x := measureWindow s.calInForce w (s.meter.failedIn || !s.meter.inputOk) s.fresh
      let due := w.powerFail = true ∨ s.meter.sealAsked = true ∨ s.meter.batchStart + s.sealTicks ≤ stop
      let energy := fun (m : Meter) => (m.recs.map ERec.energy).sum
      let joined := fun (t : State) => t.meter.windows = s.meter.windows + 1 ∧ t.meter.ein = s.meter.ein + x.ein ∧
        energy t.meter = energy s.meter + x.ein ∧ t.meter.uncMax = max s.meter.uncMax x.unc ∧
        t.meter.batchStart = s.meter.batchStart ∧ t.meter.staging = s.meter.staging ∧ t.sec = s.sec ∧ t.sit.busOut = s.sit.busOut ∧
        t.rd mtrBatchNextSeq 0 = s.rd mtrBatchNextSeq 0 ∧ (t.meter.recs.filter ERec.isFiring).length < 65534
      let sealed := fun (t : State) (b : Staged) => t.meter.staging = s.meter.staging ++ [b] ∧ b.seq = s.rd mtrBatchNextSeq 0 ∧
        b.signature = none ∧ b.ein = (s.meter.ein + x.ein) / 1000 ∧ (bit b.flags 6 = true ↔ w.powerFail = true) ∧
        t.rd mtrBatchNextSeq 0 = (s.rd mtrBatchNextSeq 0 + 1) % 2 ^ 64 ∧ t.sec = { s.sec with queue := s.sec.queue ++ [.batch b.seq] } ∧
        (t.meter.recs = [] ∧ t.meter.windows = 0 ∧ t.meter.ein = 0 ∧ t.meter.batchStart = edge ∧ t.meter.sealAsked = false) ∧
        (∀ a c, s.meter.cal[s.rd prsCopySelCal 0]? = some a → s.meter.rules[s.rd prsCopySelRules 0]? = some c →
          t.meter.calNow = a ∧ t.meter.rulesNow = c) ∧
        (∃ msg, t.sit.busOut = if s.on sitMgmtCfgTxEn 0 then s.sit.busOut ++
          ((s.mgmt.peers.filter fun e => bit e.rights 2).map (·.sci)).eraseDups.map (fun p => (p, b.seq :: msg)) else s.sit.busOut) ∧
        (s.meter.gap = true → bit b.flags 8 = true ∧ t.rd mtrStatusGapSeen 0 = 1) ∧
        (s.stagingFull = false → t.stagingFull = true → ∃ e ∈ tget [] t.sit.events 2, e.code = .s 352)
      (off → exec (.meterWindowClose w) s = .next s) ∧
      (¬off → Answers (.meterWindowClose w) s fun t =>
        t.now = stop ∧ edge % 500 = 0 ∧ t.meter.winStart = edge ∧ t.meter.pfClosed = w.powerFail ∧ t.meter.failedIn = !s.meter.inputOk ∧
        t.rd mtrWinEIn 0 = min (x.ein / 1000000) (2 ^ 32 - 1) ∧ t.rd mtrWinUnc 0 = x.unc % 2 ^ 16 ∧
        t.rd mtrStatusExtrapNow 0 = x.flags % 2 ∧
        (bit x.flags 2 = true → t.rd mtrStatusCloseFailSeen 0 = 1 ∧
          (s.meter.closeFailPosted = false → ∃ e ∈ tget [] t.sit.events 2, e.code = .s 350)) ∧
        (due → ∃ b, sealed t b) ∧
        (¬due → joined t ∨ ∃ b, sealed t b ∧ 65536 ≤ b.records.length) ∧
        Unchanged [.one .fresh, .one .events, .one .vectors, .one .frames, .one .signing, .one .meter, mtrBatchReg.grain,
          mtrStatusReg.grain, mtrWinReg.grain, whlCountReg.grain] s t)) ∧
    ((s.powered = false ∨ s.meter.inputOk = false → exec .meterInputFail s = .next s) ∧
      (s.powered = true → s.meter.inputOk = true → Answers .meterInputFail s fun t => t.rd mtrStatusMeterFail 0 = 1 ∧
        t.meter = { s.meter with inputOk := false, failedIn := true } ∧ (∃ e ∈ tget [] t.sit.events 2, e.code = .f 196) ∧
        Unchanged [.one .events, .one .vectors, .one .meter, mtrStatusReg.grain] s t)) ∧
    ((s.powered = false ∨ s.meter.inputOk = true → exec .meterInputReturn s = .next s) ∧
      (s.powered = true → s.meter.inputOk = false → Answers .meterInputReturn s fun t => t.rd mtrStatusMeterFail 0 = 0 ∧
        t.meter = { s.meter with inputOk := true } ∧ Unchanged [.one .meter, mtrStatusReg.grain] s t)) ∧
    (∀ o, s.serves o 0x0300 → Answers (.meterSeal o) s fun t => s.replied t o (.s 0) [] ∧
      t.meter = { s.meter with sealAsked := true } ∧ Unchanged (replyGrains ++ [.one .meter]) s t) ∧
    (∀ o seq, s.serves o 0x0301 →
      let place := (s.box o).req.place
      let first := ∀ p, o = .bus p → place = 0
      (∀ p, o = .bus p → place ≠ 0 → Replies (.meterBatchFetch o seq) o (.s 0) (largePart (s.box o).large place) [] s) ∧
      (s.staged seq = none → (first → Replies (.meterBatchFetch o seq) o (.s 353) [] [] s) ∧
        ∀ i, Replies (.meterBatchProof o seq i) o (.s 353) [] [] s) ∧
      (∀ b, s.staged seq = some b →
        (first → Answers (.meterBatchFetch o seq) s fun t => (t.box o).st = 2 ∧
          (∃ sig, (t.box o).large = b.header ++ sig ++ b.records.flatten ∧ sig.length = (b.signature.map List.length).getD 9893 ∧
            ∀ g, b.signature = some g → sig = g) ∧
          (∃ r, (t.box o).reply = some r ∧ r.status = .s 0 ∧ match o with
            | .box _ _ => t.mem.host = if s.hostReady then (s.writeSpace 5 place (t.box o).large).mem.host else s.mem.host
            | .bus _ => t.mem.host = s.mem.host ∧ r.payload = largePart (t.box o).large place) ∧
          Unchanged (.one .fresh :: .one .hostMem :: replyGrains) s t) ∧
        (∀ i, b.records.length ≤ i → Replies (.meterBatchProof o seq i) o (.s 302) [] [] s) ∧
        (∀ i r, b.records[i]? = some r → Replies (.meterBatchProof o seq i) o (.s 0)
          (leNat r :: (merklePath 17 i (b.records.map leafHash)).map leNat) [] s)) ∧
      ((∃ b ∈ s.meter.staging, b.seq ≤ seq ∧ b.signature = none) → Replies (.meterBatchRelease o seq) o (.s 353) [] [] s) ∧
      ((∀ b ∈ s.meter.staging, b.seq ≤ seq → b.signature ≠ none) → Answers (.meterBatchRelease o seq) s fun t =>
        s.replied t o (.s 0) [] ∧
        (∀ b, b ∈ t.meter.staging ↔ b ∈ s.meter.staging ∧ (seq < b.seq ∨ some b.seq = s.meter.staging.getLast?.map (·.seq))) ∧
        Unchanged (replyGrains ++ [.one .meter]) s t))

/-- Rest points, ageing and the module resets. A rest point waits for firings that cannot be switched out, then brings in the
spares for what was flagged, forgets the flags, reports the geometry of the repair map and ends; the one of a warm reset
ends the reset. A monitor that acts at once does what the fault itself does; the others flag their part for the next rest
point. repair.status replies the geometry, the ledger, the column maps and the repair events. reset.warm and reset.cold are
refused with S-363 during a reset or the power-fail sequence; the warm one keeps every firing for replay, the cold one logs
POWER_MARK and ends service, and so does one in the ctl cycle in which a warm reset began, in its place (Table 16.6). The states named
as busy are those of the warm reset, but for recovery within it, the power-fail sequence and a cold reset or module fault (R153, R154, R177, R355, R418-R427).
What the manual leaves open is settled as log 37, 38, 95, 97 and 107 say. -/
def Obligations.Service : Prop :=
  ∀ (s : State),
    (∀ f : RestFindings,
      let out := s.switchAllOut.restWaits
      let warm := s.svc.phase = .warm ∧ s.on sitCoreRestarting 0 = false ∧ s.recovering = false
      (s.svc.resting = false ∨ (s.svc.phase ≠ .service ∧ ¬warm) → exec (.restPoint f) s = .next s) ∧
      (s.svc.resting = true → s.svc.phase = .service → out = true → Answers (.restPoint f) s fun t =>
        t.svc = s.svc ∧ t.rep = s.rep ∧ t.restWaits = true ∧ t.regPart (regNo tileColmapReg.block tileColmapReg.off) =
          s.regPart (regNo tileColmapReg.block tileColmapReg.off)) ∧
      (s.svc.resting = true → (s.svc.phase = .service ∧ out = false) ∨ warm → Answers (.restPoint f) s fun t =>
        t.svc = { s.svc with resting := false, phase := .service } ∧ t.rd modRestStatusLastUs 0 = min f.us 65535 ∧
        t.rep.dqFlagged = [] ∧ t.rep.rowsFlagged = [] ∧ t.rep.colsFlagged = [] ∧ t.rd modGeomGeomId 0 % 2 ^ 32 = t.geomId % 2 ^ 32 ∧
        (f.sitterSpareBad = true → t.rd sitCoreSpare 0 = 3) ∧ (f.sitterSpareBad = false → t.rd sitCoreSpare 0 = s.rd sitCoreSpare 0) ∧
        (∀ n c, s.rep.dqFlagged = [(n, c)] → c < 17 → s.rd stkDqSpareLeft n < 2 ^ 34 → t.dqLeft n c = s.dqLeft n c - 1) ∧
        (s.rep.dqFlagged = [] → ∀ n, t.rd stkDqSpareLeft n = s.rd stkDqSpareLeft n) ∧
        (∀ x c, s.rep.colsFlagged ++ f.cols = [(x, c)] → c ≤ 16 → s.rd tileColmapOut (tileInst x) = 0 →
          let i := tileInst x
          (s.rd tileColmapBypass1 i = 31 → s.rd tileColmapBypass2 i ≠ c → t.rd tileColmapBypass1 i = c) ∧
          (s.rd tileColmapBypass1 i < 17 → s.rd tileColmapBypass1 i ≠ c → s.rd tileColmapBypass2 i = 31 →
            t.rd tileColmapBypass2 i = c ∧ t.rd tileColmapNarrow i = 1)) ∧
        (s.rep.colsFlagged ++ f.cols = [] → ∀ i, t.rd tileColmapBypass1 i = s.rd tileColmapBypass1 i ∧
          t.rd tileColmapBypass2 i = s.rd tileColmapBypass2 i ∧ t.rd tileColmapNarrow i = s.rd tileColmapNarrow i))) ∧
    (let flagged := fun (m : Monitor) (f : Repair → Repair) => (s.powered = false → exec (.ageingThreshold m) s = .next s) ∧
        (s.powered = true → Answers (.ageingThreshold m) s fun t => t.rep = f s.rep ∧ Unchanged [.one .repair] s t);
      (∀ n c, n < 16 → c < 17 → flagged (.dqLane n c) fun r => { r with dqFlagged := r.dqFlagged ++ [(n, c)] }) ∧
      (∀ k sh, k < 8 → sh < 160 → flagged (.scratchRow k sh) fun r => { r with rowsFlagged := r.rowsFlagged ++ [(k, sh)] }) ∧
      (∀ x c, tileInstOk (tileInst x) = true → c < 17 → flagged (.column x c) fun r => { r with colsFlagged := r.colsFlagged ++ [(x, c)] }) ∧
      (∀ n c out, c < 16 → exec (.ageingThreshold (.reconRate n c out)) s = exec (.channelFail n c out) s) ∧
      (∀ k sh, exec (.ageingThreshold (.scratchBank k sh)) s = exec (.shelfFault k sh) s) ∧
      (∀ d l, exec (.ageingThreshold (.fabricLane d l)) s = exec (.laneFail d l) s) ∧
      (∀ rail, exec (.ageingThreshold (.phase rail)) s = exec (.regulatorPhaseFail rail) s)) ∧
    (∀ o, s.serves o 0x0170 → Replies (.repairStatus o) o (.s 0)
      ([s.rd modGeomGeomId 0, leNat s.geomBytes, (16 - s.rep.lostStacks.length) * 2 ^ 36] ++ s.sparesLedger ++ s.columnMaps ++
        s.rep.events.flatMap fun e => [e.kind, e.unit, e.count, e.turn]) [] s) ∧
    (∀ o,
      let busy := s.power.seq ≠ none ∨ (s.svc.phase = .warm ∧ s.recovering = false) ∨ ∃ c, s.svc.phase = .down c
      let instead := s.svc.phase = .warm ∧ s.power.seq = none ∧ s.on sitCoreRestarting 0 = true ∧ s.sit.restartCause = 2 ∧
        s.gate o 0x0501 = none
      (s.serves o 0x0500 →
        (busy → Replies (.resetWarm o) o (.s 363) [] [] s) ∧
        (¬busy → Answers (.resetWarm o) s fun t => t.svc.phase = .warm ∧ t.svc.resting = true ∧ t.power.seq = none ∧
          t.rd modResetLastKind 0 = 2 ∧ t.rd modResetCause 0 = 4 ∧ t.rd sitCoreRestarting 0 = 1 ∧ t.passes = [] ∧
          (t.box o).st = 1 ∧ (t.box o).req.cmd = 0x0500 ∧ t.fe.log = s.fe.log ∧ t.fe.graphs = s.fe.graphs ∧
          (s.svc.resting = false → t.prs = s.prs) ∧ (s.flue.opened = [] → t.fe.firings.map (·.fseq) = s.fe.firings.map (·.fseq) ∧
          ∀ q g, s.firing? q = some g → g.ending = false → g.launched = true →
            ∃ h, t.firing? q = some h ∧ h.st = .faulted ∧ h.snap = g.snap))) ∧
      let cold := fun (t : State) => t.svc.phase = .down (s.svc.phase.endCode 165) ∧ t.svc.causeNext = 1 ∧
        t.svc.resting = false ∧ t.power.seqLive = false ∧ t.passes = [] ∧ (∀ e, (t.engine e).held = []) ∧ t.flue.waits = [] ∧
        (∃ r ∈ t.fe.log, r.kind = 4 ∧ r.pos = s.fe.nextPos) ∧ t.fe.nextPos = (s.fe.nextPos + 1) % 786432 ∧
        t.fe.firings = s.fe.firings ∧ t.prs = s.prs ∧ t.sit.boxes = s.sit.boxes
      (s.powered = true → instead → Answers (.resetCold o true) s cold) ∧
      (∀ same, s.serves o 0x0501 →
        (busy → Replies (.resetCold o same) o (.s 363) [] [] s) ∧
        (¬busy → Answers (.resetCold o same) s cold)))
/-- The frames of all commands: whatever a command answers, refused, waiting or done, it leaves every part of the state
outside its frame as it was (`frameOf`): every other register, every memory, every queue, counter and list. A reply of a
mailbox command changes the mailboxes, the vectors raised and the frames sent; a command of the units, the ports, the wheel
or the host's other accesses changes what its rules name (R356-R362).
What the manual leaves open is settled as log 14 and 16 say. -/
def Obligations.CommandFrames : Prop := ∀ i : Instr, ChangesOnly i (frameOf i)
end

