-- ==== Sys2Proof/Laws/Tables.lean ====
section
/-! SUPPORT. Laws/Tables.lean: reading a table after a change, and the order of its keys. -/

namespace Sys2Proof.Machine

set_option Elab.async false

variable {α : Type}

theorem tget_tput_same (d : α) (t : Tab α) (k : Nat) (v : α) : tget d (tput t k v) k = v := by
  induction t with
  | nil => simp [tput, tget]
  | cons p r ih =>
    simp only [tput]
    split
    · simp [tget]
    · split
      · simp [tget]
      · rename_i h₁ h₂
        have : p.1 ≠ k := fun e => h₂ e.symm
        simp [tget, this, ih]

theorem tget_tput_other (d : α) (t : Tab α) {k j : Nat} (v : α) (h : j ≠ k) : tget d (tput t k v) j = tget d t j := by
  induction t with
  | nil => simp [tput, tget, Ne.symm h]
  | cons p r ih =>
    simp only [tput]
    split
    · simp [tget, Ne.symm h]
    · split
      · rename_i _ e
        simp [tget, ← e, Ne.symm h]
      · simp [tget, ih]

theorem tget_tdel_same (d : α) (t : Tab α) (k : Nat) : tget d (tdel t k) k = d := by
  induction t with
  | nil => rfl
  | cons p r ih =>
    simp only [tdel, List.filter_cons] at ih ⊢
    split
    · rename_i h
      have : p.1 ≠ k := by simpa using h
      simp only [tget, if_neg this]; exact ih
    · exact ih

theorem tget_tdel_other (d : α) (t : Tab α) {k j : Nat} (h : j ≠ k) : tget d (tdel t k) j = tget d t j := by
  induction t with
  | nil => rfl
  | cons p r ih =>
    simp only [tdel, List.filter_cons] at ih ⊢
    split
    · simp only [tget]; split
      · rfl
      · exact ih
    · rename_i e
      have e : p.1 = k := by simpa using e
      have : p.1 ≠ j := fun q => h (q.symm.trans e)
      simp only [tget, if_neg this]; exact ih

theorem tget_tset_same [DecidableEq α] (d : α) (t : Tab α) (k : Nat) (v : α) : tget d (tset d t k v) k = v := by
  simp only [tset]; split
  · rename_i h; rw [tget_tdel_same, h]
  · exact tget_tput_same d t k v

theorem tget_tset_other [DecidableEq α] (d e : α) (t : Tab α) {k j : Nat} (v : α) (h : j ≠ k) :
    tget d (tset e t k v) j = tget d t j := by
  simp only [tset]; split
  · exact tget_tdel_other d t h
  · exact tget_tput_other d t v h

/-! ### Keys strictly rise -/

theorem tsorted_cons {p : Nat × α} {r : Tab α} : tsorted (p :: r) = true ↔ tsorted r = true ∧ ∀ q ∈ r, p.1 < q.1 := by
  induction r generalizing p with
  | nil => simp [tsorted]
  | cons q r ih =>
    simp only [tsorted, Bool.and_eq_true, decide_eq_true_eq]
    constructor
    · rintro ⟨h, s⟩
      refine ⟨s, fun x hx => ?_⟩
      rcases List.mem_cons.1 hx with rfl | hx
      · exact h
      · exact Nat.lt_trans h ((ih.1 s).2 x hx)
    · rintro ⟨s, h⟩
      exact ⟨h q (by simp), s⟩

theorem tsorted_filter (f : Nat × α → Bool) {t : Tab α} (h : tsorted t = true) : tsorted (t.filter f) = true := by
  induction t with
  | nil => rfl
  | cons p r ih =>
    obtain ⟨s, lt⟩ := tsorted_cons.1 h
    simp only [List.filter_cons]; split
    · exact tsorted_cons.2 ⟨ih s, fun q hq => lt q (List.mem_filter.1 hq).1⟩
    · exact ih s

theorem mem_tput {t : Tab α} {k : Nat} {v : α} {q : Nat × α} (h : q ∈ tput t k v) : q = (k, v) ∨ q ∈ t := by
  induction t with
  | nil => simpa [tput] using h
  | cons p r ih =>
    simp only [tput] at h
    split at h
    · simpa using h
    · split at h
      · rcases List.mem_cons.1 h with h | h
        · exact .inl h
        · exact .inr (List.mem_cons_of_mem _ h)
      · rcases List.mem_cons.1 h with h | h
        · exact .inr (by simp [h])
        · exact (ih h).imp id (List.mem_cons_of_mem _)

theorem tsorted_tput {t : Tab α} (k : Nat) (v : α) (h : tsorted t = true) : tsorted (tput t k v) = true := by
  induction t with
  | nil => rfl
  | cons p r ih =>
    obtain ⟨s, lt⟩ := tsorted_cons.1 h
    simp only [tput]
    split
    · rename_i kp
      refine tsorted_cons.2 ⟨h, fun q hq => ?_⟩
      rcases List.mem_cons.1 hq with rfl | hq
      · exact kp
      · exact Nat.lt_trans kp (lt q hq)
    · split
      · rename_i _ e
        exact tsorted_cons.2 ⟨s, fun q hq => by rw [e]; exact lt q hq⟩
      · rename_i a b
        refine tsorted_cons.2 ⟨ih s, fun q hq => ?_⟩
        rcases mem_tput hq with rfl | hq
        · exact Nat.lt_of_le_of_ne (Nat.le_of_not_lt a) (fun e => b e.symm)
        · exact lt q hq

theorem tsorted_tdel {t : Tab α} (k : Nat) (h : tsorted t = true) : tsorted (tdel t k) = true := tsorted_filter _ h

theorem mem_tset [DecidableEq α] {d : α} {t : Tab α} {k : Nat} {v : α} {q : Nat × α} (h : q ∈ tset d t k v) :
    q = (k, v) ∨ q ∈ t := by
  simp only [tset] at h; split at h
  · exact .inr (List.mem_filter.1 h).1
  · exact mem_tput h

theorem tsorted_tset [DecidableEq α] {d : α} {t : Tab α} (k : Nat) (v : α) (h : tsorted t = true) :
    tsorted (tset d t k v) = true := by
  simp only [tset]; split
  · exact tsorted_tdel k h
  · exact tsorted_tput k v h

/-! ### A selection of keys that a change leaves out -/

theorem filter_tdel (f : Nat × α → Bool) (t : Tab α) {k : Nat} (h : ∀ v, f (k, v) = false) :
    (tdel t k).filter f = t.filter f := by
  rw [tdel, List.filter_filter]
  refine List.filter_congr fun p _ => ?_
  by_cases e : p.1 = k
  · have : f p = false := by rw [show p = (k, p.2) from by rw [← e]]; exact h _
    simp [this]
  · simp [e]

theorem filter_tput (f : Nat × α → Bool) (t : Tab α) {k : Nat} (v : α) (h : ∀ v, f (k, v) = false) :
    (tput t k v).filter f = t.filter f := by
  induction t with
  | nil => simp [tput, h]
  | cons p r ih =>
    simp only [tput]
    split
    · simp [List.filter_cons, h]
    · split
      · rename_i _ e
        have : f p = false := by rw [show p = (k, p.2) from by rw [e]]; exact h _
        simp [h, this]
      · simp only [List.filter_cons, ih]

theorem filter_tset [DecidableEq α] (f : Nat × α → Bool) (d : α) (t : Tab α) {k : Nat} (v : α)
    (h : ∀ v, f (k, v) = false) : (tset d t k v).filter f = t.filter f := by
  simp only [tset]; split
  · exact filter_tdel f t h
  · exact filter_tput f t v h

end Sys2Proof.Machine
end

