-- ==== Sys2Proof/Laws/Memory.lean ====
section
/-! SUPPORT. Laws/Memory.lean: what a byte reads as after a write, and that every memory operation keeps the
canonical form. -/

namespace Sys2Proof.Machine

set_option Elab.async false

theorem mlookup_tput_same (t : List Host.Cell) (a : Nat) (b : Byte) : mlookup (tput t a b) a = some b := by
  induction t with
  | nil => simp [tput, mlookup]
  | cons p r ih =>
    simp only [tput]
    split
    · simp [mlookup]
    · split
      · simp [mlookup]
      · rename_i _ n
        simp [mlookup, Ne.symm n, ih]

theorem mlookup_tput_other (t : List Host.Cell) {a c : Nat} (b : Byte) (h : c ≠ a) :
    mlookup (tput t a b) c = mlookup t c := by
  induction t with
  | nil => simp [tput, mlookup, Ne.symm h]
  | cons p r ih =>
    simp only [tput]
    split
    · simp [mlookup, Ne.symm h]
    · split
      · rename_i _ e
        simp [mlookup, ← e, Ne.symm h]
      · simp [mlookup, ih]

theorem mlookup_tdel_same (t : List Host.Cell) (a : Nat) : mlookup (tdel t a) a = none := by
  induction t with
  | nil => rfl
  | cons p r ih =>
    simp only [tdel, List.filter_cons] at ih ⊢
    split
    · rename_i h
      have : p.1 ≠ a := by simpa using h
      simp only [mlookup, if_neg this]; exact ih
    · exact ih

theorem mlookup_tdel_other (t : List Host.Cell) {a c : Nat} (h : c ≠ a) : mlookup (tdel t a) c = mlookup t c := by
  induction t with
  | nil => rfl
  | cons p r ih =>
    simp only [tdel, List.filter_cons] at ih ⊢
    split
    · simp only [mlookup]; split
      · rfl
      · exact ih
    · rename_i e
      have e : p.1 = a := by simpa using e
      have : p.1 ≠ c := fun q => h (q.symm.trans e)
      simp only [mlookup, if_neg this]; exact ih

theorem mundef_iff (m : Memory) (a : Nat) : mundef m a = true ↔ ∃ e ∈ m.undef, e.covers a = true := by
  simp [mundef]

/-- A byte just written reads back. -/
theorem mread_mwrite_same (m : Memory) (a : Nat) (b : Byte) : mread (mwrite m a b) a = b := by
  simp only [mread, mwrite]
  split
  · rename_i h
    obtain ⟨z, u⟩ := h
    have none_covers : m.undef.find? (·.covers a) = none := by
      simp only [mundef, List.any_eq_false] at u
      simpa using u
    simp [mlookup_tdel_same, mbackground, none_covers, z]
  · simp [mlookup_tput_same]

/-- Writing one byte leaves every other byte as it was. -/
theorem mread_mwrite_other (m : Memory) {a c : Nat} (b : Byte) (h : c ≠ a) : mread (mwrite m a b) c = mread m c := by
  simp only [mread, mwrite, mbackground]
  split
  · rw [mlookup_tdel_other _ h]
  · rw [mlookup_tput_other _ b h]

/-- Writing a run of bytes leaves the bytes outside it as they were. -/
theorem mread_mwriteN_other (m : Memory) (a : Nat) (d : Bytes) {c : Nat} (h : c < a ∨ a + d.length ≤ c) :
    mread (mwriteN m a d) c = mread m c := by
  induction d generalizing m a with
  | nil => rfl
  | cons b r ih =>
    simp only [mwriteN, List.length_cons] at h ⊢
    rw [ih _ _ (by omega), mread_mwrite_other _ _ (by omega)]

/-- Every byte of a run just written reads back. -/
theorem mread_mwriteN (m : Memory) (a : Nat) (d : Bytes) {i : Nat} (h : i < d.length) :
    mread (mwriteN m a d) (a + i) = d[i] := by
  induction d generalizing m a i with
  | nil => simp at h
  | cons b r ih =>
    simp only [mwriteN]
    cases i with
    | zero => rw [mread_mwriteN_other _ _ _ (by omega)]; exact mread_mwrite_same _ _ _
    | succ i =>
      rw [show a + (i + 1) = a + 1 + i from by omega, ih]
      · rfl

theorem mreadN_length (m : Memory) (a n : Nat) : (mreadN m a n).length = n := by
  induction n generalizing a with
  | zero => rfl
  | succ n ih => simp [mreadN, ih]

/-- Reading back a run just written gives what was written. -/
theorem mreadN_mwriteN (m : Memory) (a : Nat) (d : Bytes) : mreadN (mwriteN m a d) a d.length = d := by
  have read : ∀ (m : Memory) (a n : Nat) (i : Nat) (h : i < (mreadN m a n).length), (mreadN m a n)[i] = mread m (a + i) := by
    intro m a n
    induction n generalizing a with
    | zero => intro i h; simp [mreadN] at h
    | succ n ih =>
      intro i h
      cases i with
      | zero => rfl
      | succ i => simp only [mreadN, List.getElem_cons_succ]; rw [ih]; congr 1; omega
  refine List.ext_getElem (mreadN_length _ _ _) fun i h₁ h₂ => ?_
  rw [read, mread_mwriteN _ _ _ h₂]

/-! ### The canonical form -/

theorem Memory.wf_iff (m : Memory) :
    m.wf = true ↔ tsorted m.cells = true ∧ ∀ p ∈ m.cells, p.2 = 0 → mundef m p.1 = true := by
  simp only [Memory.wf, Bool.and_eq_true, List.all_eq_true, Bool.or_eq_true, decide_eq_true_eq]
  constructor
  · rintro ⟨s, h⟩
    exact ⟨s, fun p hp z => (h p hp).resolve_left (fun n => n z)⟩
  · rintro ⟨s, h⟩
    refine ⟨s, fun p hp => ?_⟩
    by_cases z : p.2 = 0
    · exact .inr (h p hp z)
    · exact .inl z

theorem Memory.empty_wf : Memory.empty.wf = true := rfl

theorem mwrite_wf {m : Memory} (a : Nat) (b : Byte) (h : m.wf = true) : (mwrite m a b).wf = true := by
  obtain ⟨s, z⟩ := m.wf_iff.1 h
  refine (Memory.wf_iff _).2 ?_
  simp only [mwrite]
  split
  · exact ⟨tsorted_tdel a s, fun p hp => z p (List.mem_filter.1 hp).1⟩
  · rename_i n
    refine ⟨tsorted_tput a b s, fun p hp e => ?_⟩
    rcases mem_tput hp with rfl | hp
    · have : ¬mundef m a = false := fun u => n ⟨e, u⟩
      simpa [mundef] using this
    · exact z p hp e

theorem mwriteN_wf {m : Memory} (a : Nat) (d : Bytes) (h : m.wf = true) : (mwriteN m a d).wf = true := by
  induction d generalizing m a with
  | nil => exact h
  | cons b r ih => exact ih _ (mwrite_wf a b h)

theorem mforget_wf {m : Memory} (start len stamp : Nat) (h : m.wf = true) : (mforget m start len stamp).wf = true := by
  obtain ⟨s, z⟩ := m.wf_iff.1 h
  refine (Memory.wf_iff _).2 ⟨tsorted_filter _ s, fun p hp e => ?_⟩
  obtain ⟨hp, out⟩ := List.mem_filter.1 hp
  obtain ⟨x, hx, c⟩ := (mundef_iff m p.1).1 (z p hp e)
  refine (mundef_iff _ _).2 ⟨x, List.mem_cons_of_mem _ (List.mem_filter.2 ⟨hx, ?_⟩), c⟩
  simp only [Extent.covers, Bool.not_eq_true', Bool.and_eq_true, Bool.and_eq_false_iff, decide_eq_true_eq,
    decide_eq_false_iff_not] at out c ⊢
  omega

theorem mclear_wf {m : Memory} (start len : Nat) (h : m.wf = true) : (mclear m start len).wf = true := by
  obtain ⟨s, z⟩ := m.wf_iff.1 h
  refine (Memory.wf_iff _).2 ⟨tsorted_filter _ s, fun p hp e => ?_⟩
  obtain ⟨hp, out⟩ := List.mem_filter.1 hp
  obtain ⟨x, hx, c⟩ := (mundef_iff m p.1).1 (z p hp e)
  simp only [Extent.covers, Bool.not_eq_true', Bool.and_eq_true, Bool.and_eq_false_iff, decide_eq_true_eq,
    decide_eq_false_iff_not] at out c
  rw [mundef_iff]
  simp only [mclear, List.mem_flatMap, List.mem_append]
  rcases Nat.lt_or_ge p.1 start with lo | hi
  · refine ⟨⟨x.start, min x.len (start - x.start), x.stamp⟩, ⟨x, hx, .inl ?_⟩, ?_⟩
    · rw [if_pos (by omega)]; simp
    · simp [Extent.covers]; omega
  · refine ⟨⟨max x.start (start + len), x.start + x.len - max x.start (start + len), x.stamp⟩, ⟨x, hx, .inr ?_⟩, ?_⟩
    · rw [if_pos (by omega)]; simp
    · simp [Extent.covers]; omega

theorem wf_more_undef {m : Memory} (l : List Extent) (h : m.wf = true) : ({ m with undef := l ++ m.undef } : Memory).wf = true := by
  obtain ⟨s, z⟩ := m.wf_iff.1 h
  refine (Memory.wf_iff _).2 ⟨s, fun p hp e => ?_⟩
  obtain ⟨x, hx, c⟩ := (mundef_iff m p.1).1 (z p hp e)
  exact (mundef_iff _ _).2 ⟨x, List.mem_append_right _ hx, c⟩

theorem mrestore_wf {m : Memory} (start len : Nat) (part : Memory) (h : m.wf = true) :
    (mrestore m start len part).wf = true := by
  have put : ∀ (l : List Host.Cell) (m : Memory), m.wf = true → (l.foldl (fun m p => mwrite m p.1 p.2) m).wf = true := by
    intro l
    induction l with
    | nil => exact fun _ h => h
    | cons p r ih => exact fun m h => ih _ (mwrite_wf _ _ h)
  exact put _ _ (wf_more_undef _ (mclear_wf start len h))

end Sys2Proof.Machine
end

