-- ==== Sys2Proof/Laws/Touch.lean ====
section
/-! SUPPORT. Laws/Touch.lean: the relation that every shared operation is shown to meet (it touches only
the pieces it names, keeps the canonical form and uses up free values in order), and its rules. -/

namespace Sys2Proof.Machine

set_option Elab.async false

/-! ### The relation -/

/-- `t` comes from `s` by touching nothing outside the grains. -/
structure Touch (gs : List Grain) (s t : State) : Prop where
  keep : Unchanged gs s t
  canon : s.Canon → t.Canon
  bounds : s.Bounds → t.Bounds
  fresh : s.fresh ≤ t.fresh

/-- Every piece of the first grain falls under the second. -/
def Grain.under : Grain → Grain → Bool
  | .one p, g => g.covers p
  | .block b, .block c => decide (b = c)
  | .block _, .registers => true
  | .registers, .registers => true
  | _, _ => false

/-- Every grain of the first list falls under one of the second. -/
def subsumes (hs gs : List Grain) : Bool := gs.all fun g => hs.any g.under

theorem covers_of_under {g h : Grain} {p : Piece} (u : g.under h = true) (c : g.covers p = true) : h.covers p = true := by
  cases g with
  | one q =>
    have : q = p := by simpa [Grain.covers] using c
    subst this; simpa [Grain.under] using u
  | block b =>
    cases p with
    | reg n =>
      cases h with
      | block d =>
        have : b = d := by simpa [Grain.under] using u
        subst this; exact c
      | registers => rfl
      | one q => simp [Grain.under] at u
    | _ => simp [Grain.covers] at c
  | registers =>
    cases h with
    | registers => exact c
    | _ => simp [Grain.under] at u

theorem covered_of_subsumes {gs hs : List Grain} {p : Piece} (w : subsumes hs gs = true) (c : covered gs p = true) :
    covered hs p = true := by
  simp only [covered, List.any_eq_true] at c ⊢
  obtain ⟨g, hg, cg⟩ := c
  simp only [subsumes, List.all_eq_true, List.any_eq_true] at w
  obtain ⟨h, hh, u⟩ := w g hg
  exact ⟨h, hh, covers_of_under u cg⟩

theorem subsumes_trans {fs gs hs : List Grain} (a : subsumes fs gs = true) (b : subsumes gs hs = true) :
    subsumes fs hs = true := by
  have under : ∀ f g h : Grain, h.under g = true → g.under f = true → h.under f = true := by
    intro f g h hg gf
    cases h with
    | one p =>
      cases f with
      | one q => exact covers_of_under gf hg
      | block b => exact covers_of_under gf hg
      | registers => exact covers_of_under gf hg
    | block b =>
      cases g <;> cases f <;> simp_all [Grain.under]
    | registers => cases g <;> cases f <;> simp_all [Grain.under]
  simp only [subsumes, List.all_eq_true, List.any_eq_true] at a b ⊢
  intro h hh
  obtain ⟨g, hg, u⟩ := b h hh
  obtain ⟨f, hf, v⟩ := a g hg
  exact ⟨f, hf, under f g h u v⟩

theorem State.same_refl (s : State) (p : Piece) : s.same s p := by cases p <;> simp [State.same]

theorem State.same_trans {s t u : State} {p : Piece} (a : s.same t p) (b : t.same u p) : s.same u p := by
  cases p <;> simp_all [State.same]

theorem Unchanged.trans {gs : List Grain} {s t u : State} (a : Unchanged gs s t) (b : Unchanged gs t u) :
    Unchanged gs s u := fun p h => State.same_trans (a p h) (b p h)

theorem Unchanged.mono {gs hs : List Grain} {s t : State} (a : Unchanged gs s t) (w : subsumes hs gs = true) :
    Unchanged hs s t := fun p h => a p (by
  cases c : covered gs p
  · rfl
  · rw [covered_of_subsumes w c] at h; cases h)

theorem Touch.refl (gs : List Grain) (s : State) : Touch gs s s :=
  ⟨fun p _ => s.same_refl p, id, id, Nat.le_refl _⟩

theorem Touch.mono {gs hs : List Grain} {s t : State} (a : Touch gs s t) (w : subsumes hs gs = true) : Touch hs s t :=
  ⟨a.keep.mono w, a.canon, a.bounds, a.fresh⟩

theorem Touch.trans {gs : List Grain} {s t u : State} (a : Touch gs s t) (b : Touch gs t u) : Touch gs s u :=
  ⟨a.keep.trans b.keep, fun c => b.canon (a.canon c), fun c => b.bounds (a.bounds c),
    Nat.le_trans a.fresh b.fresh⟩

/-- One more operation, whose grains are already named. -/
theorem Touch.step {gs hs : List Grain} {s t u : State} (b : Touch hs t u) (a : Touch gs s t)
    (w : subsumes gs hs = true := by decide) : Touch gs s u := a.trans (b.mono w)

/-- A fold of operations that each touch the grains. -/
theorem Touch.foldl {α : Type} {gs : List Grain} {s t : State} {f : State → α → State} (l : List α)
    (a : Touch gs s t) (h : ∀ u x, Touch gs s u → Touch gs s (f u x)) : Touch gs s (l.foldl f t) := by
  induction l generalizing t with
  | nil => exact a
  | cons x r ih => exact ih (h t x a)

/-- A fold whose accumulator carries the state. -/
theorem Touch.foldlOn {α β : Type} (π : β → State) {gs : List Grain} {s : State} {b : β} {f : β → α → β} (l : List α)
    (a : Touch gs s (π b)) (h : ∀ c x, Touch gs s (π c) → Touch gs s (π (f c x))) : Touch gs s (π (l.foldl f b)) := by
  induction l generalizing b with
  | nil => exact a
  | cons x r ih => exact ih (h b x a)

/-- An intermediate state, named. -/
theorem Touch.cut {gs : List Grain} {s u : State} (t : State) (h : Touch gs s t) (k : Touch gs s t → Touch gs s u) :
    Touch gs s u := k h

/-- A change of fields beside the registers and the memories: each field is under a grain or as it was. -/
theorem Touch.set {gs : List Grain} {s t : State} (a : Touch gs s t)
    {fr pw bl st rh rb ps np ce en wt rc br op ss gr cu sl wo fi lo wr nx le nl cp sc ac tu re gn rd ak wh da pl ln no po fs
      fd se ag fl fm ib rf bs ma pm fn ir hf sp up sf nv bx ev ve la bo cz pc na ow mg sc' pr me rp mp sv}
    (h1 : t.fresh ≤ fr ∧ (covered gs .fresh = true ∨ fr = t.fresh) := by
      first | exact ⟨Nat.le_refl _, .inr rfl⟩ | exact ⟨by omega, .inl (by decide)⟩)
    (h2 : covered gs .power = true ∨ pw = t.power := by
      first | exact .inr (by with_reducible rfl) | exact .inl (by decide) | exact .inr rfl)
    (h3 : covered gs .lines = true ∨ bl = t.mem.badLines := by
      first | exact .inr (by with_reducible rfl) | exact .inl (by decide) | exact .inr rfl)
    (h4 : covered gs .lines = true ∨ st = t.mem.staleParity := by
      first | exact .inr (by with_reducible rfl) | exact .inl (by decide) | exact .inr rfl)
    (h5r : covered gs .lines = true ∨ rh = t.mem.reached := by
      first | exact .inr (by with_reducible rfl) | exact .inl (by decide) | exact .inr rfl)
    (h5 : covered gs .lines = true ∨ rb = t.mem.rebuilt := by
      first | exact .inr (by with_reducible rfl) | exact .inl (by decide) | exact .inr rfl)
    (h6 : covered gs .passes = true ∨ ps = t.passes := by
      first | exact .inr (by with_reducible rfl) | exact .inl (by decide) | exact .inr rfl)
    (h7 : covered gs .nextPass = true ∨ np = t.nextPass := by
      first | exact .inr (by with_reducible rfl) | exact .inl (by decide) | exact .inr rfl)
    (h7c : covered gs .cells = true ∨ ce = t.cells := by
      first | exact .inr (by with_reducible rfl) | exact .inl (by decide) | exact .inr rfl)
    (h8 : covered gs .engines = true ∨ en = t.engines := by
      first | exact .inr (by with_reducible rfl) | exact .inl (by decide) | exact .inr rfl)
    (h9 : covered gs .waits = true ∨ wt = t.flue.waits := by
      first | exact .inr (by with_reducible rfl) | exact .inl (by decide) | exact .inr rfl)
    (h10 : covered gs .records = true ∨ rc = t.flue.records := by
      first | exact .inr (by with_reducible rfl) | exact .inl (by decide) | exact .inr rfl)
    (h11 : covered gs .barriers = true ∨ br = t.flue.bars := by
      first | exact .inr (by with_reducible rfl) | exact .inl (by decide) | exact .inr rfl)
    (h11o : covered gs .opened = true ∨ op = t.flue.opened := by
      first | exact .inr (by with_reducible rfl) | exact .inl (by decide) | exact .inr rfl)
    (h11s : covered gs .sitterSync = true ∨ ss = t.flue.sitter := by
      first | exact .inr (by with_reducible rfl) | exact .inl (by decide) | exact .inr rfl)
    (h12 : covered gs .graphs = true ∨ gr = t.fe.graphs := by
      first | exact .inr (by with_reducible rfl) | exact .inl (by decide) | exact .inr rfl)
    (h13 : covered gs .copies = true ∨ cu = t.fe.cur := by
      first | exact .inr (by with_reducible rfl) | exact .inl (by decide) | exact .inr rfl)
    (h14 : covered gs .slots = true ∨ sl = t.fe.slots := by
      first | exact .inr (by with_reducible rfl) | exact .inl (by decide) | exact .inr rfl)
    (h15 : covered gs .slots = true ∨ wo = t.fe.woken := by
      first | exact .inr (by with_reducible rfl) | exact .inl (by decide) | exact .inr rfl)
    (h16 : covered gs .firings = true ∨ fi = t.fe.firings := by
      first | exact .inr (by with_reducible rfl) | exact .inl (by decide) | exact .inr rfl)
    (h17 : covered gs .log = true ∨ lo = t.fe.log := by
      first | exact .inr (by with_reducible rfl) | exact .inl (by decide) | exact .inr rfl)
    (h18 : covered gs .log = true ∨ wr = t.fe.writing := by
      first | exact .inr (by with_reducible rfl) | exact .inl (by decide) | exact .inr rfl)
    (h19 : covered gs .log = true ∨ nx = t.fe.nextPos := by
      first | exact .inr (by with_reducible rfl) | exact .inl (by decide) | exact .inr rfl)
    (h20 : covered gs .ledger = true ∨ le = t.fe.ledger := by
      first | exact .inr (by with_reducible rfl) | exact .inl (by decide) | exact .inr rfl)
    (h21 : covered gs .ledger = true ∨ nl = t.fe.nextLseq := by
      first | exact .inr (by with_reducible rfl) | exact .inl (by decide) | exact .inr rfl)
    (h22 : covered gs .ledger = true ∨ cp = t.fe.copying := by
      first | exact .inr (by with_reducible rfl) | exact .inl (by decide) | exact .inr rfl)
    (h23 : covered gs .log = true ∨ sc = t.fe.sinceCursor := by
      first | exact .inr (by with_reducible rfl) | exact .inl (by decide) | exact .inr rfl)
    (h24 : covered gs .actions = true ∨ ac = t.fe.actions := by
      first | exact .inr (by with_reducible rfl) | exact .inl (by decide) | exact .inr rfl)
    (h25 : covered gs .turns = true ∨ tu = t.fe.turns := by
      first | exact .inr (by with_reducible rfl) | exact .inl (by decide) | exact .inr rfl)
    (h26 : covered gs .turns = true ∨ re = t.fe.releases := by
      first | exact .inr (by with_reducible rfl) | exact .inl (by decide) | exact .inr rfl)
    (h26g : covered gs .grants = true ∨ gn = t.fe.grants := by
      first | exact .inr (by with_reducible rfl) | exact .inl (by decide) | exact .inr rfl)
    (h26r : covered gs .ledger = true ∨ rd = t.fe.rebuilt := by
      first | exact .inr (by with_reducible rfl) | exact .inl (by decide) | exact .inr rfl)
    (h27 : covered gs .slots = true ∨ ak = t.fe.asked := by
      first | exact .inr (by with_reducible rfl) | exact .inl (by decide) | exact .inr rfl)
    (h28 : covered gs .wheel = true ∨ wh = t.wheel := by
      first | exact .inr (by with_reducible rfl) | exact .inl (by decide) | exact .inr rfl)
    (h29 : covered gs .dampers = true ∨ da = t.dampers := by
      first | exact .inr (by with_reducible rfl) | exact .inl (by decide) | exact .inr rfl)
    (h30 : covered gs .topology = true ∨ pl = t.fab.plan := by
      first | exact .inr (by with_reducible rfl) | exact .inl (by decide) | exact .inr rfl)
    (h31 : covered gs .topology = true ∨ ln = t.fab.links := by
      first | exact .inr (by with_reducible rfl) | exact .inl (by decide) | exact .inr rfl)
    (h32 : covered gs .topology = true ∨ no = t.fab.notices := by
      first | exact .inr (by with_reducible rfl) | exact .inl (by decide) | exact .inr rfl)
    (h33 : covered gs .ports = true ∨ po = t.fab.ports := by
      first | exact .inr (by with_reducible rfl) | exact .inl (by decide) | exact .inr rfl)
    (h34 : covered gs .flows = true ∨ fs = t.fab.src := by
      first | exact .inr (by with_reducible rfl) | exact .inl (by decide) | exact .inr rfl)
    (h35 : covered gs .flows = true ∨ fd = t.fab.dst := by
      first | exact .inr (by with_reducible rfl) | exact .inl (by decide) | exact .inr rfl)
    (h36 : covered gs .sent = true ∨ se = t.fab.sent := by
      first | exact .inr (by with_reducible rfl) | exact .inl (by decide) | exact .inr rfl)
    (h37 : covered gs .flows = true ∨ ag = t.fab.again := by
      first | exact .inr (by with_reducible rfl) | exact .inl (by decide) | exact .inr rfl)
    (h38 : covered gs .sent = true ∨ fl = t.fab.floods := by
      first | exact .inr (by with_reducible rfl) | exact .inl (by decide) | exact .inr rfl)
    (h38f : covered gs .sent = true ∨ fm = t.fab.frames := by
      first | exact .inr (by with_reducible rfl) | exact .inl (by decide) | exact .inr rfl)
    (h38i : covered gs .inbox = true ∨ ib = t.fab.inbox := by
      first | exact .inr (by with_reducible rfl) | exact .inl (by decide) | exact .inr rfl)
    (h38r : covered gs .inbox = true ∨ rf = t.fab.refusals := by
      first | exact .inr (by with_reducible rfl) | exact .inl (by decide) | exact .inr rfl)
    (h39 : covered gs .buckets = true ∨ bs = t.grx.slots := by
      first | exact .inr (by with_reducible rfl) | exact .inl (by decide) | exact .inr rfl)
    (h40 : covered gs .watermarks = true ∨ ma = t.grx.marks := by
      first | exact .inr (by with_reducible rfl) | exact .inl (by decide) | exact .inr rfl)
    (h41 : covered gs .watermarks = true ∨ pm = t.grx.pmarks := by
      first | exact .inr (by with_reducible rfl) | exact .inl (by decide) | exact .inr rfl)
    (h42 : covered gs .functions = true ∨ fn = t.pci.fns := by
      first | exact .inr (by with_reducible rfl) | exact .inl (by decide) | exact .inr rfl)
    (h43 : covered gs .functions = true ∨ ir = t.pci.inReset := by
      first | exact .inr (by with_reducible rfl) | exact .inl (by decide) | exact .inr rfl)
    (h44 : covered gs .functions = true ∨ hf = t.pci.hFailed := by
      first | exact .inr (by with_reducible rfl) | exact .inl (by decide) | exact .inr rfl)
    (h45 : covered gs .storage = true ∨ sp = t.pci.split := by
      first | exact .inr (by with_reducible rfl) | exact .inl (by decide) | exact .inr rfl)
    (h46 : covered gs .storage = true ∨ up = t.pci.sUp := by
      first | exact .inr (by with_reducible rfl) | exact .inl (by decide) | exact .inr rfl)
    (h47 : covered gs .storage = true ∨ sf = t.pci.sFailed := by
      first | exact .inr (by with_reducible rfl) | exact .inl (by decide) | exact .inr rfl)
    (h48 : covered gs .storage = true ∨ nv = t.pci.nvme := by
      first | exact .inr (by with_reducible rfl) | exact .inl (by decide) | exact .inr rfl)
    (h49 : covered gs .boxes = true ∨ bx = t.sit.boxes := by
      first | exact .inr (by with_reducible rfl) | exact .inl (by decide) | exact .inr rfl)
    (h50 : covered gs .events = true ∨ ev = t.sit.events := by
      first | exact .inr (by with_reducible rfl) | exact .inl (by decide) | exact .inr rfl)
    (h51 : covered gs .vectors = true ∨ ve = t.sit.vectors := by
      first | exact .inr (by with_reducible rfl) | exact .inl (by decide) | exact .inr rfl)
    (h52 : covered gs .sitter = true ∨ la = t.sit.latched := by
      first | exact .inr (by with_reducible rfl) | exact .inl (by decide) | exact .inr rfl)
    (h53 : covered gs .frames = true ∨ bo = t.sit.busOut := by
      first | exact .inr (by with_reducible rfl) | exact .inl (by decide) | exact .inr rfl)
    (h54 : covered gs .sitter = true ∨ cz = t.sit.restartCause := by
      first | exact .inr (by with_reducible rfl) | exact .inl (by decide) | exact .inr rfl)
    (h54p : covered gs .pieces = true ∨ pc = t.sit.pieces := by
      first | exact .inr (by with_reducible rfl) | exact .inl (by decide) | exact .inr rfl)
    (h54n : covered gs .vectors = true ∨ na = t.sit.nextAt := by
      first | exact .inr (by with_reducible rfl) | exact .inl (by decide) | exact .inr rfl)
    (h54o : covered gs .vectors = true ∨ ow = t.sit.owed := by
      first | exact .inr (by with_reducible rfl) | exact .inl (by decide) | exact .inr rfl)
    (h55 : covered gs .bus = true ∨ mg = t.mgmt := by
      first | exact .inr (by with_reducible rfl) | exact .inl (by decide) | exact .inr rfl)
    (h56 : covered gs .keys = true ∨ sc'.keys = t.sec.keys ∧ sc'.oldKeys = t.sec.oldKeys := by
      first | exact .inr ⟨rfl, rfl⟩ | exact .inl (by decide))
    (h56f : covered gs .firmware = true ∨ sc'.fw = t.sec.fw ∧ sc'.fwBytes = t.sec.fwBytes ∧
      sc'.running = t.sec.running := by first | exact .inr ⟨rfl, rfl, rfl⟩ | exact .inl (by decide))
    (h56s : covered gs .signing = true ∨ sc'.nonces = t.sec.nonces ∧ sc'.queue = t.sec.queue ∧
      sc'.rotation = t.sec.rotation := by first | exact .inr ⟨rfl, rfl, rfl⟩ | exact .inl (by decide))
    (h57 : covered gs .persistent = true ∨ pr = t.prs := by
      first | exact .inr (by with_reducible rfl) | exact .inl (by decide) | exact .inr rfl)
    (h58t : covered gs .tables = true ∨ me.cal = t.meter.cal ∧ me.rules = t.meter.rules := by
      first | exact .inr ⟨rfl, rfl⟩ | exact .inl (by decide))
    (h58 : covered gs .meter = true ∨ me.rest = t.meter.rest := by
      first | exact .inr (by with_reducible rfl) | exact .inl (by decide) | exact .inr rfl)
    (h59 : covered gs .repair = true ∨ rp = t.rep := by
      first | exact .inr (by with_reducible rfl) | exact .inl (by decide) | exact .inr rfl)
    (h59m : covered gs .repair = true ∨ mp = t.maps := by
      first | exact .inr (by with_reducible rfl) | exact .inl (by decide) | exact .inr rfl)
    (h60 : covered gs .phase = true ∨ sv = t.svc := by
      first | exact .inr (by with_reducible rfl) | exact .inl (by decide) | exact .inr rfl)
    (b5 : regsCanon t.regs = true → mapsCanon t.maps = true → mapsCanon mp = true := by exact fun _ h => h)
    (b1 : t.wheel.steps.length ≤ 16 → wh.steps.length ≤ 16 := by first | exact id | exact fun _ => Nat.zero_le _)
    (b2 : t.flue.records.length ≤ 16384 → rc.length ≤ 16384 := by
      first | exact id | exact fun _ => Nat.zero_le _ | exact fun h => Nat.le_trans (List.length_filter_le ..) h)
    (b3 : cellsPlaced t.prs.cells = true → cellsPlaced pr.cells = true := by exact id)
    (b4 : t.power.clockOk → pw.clockOk := by
      first
        | exact id
        | exact fun h => ⟨h.1, h.2.1, h.2.2.1, h.2.2.2⟩
        | exact fun h => ⟨by first | exact h.1 | exact Nat.zero_le _ | (dsimp only; omega),
            by first | exact h.2.1 | exact Nat.zero_le _ | (dsimp only; split <;> omega),
            by first | exact h.2.2.1 | exact Nat.zero_le _ | (dsimp only; omega),
            by first | exact h.2.2.2 | exact Nat.zero_le _ | (dsimp only; omega)⟩) :
    Touch gs s ⟨t.pending, fr, t.regs, pw, ⟨t.mem.tile, t.mem.scratch, t.mem.const, t.mem.stack, t.mem.host, bl, st, rh,
      rb⟩, ps, np, ce, en, ⟨wt, rc, br, op, ss⟩,
      ⟨gr, cu, sl, wo, fi, lo, wr, nx, le, nl, cp, sc, ac, tu, re, gn, rd, ak⟩, wh, da,
      ⟨pl, ln, no, po, fs, fd, se, ag, fl, fm, ib, rf⟩, ⟨bs, ma, pm⟩, ⟨fn, ir, hf, sp, up, sf, nv⟩,
      ⟨bx, ev, ve, la, bo, cz, pc, na, ow⟩, mg, sc', pr, me, rp, mp, sv⟩ := by
  refine a.trans ⟨fun p h => ?_, fun c => ⟨c.1, c.2.1, c.2.2.1, c.2.2.2.1, c.2.2.2.2.1, c.2.2.2.2.2.1, b5 c.1 c.2.2.2.2.2.2⟩, fun b => ⟨b4 b.clock, b1 b.steps, b2 b.records, b3 b.cells⟩, h1.1⟩
  have out : ∀ {q : Prop}, covered gs p = true ∨ q → q := fun o => o.resolve_left (by simp [h])
  cases p <;> simp only [State.same, State.regPart]
  case fresh => exact out h1.2
  case power => exact out h2
  case lines => exact ⟨out h3, out h4, out h5r, out h5⟩
  case passes => exact out h6
  case nextPass => exact out h7
  case cells => exact out h7c
  case engines => exact out h8
  case waits => exact out h9
  case records => exact out h10
  case barriers => exact out h11
  case opened => exact out h11o
  case sitterSync => exact out h11s
  case graphs => exact out h12
  case copies => exact out h13
  case slots => exact ⟨out h14, out h15, out h27⟩
  case firings => exact out h16
  case log => exact ⟨out h17, out h18, out h19, out h23⟩
  case ledger => exact ⟨out h20, out h21, out h22, out h26r⟩
  case actions => exact out h24
  case turns => exact ⟨out h25, out h26⟩
  case grants => exact out h26g
  case wheel => exact out h28
  case dampers => exact out h29
  case topology => exact ⟨out h30, out h31, out h32⟩
  case ports => exact out h33
  case flows => exact ⟨out h34, out h35, out h37⟩
  case sent => exact ⟨out h36, out h38, out h38f⟩
  case inbox => exact ⟨out h38i, out h38r⟩
  case buckets => exact out h39
  case watermarks => exact ⟨out h40, out h41⟩
  case functions => exact ⟨out h42, out h43, out h44⟩
  case storage => exact ⟨out h45, out h46, out h47, out h48⟩
  case boxes => exact out h49
  case events => exact out h50
  case vectors => exact ⟨out h51, out h54n, out h54o⟩
  case pieces => exact out h54p
  case sitter => exact ⟨out h52, out h54⟩
  case bus => exact out h55
  case frames => exact out h53
  case keys => exact out h56
  case firmware => exact out h56f
  case signing => exact out h56s
  case tables => exact out h58t
  case persistent => exact out h57
  case meter => exact out h58
  case repair => exact ⟨out h59, out h59m⟩
  case phase => exact out h60

/-! ### Registers -/

/-- The numbers of a field fit its key. -/
def Fld.ok (f : Fld) : Bool := decide (f.off < 2 ^ 24) && decide (f.lo < 2 ^ 8) && decide (f.width < 2 ^ 8)

theorem blockNum_lt (b : Block) : blockNum b < 32 := by cases b <;> decide

theorem keyReg_key {f : Fld} (h : f.ok = true) (i : Nat) : keyReg (f.key i) = regNo f.block f.off := by
  have b := blockNum_lt f.block
  simp only [Fld.ok, Bool.and_eq_true, decide_eq_true_eq] at h
  simp only [keyReg, Fld.key, regNo]
  omega

theorem keyBlock_key {f : Fld} (h : f.ok = true) (i : Nat) : keyBlock (f.key i) = blockNum f.block := by
  have b := blockNum_lt f.block
  simp only [Fld.ok, Bool.and_eq_true, decide_eq_true_eq] at h
  simp only [keyBlock, Fld.key]
  omega

theorem key_width {f : Fld} (h : f.ok = true) (i : Nat) : f.key i % 2 ^ 8 = f.width := by
  simp only [Fld.ok, Bool.and_eq_true, decide_eq_true_eq] at h
  simp only [Fld.key]
  omega

/-- The grain of the register that holds a field. -/
def Fld.grain (f : Fld) : Grain := .one (.reg (regNo f.block f.off))

theorem regsCanon_iff (t : Tab Nat) :
    regsCanon t = true ↔ tsorted t = true ∧ ∀ p ∈ t, p.2 < 2 ^ (p.1 % 2 ^ 8) := by
  simp [regsCanon, List.all_eq_true]

theorem regsCanon_filter {t : Tab Nat} (f : Nat × Nat → Bool) (h : regsCanon t = true) : regsCanon (t.filter f) = true := by
  obtain ⟨s, w⟩ := (regsCanon_iff t).1 h
  exact (regsCanon_iff _).2 ⟨tsorted_filter f s, fun p hp => w p (List.mem_filter.1 hp).1⟩

theorem regsCanon_tset {f : Fld} (ok : f.ok = true) {t : Tab Nat} (d i v : Nat) (h : regsCanon t = true) :
    regsCanon (tset d t (f.key i) (v % 2 ^ f.width)) = true := by
  obtain ⟨s, w⟩ := (regsCanon_iff t).1 h
  refine (regsCanon_iff _).2 ⟨tsorted_tset _ _ s, fun p hp => ?_⟩
  rcases mem_tset hp with rfl | hp
  · rw [key_width ok]; exact Nat.mod_lt _ (Nat.pow_pos (by decide))
  · exact w p hp

/-- Dropping or changing listed values of the registers under the grains. -/
theorem Touch.regs {gs : List Grain} {s : State} {t : Tab Nat} (c : regsCanon s.regs = true → regsCanon t = true)
    (h : ∀ n, covered gs (.reg n) = false → t.filter (fun p => keyReg p.1 == n) = s.regs.filter fun p => keyReg p.1 == n) :
    Touch gs s { s with regs := t } where
  keep p n := by
    cases p with
    | reg k => exact h k n
    | _ => simp [State.same]
  canon k := ⟨c k.1, k.2⟩
  bounds b := ⟨b.clock, b.steps, b.records, b.cells⟩
  fresh := Nat.le_refl _

theorem wr_touch (s : State) (f : Fld) (i v : Nat) (ok : f.ok = true := by decide) : Touch [f.grain] s (s.wr f i v) := by
  refine Touch.regs (regsCanon_tset ok _ _ _) fun n hn => filter_tset _ _ _ _ fun _ => ?_
  simp only [covered, List.any_cons, List.any_nil, Bool.or_false, Fld.grain, Grain.covers, decide_eq_false_iff_not] at hn
  simp only [keyReg_key ok, beq_eq_false_iff_ne, ne_eq]
  exact fun e => hn (congrArg _ e)

/-- A register field reads as what was written, cut to its width. -/
@[simp] theorem rd_wr_same (s : State) (f : Fld) (i v : Nat) : (s.wr f i v).rd f i = v % 2 ^ f.width :=
  tget_tset_same _ _ _ _

/-- Writing one field leaves a field of another key as it was. -/
theorem rd_wr_other (s : State) {f g : Fld} {i j : Nat} (v : Nat) (h : g.key j ≠ f.key i) :
    (s.wr f i v).rd g j = s.rd g j := tget_tset_other _ _ _ _ h

/-- Fields of different registers, bits or entries have different keys. -/
theorem key_ne {f g : Fld} {i j : Nat} (hf : f.ok = true) (hg : g.ok = true)
    (h : i ≠ j ∨ f.block ≠ g.block ∨ f.off ≠ g.off ∨ f.lo ≠ g.lo) : g.key j ≠ f.key i := by
  have inj : ∀ a b : Block, blockNum a = blockNum b → a = b := by intro a b; cases a <;> cases b <;> decide
  have b := blockNum_lt f.block
  have c := blockNum_lt g.block
  simp only [Fld.ok, Bool.and_eq_true, decide_eq_true_eq] at hf hg
  intro e
  simp only [Fld.key] at e
  rcases h with h | h | h | h
  · omega
  · exact h (inj _ _ (by omega))
  · omega
  · omega

/-- Looking a key up needs only the pairs that a test of keys keeps. -/
theorem tget_filter {α : Type} (d : α) (t : Tab α) (k : Nat) (q : Nat → Bool) (h : q k = true) :
    tget d (t.filter fun p => q p.1) k = tget d t k := by
  induction t with
  | nil => rfl
  | cons p r ih =>
    by_cases e : p.1 = k
    · subst e; simp [h, tget]
    · by_cases c : q p.1 = true
      · simp [c, tget, e, ih]
      · simp [c, tget, e, ih]

/-- A field of a register outside the grains reads as before. -/
theorem Unchanged.rd {gs : List Grain} {s t : State} (a : Unchanged gs s t) (f : Fld) (i : Nat)
    (h : covered gs (.reg (regNo f.block f.off)) = false := by decide) (ok : f.ok = true := by decide) :
    t.rd f i = s.rd f i := by
  have e := a _ h
  simp only [State.same, State.regPart] at e
  have k : (keyReg (f.key i) == regNo f.block f.off) = true := by simp [keyReg_key ok]
  have q := tget_filter f.reset t.regs (f.key i) (fun n => keyReg n == regNo f.block f.off) k
  rw [e, tget_filter f.reset s.regs (f.key i) (fun n => keyReg n == regNo f.block f.off) k] at q
  exact q.symm

theorem satAdd_touch (s : State) (f : Fld) (i n : Nat) (ok : f.ok = true := by decide) : Touch [f.grain] s (s.satAdd f i n) :=
  wr_touch s f i _ ok

theorem wrapAdd_touch (s : State) (f : Fld) (i n : Nat) (ok : f.ok = true := by decide) : Touch [f.grain] s (s.wrapAdd f i n) :=
  wr_touch s f i _ ok

theorem setBit_touch (s : State) (f : Fld) (i : Nat) (ok : f.ok = true := by decide) : Touch [f.grain] s (s.setBit f i) :=
  wr_touch s f i _ ok

/-- A register whose fields are all its own. -/
def Reg.ok (r : Reg) : Bool := r.fields.all fun f => f.ok && decide (f.block = r.block) && decide (f.off = r.off)

theorem resetReg_touch (s : State) (r : Reg) (i : Nat) (ok : r.ok = true := by decide) : Touch [r.grain] s (s.resetReg r i) := by
  have fold : ∀ (l : List Fld) (t : Tab Nat), (∀ f ∈ l, f.ok = true ∧ f.block = r.block ∧ f.off = r.off) →
      (regsCanon t = true → regsCanon (l.foldl (fun t f => tdel t (f.key i)) t) = true) ∧
      ∀ n, covered [r.grain] (.reg n) = false →
        (l.foldl (fun t f => tdel t (f.key i)) t).filter (fun p => keyReg p.1 == n) = t.filter fun p => keyReg p.1 == n := by
    intro l
    induction l with
    | nil => exact fun _ _ => ⟨id, fun _ _ => rfl⟩
    | cons f l ih =>
      intro t hl
      obtain ⟨c, k⟩ := ih (tdel t (f.key i)) fun g hg => hl g (List.mem_cons_of_mem _ hg)
      refine ⟨fun h => c (regsCanon_filter _ h), fun n hn => (k n hn).trans (filter_tdel _ _ fun _ => ?_)⟩
      obtain ⟨o, eb, eo⟩ := hl f (by simp)
      simp only [covered, List.any_cons, List.any_nil, Bool.or_false, Reg.grain, Grain.covers,
        decide_eq_false_iff_not] at hn
      simp only [keyReg_key o, beq_eq_false_iff_ne, ne_eq, eb, eo]
      exact fun e => hn (congrArg _ e)
  have all : ∀ f ∈ r.fields, f.ok = true ∧ f.block = r.block ∧ f.off = r.off := by
    simp only [Reg.ok, List.all_eq_true, Bool.and_eq_true, decide_eq_true_eq] at ok
    exact fun f hf => ⟨(ok f hf).1.1, (ok f hf).1.2, (ok f hf).2⟩
  exact Touch.regs (fold _ _ all).1 (fold _ _ all).2

theorem resetBlocks_touch (s : State) (p : Block → Bool) : Touch [.registers] s (s.resetBlocks p) :=
  Touch.regs (regsCanon_filter _) fun n hn => by simp [covered, Grain.covers] at hn

/-! ### Memories -/

/-- The grain of a space's memory. -/
def spaceGrain (sp : Nat) : Grain :=
  if sp = 0 then .one .tileMem else if sp = 1 then .one .scratch else if sp = 2 then .one .const
  else if sp = 3 then .one .stack else .one .hostMem

/-- The memories that a command with an open space may reach. -/
def memGrains : List Grain := [.one .tileMem, .one .scratch, .one .const, .one .stack, .one .hostMem]

theorem subsumes_space (sp : Nat) : subsumes memGrains [spaceGrain sp] = true := by
  simp only [spaceGrain]
  split
  · decide
  · split
    · decide
    · split
      · decide
      · split <;> decide

theorem State.Canon.space {s : State} (c : s.Canon) (sp : Nat) : (s.spaceMem sp).wf = true := by
  obtain ⟨_, a, b, d, e, f, _⟩ := c
  simp only [State.spaceMem]
  split
  · exact a
  · split
    · exact b
    · split
      · exact d
      · split
        · exact e
        · exact f

theorem setSpaceMem_touch (s : State) (sp : Nat) (m : Memory) (h : (s.spaceMem sp).wf = true → m.wf = true) :
    Touch [spaceGrain sp] s (s.setSpaceMem sp m) where
  keep p n := by
    simp only [covered, List.any_cons, List.any_nil, Bool.or_false, spaceGrain] at n
    simp only [State.setSpaceMem]
    cases p <;> simp only [State.same, State.regPart] <;> (repeat' split at n) <;>
      simp_all [Grain.covers]
  canon c := by
    have hm := h (c.space sp)
    obtain ⟨r, a, b, d, e, f, g⟩ := c
    simp only [State.setSpaceMem, State.Canon]
    (repeat' split) <;> simp_all
  bounds b := ⟨b.clock, b.steps, b.records, b.cells⟩
  fresh := Nat.le_refl _

theorem writeSpace_touch (s : State) (sp a : Nat) (b : Bytes) : Touch [spaceGrain sp] s (s.writeSpace sp a b) :=
  setSpaceMem_touch s sp _ (mwriteN_wf _ _)

/-- A write to a space that the command leaves open. -/
theorem writeSpace_any (s : State) (sp a : Nat) (b : Bytes) : Touch memGrains s (s.writeSpace sp a b) :=
  (writeSpace_touch s sp a b).mono (subsumes_space sp)

theorem writesSpace_touch (s : State) (sp : Nat) (l : List (Nat × Bytes)) :
    Touch [spaceGrain sp] s (s.writesSpace sp l) :=
  .foldl l (.refl _ _) fun u p h => h.trans (writeSpace_touch u sp p.1 p.2)

theorem writesSpace_any (s : State) (sp : Nat) (l : List (Nat × Bytes)) : Touch memGrains s (s.writesSpace sp l) :=
  (writesSpace_touch s sp l).mono (subsumes_space sp)

theorem subsumes_cons {gs hs : List Grain} (g : Grain) (h : subsumes hs gs = true) : subsumes (g :: hs) gs = true := by
  simp only [subsumes, List.all_eq_true, List.any_cons, Bool.or_eq_true] at h ⊢
  exact fun x hx => .inr (h x hx)

theorem under_self (g : Grain) : g.under g = true := by cases g <;> simp [Grain.under, Grain.covers]

theorem forget_touch (s : State) (sp a n : Nat) : Touch [.one .fresh, spaceGrain sp] s (s.forget sp a n) := by
  unfold State.forget
  split
  · exact .refl _ _
  · refine .set ?_ (h1 := ⟨Nat.le_succ _, .inl rfl⟩)
    exact (setSpaceMem_touch s sp _ (mforget_wf _ _ _)).mono (by simp [subsumes, under_self])

theorem forget_any (s : State) (sp a n : Nat) : Touch (.one .fresh :: memGrains) s (s.forget sp a n) := by
  unfold State.forget
  split
  · exact .refl _ _
  · refine .set ?_ (h1 := ⟨Nat.le_succ _, .inl rfl⟩)
    exact (setSpaceMem_touch s sp _ (mforget_wf _ _ _)).mono
      (subsumes_cons _ (subsumes_space sp))

theorem forgets_touch (s : State) (sp : Nat) (l : List (Nat × Nat)) :
    Touch [.one .fresh, spaceGrain sp] s (s.forgets sp l) :=
  .foldl l (.refl _ _) fun u p h => h.trans (forget_touch u sp p.1 p.2)

end Sys2Proof.Machine
end

