-- ==== Sys2Proof/Laws/Context.lean ====
section
/-! SUPPORT. Laws/Context.lean: the parts of a memory that a context switch keeps and puts back (R232, R235). -/

namespace Sys2Proof.Machine

set_option Elab.async false

theorem covers_iff (start len st a : Nat) : (Extent.mk start len st).covers a = true ↔ start ≤ a ∧ a < start + len := by
  simp [Extent.covers]

/-- The stamp of the extent that covers an address first. -/
def stampAt (l : List Extent) (a : Nat) : Option Nat := (l.find? (·.covers a)).map (·.stamp)

theorem mbackground_eq (m : Memory) (a : Nat) :
    mbackground m a = ((stampAt m.undef a).map fun st => Config.freeByte st a).getD 0 := by
  unfold mbackground stampAt
  cases m.undef.find? (·.covers a) <;> rfl

theorem stampAt_append (l r : List Extent) (a : Nat) : stampAt (l ++ r) a = (stampAt l a).or (stampAt r a) := by
  unfold stampAt
  rw [List.find?_append]
  cases List.find? (·.covers a) l <;> rfl

theorem stampAt_cons (e : Extent) (l : List Extent) (a : Nat) :
    stampAt (e :: l) a = if e.covers a then some e.stamp else stampAt l a := by
  unfold stampAt
  rw [List.find?_cons]
  cases e.covers a <;> rfl

/-- A cut of every extent that keeps its stamp: an address sees the cut exactly where a test holds. -/
theorem stampAt_flatMap (l : List Extent) (g : Extent → List Extent) (a : Nat) (b : Bool)
    (h : ∀ e, stampAt (g e) a = if b && e.covers a then some e.stamp else none) :
    stampAt (l.flatMap g) a = if b then stampAt l a else none := by
  induction l with
  | nil => cases b <;> rfl
  | cons e l ih =>
    rw [List.flatMap_cons, stampAt_append, h, ih, stampAt_cons]
    cases b <;> cases e.covers a <;> simp

theorem mlookup_filter (l : List Host.Cell) (q : Nat → Bool) (a : Nat) :
    mlookup (l.filter fun p => q p.1) a = if q a then mlookup l a else none := by
  induction l with
  | nil => simp [mlookup]
  | cons p l ih =>
    rw [List.filter_cons]
    by_cases e : p.1 = a
    · cases h : q a <;> simp [mlookup, e, h, ih]
    · cases h : q p.1 <;> simp [mlookup, e, ih]

/-- Inside the run a part reads as the memory. -/
theorem mread_mpart (m : Memory) {start len a : Nat} (h : start ≤ a ∧ a < start + len) : mread (mpart m start len) a = mread m a := by
  unfold mread mpart
  rw [mbackground_eq, mbackground_eq, mlookup_filter, if_pos ((covers_iff ..).2 h)]
  dsimp only
  rw [stampAt_flatMap (b := true)]
  · rfl
  · intro e
    split
    · rw [stampAt_cons]
      simp only [Extent.covers, Bool.true_and, Bool.and_eq_true, decide_eq_true_eq]
      split <;> split <;> first | rfl | omega
    · simp only [Extent.covers, Bool.true_and, Bool.and_eq_true, decide_eq_true_eq]
      rw [if_neg (by omega)]; rfl

/-- In a sorted list the first cell of an address is its only one. -/
theorem mlookup_tail {p : Host.Cell} {l : List Host.Cell} (h : tsorted (p :: l) = true) : mlookup l p.1 = none := by
  have k := (tsorted_cons.1 h).2
  clear h
  induction l with
  | nil => rfl
  | cons q l ih =>
    have := k q (List.mem_cons_self ..)
    simp only [mlookup, if_neg (Nat.ne_of_gt this)]
    exact ih fun x hx => k x (List.mem_cons_of_mem _ hx)

/-- Cells written one after the other read as the list says, and all else as before. -/
theorem mread_writes (l : List Host.Cell) (m : Memory) (a : Nat) (h : tsorted l = true) :
    mread (l.foldl (fun m p => mwrite m p.1 p.2) m) a = (mlookup l a).getD (mread m a) := by
  induction l generalizing m with
  | nil => rfl
  | cons p l ih =>
    rw [List.foldl_cons, ih _ (tsorted_cons.1 h).1]
    by_cases e : p.1 = a
    · subst e
      rw [mlookup_tail h, mlookup, if_pos rfl]
      exact mread_mwrite_same ..
    · rw [mlookup, if_neg e, mread_mwrite_other _ _ (Ne.symm e)]

theorem mlookup_puts (l : List Host.Cell) (t : List Host.Cell) (a : Nat) (h : tsorted l = true) :
    mlookup (l.foldl (fun t c => tput t c.1 c.2) t) a = (mlookup l a).or (mlookup t a) := by
  induction l generalizing t with
  | nil => rfl
  | cons p l ih =>
    rw [List.foldl_cons, ih _ (tsorted_cons.1 h).1]
    by_cases e : p.1 = a
    · subst e
      rw [mlookup_tail h, mlookup, if_pos rfl, mlookup_tput_same]; rfl
    · rw [mlookup, if_neg e, mlookup_tput_other _ _ (Ne.symm e)]

theorem mpart_lookup (m : Memory) (start len a : Nat) :
    mlookup (mpart m start len).cells a = if start ≤ a ∧ a < start + len then mlookup m.cells a else none := by
  unfold mpart
  rw [mlookup_filter]
  by_cases h : start ≤ a ∧ a < start + len
  · rw [if_pos h, if_pos ((covers_iff ..).2 h)]
  · rw [if_neg h, if_neg fun c => h ((covers_iff ..).1 c)]

theorem mpart_stamp (m : Memory) (start len a : Nat) :
    stampAt (mpart m start len).undef a = if start ≤ a ∧ a < start + len then stampAt m.undef a else none := by
  unfold mpart
  refine (stampAt_flatMap (b := decide (start ≤ a ∧ a < start + len)) _ _ _ fun e => ?_).trans (by simp)
  by_cases h : max e.start start < min (e.start + e.len) (start + len)
  · rw [if_pos h, stampAt_cons]
    simp only [Extent.covers, Bool.and_eq_true, decide_eq_true_eq]
    split <;> split <;> first | rfl | omega
  · rw [if_neg h]
    simp only [Extent.covers, Bool.and_eq_true, decide_eq_true_eq]
    rw [if_neg (by omega)]; rfl

theorem mclear_stamp (m : Memory) (start len a : Nat) :
    stampAt (mclear m start len).undef a = if start ≤ a ∧ a < start + len then none else stampAt m.undef a := by
  unfold mclear
  refine (stampAt_flatMap (b := !decide (start ≤ a ∧ a < start + len)) _ _ _ fun e => ?_).trans
    (by by_cases h : start ≤ a ∧ a < start + len <;> simp only [h, decide_true, decide_false, Bool.not_true, Bool.not_false, if_true, if_false, Bool.false_eq_true, and_self])
  rw [stampAt_append]
  have one : ∀ (c : Prop) [Decidable c] (x y : Nat), stampAt (if c then [⟨x, y, e.stamp⟩] else []) a =
      if c ∧ x ≤ a ∧ a < x + y then some e.stamp else none := by
    intro c _ x y
    by_cases h : c
    · rw [if_pos h, stampAt_cons]; simp [Extent.covers, h]; rfl
    · rw [if_neg h, if_neg fun q => h q.1]; rfl
  rw [one, one]
  simp only [Extent.covers, Bool.and_eq_true, decide_eq_true_eq, Bool.not_eq_true', decide_eq_false_iff_not]
  split <;> split <;> (try split) <;> first | rfl | omega

theorem tsorted_mpart {m : Memory} (start len : Nat) (h : tsorted m.cells = true) : tsorted (mpart m start len).cells = true :=
  tsorted_filter _ h

/-- A part put back: inside the run the memory reads as what was kept, outside as before. -/
theorem mread_mrestore (m saved : Memory) (start len a : Nat) (h : tsorted saved.cells = true) :
    mread (mrestore m start len (mpart saved start len)) a =
      if start ≤ a ∧ a < start + len then mread saved a else mread m a := by
  unfold mrestore
  rw [mread_writes _ _ _ (tsorted_mpart start len h), mpart_lookup]
  have b : mread { mclear m start len with undef := (mpart saved start len).undef ++ (mclear m start len).undef } a =
      if start ≤ a ∧ a < start + len then mbackground saved a else mread m a := by
    unfold mread
    rw [mbackground_eq, mbackground_eq, mbackground_eq]
    dsimp only
    rw [stampAt_append, mpart_stamp, mclear_stamp]
    have c : mlookup (mclear m start len).cells a = if start ≤ a ∧ a < start + len then none else mlookup m.cells a := by
      unfold mclear
      rw [mlookup_filter (q := fun x => !(Extent.mk start len 0).covers x)]
      simp only [Extent.covers]
      by_cases h : start ≤ a ∧ a < start + len <;> simp [h]
    rw [c]
    split <;> simp
  rw [b]
  split <;> rfl

/-- The runs of a claim in one space. -/
def runsOf (claim sp : Nat) : List (Nat × Nat × Nat) := (claimRuns claim).filter fun r => r.1 == sp

/-- An address lies in one of the runs. -/
def inRuns (l : List (Nat × Nat × Nat)) (a : Nat) : Bool := l.any fun r => decide (r.2.1 ≤ a) && decide (a < r.2.1 + r.2.2)

theorem inRuns_iff (l : List (Nat × Nat × Nat)) (a : Nat) :
    inRuns l a = true ↔ ∃ r ∈ l, r.2.1 ≤ a ∧ a < r.2.1 + r.2.2 := by simp [inRuns]

theorem tsorted_puts (l t : List Host.Cell) (h : tsorted t = true) : tsorted (l.foldl (fun t c => tput t c.1 c.2) t) = true := by
  induction l generalizing t with
  | nil => exact h
  | cons p l ih => exact ih _ (tsorted_tput _ _ h)

/-- What a switch keeps of a space reads, within the claim's runs, as the space did. -/
theorem saveSpace_read (s : State) (claim sp a : Nat) (h : tsorted (s.spaceMem sp).cells = true)
    (r : inRuns (runsOf claim sp) a = true) : mread (s.saveSpace claim sp) a = mread (s.spaceMem sp) a := by
  have go : ∀ (l : List (Nat × Nat × Nat)) (m : Memory),
      mlookup (l.foldl (fun m r => let p := mpart (s.spaceMem sp) r.2.1 r.2.2
        ⟨p.cells.foldl (fun t c => tput t c.1 c.2) m.cells, m.undef ++ p.undef⟩) m).cells a =
        (if inRuns l a then mlookup (s.spaceMem sp).cells a else none).or (mlookup m.cells a) ∧
      stampAt (l.foldl (fun m r => let p := mpart (s.spaceMem sp) r.2.1 r.2.2
        ⟨p.cells.foldl (fun t c => tput t c.1 c.2) m.cells, m.undef ++ p.undef⟩) m).undef a =
        (stampAt m.undef a).or (if inRuns l a then stampAt (s.spaceMem sp).undef a else none) := by
    intro l
    induction l with
    | nil => intro m; simp [inRuns]
    | cons r l ih =>
      intro m
      obtain ⟨x, y⟩ := ih ⟨(mpart (s.spaceMem sp) r.2.1 r.2.2).cells.foldl (fun t c => tput t c.1 c.2) m.cells,
        m.undef ++ (mpart (s.spaceMem sp) r.2.1 r.2.2).undef⟩
      rw [List.foldl_cons]
      dsimp only at x y ⊢
      rw [x, y, mlookup_puts _ _ _ (tsorted_mpart _ _ h), mpart_lookup, stampAt_append, mpart_stamp]
      have e : inRuns (r :: l) a = (decide (r.2.1 ≤ a ∧ a < r.2.1 + r.2.2) || inRuns l a) := by
        simp [inRuns]
      rw [e]
      by_cases c : r.2.1 ≤ a ∧ a < r.2.1 + r.2.2 <;> cases inRuns l a <;>
        simp only [c, decide_true, decide_false, Bool.or_self, Bool.or_true, Bool.or_false, if_true, if_false, and_self,
          Bool.false_eq_true, Option.none_or, Option.or_none] <;>
        constructor <;> cases mlookup (s.spaceMem sp).cells a <;> cases stampAt (s.spaceMem sp).undef a <;> simp <;>
        cases stampAt m.undef a <;> simp
  obtain ⟨x, y⟩ := go (runsOf claim sp) .empty
  unfold mread
  rw [mbackground_eq, mbackground_eq]
  unfold State.saveSpace
  unfold runsOf at x y r
  rw [x, y, r]
  simp only [if_true, Memory.empty, mlookup, stampAt, List.find?_nil, Option.map_none, Option.or_none, Option.none_or]

theorem setSpaceMem_same (s : State) {sp : Nat} (m : Memory) (h : sp < 3) : (s.setSpaceMem sp m).spaceMem sp = m := by
  rcases sp with _ | _ | _ | n
  · rfl
  · rfl
  · rfl
  · omega

/-- A space put back reads, within the claim's runs, as it was kept, and elsewhere as before. -/
theorem restoreSpace_read (s : State) (claim sp : Nat) (saved : Memory) (a : Nat) (hs : sp < 3) (h : tsorted saved.cells = true) :
    mread ((s.restoreSpace claim sp saved).spaceMem sp) a =
      if inRuns (runsOf claim sp) a then mread saved a else mread (s.spaceMem sp) a := by
  unfold State.restoreSpace
  show mread ((List.foldl _ s (runsOf claim sp)).spaceMem sp) a = _
  generalize runsOf claim sp = l
  induction l generalizing s with
  | nil => rfl
  | cons r l ih =>
    rw [List.foldl_cons, ih, setSpaceMem_same _ _ hs, mread_mrestore _ _ _ _ _ h]
    have e : inRuns (r :: l) a = (decide (r.2.1 ≤ a ∧ a < r.2.1 + r.2.2) || inRuns l a) := by
      simp [inRuns]
    rw [e]
    by_cases c : r.2.1 ≤ a ∧ a < r.2.1 + r.2.2 <;> cases inRuns l a <;> simp [c]

end Sys2Proof.Machine
end

