-- ==== Sys2Proof/Laws/TouchWork.lean ====
section
/-! SUPPORT. Laws/TouchWork.lean: what the operations over events, memory, passes, engines and firings touch. -/

namespace Sys2Proof.Machine

set_option Elab.async false

theorem free_touch (s : State) :
    Touch [.one .fresh] s (s.free).2 := by
  unfold State.free
  exact .set (.refl _ _)

theorem stamp_touch (s : State) :
    Touch [.one .fresh] s (s.stamp).2 := by
  unfold State.stamp
  exact .set (.refl _ _)

theorem advanceTo_touch (s : State) (t : Nat) :
    Touch [whlCountReg.grain] s (s.advanceTo t) := by
  unfold State.advanceTo
  with_reducible repeat' first
    | exact .refl _ _ | assumption | refine (wr_touch ..).step ?_ | split

theorem tick_touch (s : State) :
    Touch [whlCountReg.grain] s (s.tick) := by
  unfold State.tick
  with_reducible repeat' first
    | exact .refl _ _ | assumption | refine (wrapAdd_touch ..).step ?_ | split

theorem raise_touch (s : State) (fn n : Nat) :
    Touch [.one .vectors] s (s.raise fn n) := by
  unfold State.raise
  with_reducible repeat' first
    | exact .refl _ _ | assumption | split | refine .set ?_

theorem raiseRated_touch (s : State) (k : Nat) :
    Touch [.one .vectors] s (s.raiseRated k) := by
  unfold State.raiseRated
  with_reducible repeat' first
    | exact .refl _ _ | assumption
    | (extract_lets +onlyGivenNames t; first | (refine Touch.cut t ?_ fun _ => ?_; subst t; rotate_left; clear_value t) | (refine Touch.cut t.1 ?_ fun _ => ?_; subst t; rotate_left; clear_value t) | (refine Touch.cut t.2 ?_ fun _ => ?_; subst t; rotate_left; clear_value t) | subst t)
    | refine (raise_touch ..).step ?_ | split | refine .set ?_

theorem raiseOwed_touch (s : State) :
    Touch [.one .vectors] s (s.raiseOwed) := by
  unfold State.raiseOwed
  with_reducible repeat' first
    | exact .refl _ _ | assumption | refine (raiseRated_touch ..).step ?_ | refine .foldl _ ?_ fun _ _ _ => ?_
    | split

theorem postTo_touch (s : State) (d : Nat) (c : Code) (ps : List Nat) :
    Touch [.one .events, .one .vectors] s (s.postTo d c ps) := by
  unfold State.postTo
  with_reducible repeat' first
    | exact .refl _ _ | assumption
    | (extract_lets +onlyGivenNames t; first | (refine Touch.cut t ?_ fun _ => ?_; subst t; rotate_left; clear_value t) | subst t)
    | refine (raiseRated_touch ..).step ?_ | split | refine .set ?_

theorem post_touch (s : State) (c : Code) (ps : List Nat) :
    Touch [.one .events, .one .vectors] s (s.post c ps) := by
  unfold State.post
  with_reducible repeat' first
    | exact .refl _ _ | assumption
    | (extract_lets +onlyGivenNames t; first | (refine Touch.cut t ?_ fun _ => ?_; subst t; rotate_left; clear_value t) | subst t)
    | refine (postTo_touch ..).step ?_ | refine .foldl _ ?_ fun _ _ _ => ?_ | split

theorem updFiring_touch (s : State) (q : Nat) (g : Firing → Firing) :
    Touch [.one .firings] s (s.updFiring q g) := by
  unfold State.updFiring
  with_reducible repeat' first
    | exact .refl _ _ | assumption | split | refine .set ?_

theorem setBox_touch (s : State) (o : Origin) (b : Box) :
    Touch [.one .boxes] s (s.setBox o b) := by
  unfold State.setBox
  with_reducible repeat' first
    | exact .refl _ _ | assumption | split | refine .set ?_

theorem signalReply_touch (s : State) (o : Origin) (payload : List Nat) :
    Touch [.one .vectors, .one .frames] s (s.signalReply o payload) := by
  unfold State.signalReply
  with_reducible repeat' first
    | exact .refl _ _ | assumption | refine (raise_touch ..).step ?_ | split | refine .set ?_

theorem reply_touch (s : State) (o : Origin) (st : Code) (restarted : Bool) (payload : List Nat) :
    Touch [.one .boxes, .one .vectors, .one .frames] s (s.reply o st restarted payload) := by
  unfold State.reply
  with_reducible repeat' first
    | exact .refl _ _ | assumption
    | (extract_lets +onlyGivenNames t; first | (refine Touch.cut t ?_ fun _ => ?_; subst t; rotate_left; clear_value t) | subst t)
    | refine (setBox_touch ..).step ?_ | refine (signalReply_touch ..).step ?_ | split | refine .set ?_

theorem done_touch (s : State) (o : Origin) (payload : List Nat) :
    Touch [.one .boxes, .one .vectors, .one .frames] s (s.done o payload) := by
  unfold State.done
  with_reducible repeat' first
    | exact .refl _ _ | assumption | refine (reply_touch ..).step ?_ | split

theorem refuse_touch (s : State) (o : Origin) (c : Code) :
    Touch [.one .boxes, .one .vectors, .one .frames] s (s.refuse o c) := by
  unfold State.refuse
  with_reducible repeat' first
    | exact .refl _ _ | assumption | refine (reply_touch ..).step ?_ | split

/-- A mailbox command touches what its effect touches, or the mailbox that is refused. -/
theorem command_touch {gs : List Grain} (s : State) (o : Origin) (cmd : Nat) (k : State → State)
    (h : ∀ t, Touch gs t (k t)) (w : subsumes gs [.one .boxes, .one .vectors, .one .frames] = true := by decide) :
    Touch gs s (s.command o cmd k) := by
  unfold State.command
  split
  · split
    · exact (refuse_touch ..).mono w
    · exact h s
  · exact .refl _ _

theorem lineRebuilt_touch (s : State) (line : Nat) :
    Touch [.one .lines, stkUeReg.grain] s (s.lineRebuilt line) := by
  unfold State.lineRebuilt
  with_reducible repeat' first
    | exact .refl _ _ | assumption
    | (extract_lets +onlyGivenNames t; first | (refine Touch.cut t ?_ fun _ => ?_; subst t; rotate_left; clear_value t) | subst t)
    | refine (satAdd_touch ..).step ?_ | split | refine .set ?_

theorem lineWritten_touch (s : State) (line : Nat) :
    Touch [.one .lines] s (s.lineWritten line) := by
  unfold State.lineWritten
  with_reducible repeat' first
    | exact .refl _ _ | assumption
    | (extract_lets +onlyGivenNames t; first | (refine Touch.cut t ?_ fun _ => ?_; subst t; rotate_left; clear_value t) | subst t)
    | split | refine .set ?_

theorem lineLost_touch (s : State) (line : Nat) :
    Touch [stkUeAddrReg.grain, stkUeReg.grain] s (s.lineLost line) := by
  unfold State.lineLost
  with_reducible repeat' first
    | exact .refl _ _ | assumption | refine (wr_touch ..).step ?_ | refine (satAdd_touch ..).step ?_ | split

theorem rebuildIn_touch (s : State) (a n : Nat) :
    Touch [.one .lines, stkUeReg.grain] s (s.rebuildIn a n) := by
  unfold State.rebuildIn
  with_reducible repeat' first
    | exact .refl _ _ | assumption | refine (lineRebuilt_touch ..).step ?_ | refine .foldl _ ?_ fun _ _ _ => ?_
    | split

theorem partsRead_touch (s : State) (a n : Nat) :
    Touch [.one .lines, stkUeReg.grain] s (s.partsRead a n) := by
  unfold State.partsRead
  with_reducible repeat' first
    | exact .refl _ _ | assumption | refine (lineRebuilt_touch ..).step ?_ | refine .foldl _ ?_ fun _ _ _ => ?_
    | split

theorem stackWrite_touch (s : State) (a : Nat) (b : Bytes) :
    Touch [.one .stack, .one .lines] s (s.stackWrite a b) := by
  unfold State.stackWrite
  with_reducible repeat' first
    | exact .refl _ _ | assumption
    | (extract_lets +onlyGivenNames t; first | (refine Touch.cut t ?_ fun _ => ?_; subst t; rotate_left; clear_value t) | subst t)
    | refine (lineWritten_touch ..).step ?_ | refine (writeSpace_touch ..).step ?_
    | refine (writeSpace_any ..).step ?_ | refine .foldl _ ?_ fun _ _ _ => ?_ | split | refine .set ?_

theorem store_touch (s : State) (a : Nat) (b : Bytes) :
    Touch [.one .stack, .one .lines, stkUeAddrReg.grain, stkUeReg.grain] s (s.store a b) := by
  unfold State.store
  with_reducible repeat' first
    | exact .refl _ _ | assumption | refine (lineLost_touch ..).step ?_ | refine (partsRead_touch ..).step ?_
    | refine (stackWrite_touch ..).step ?_ | split

theorem put_touch (s : State) (sp a : Nat) (b : Bytes) :
    Touch ([.one .lines, stkUeAddrReg.grain, stkUeReg.grain] ++ memGrains) s (s.put sp a b) := by
  unfold State.put
  split
  · exact (Touch.refl _ _).trans ((store_touch ..).mono (by decide))
  · exact (writeSpace_any s sp a b).mono (by decide)

theorem updCells_touch (s : State) (w : Nat) (g : Nat → Nat → ArrayCell → ArrayCell) :
    Touch [.one .cells] s (s.updCells w g) := by
  unfold State.updCells
  with_reducible repeat' first
    | exact .refl _ _ | assumption
    | (extract_lets +onlyGivenNames t; first | (refine Touch.cut t ?_ fun _ => ?_; subst t; rotate_left; clear_value t) | (refine Touch.cut t.1 ?_ fun _ => ?_; subst t; rotate_left; clear_value t) | (refine Touch.cut t.2 ?_ fun _ => ?_; subst t; rotate_left; clear_value t) | subst t)
    | refine .foldl _ ?_ fun _ _ _ => ?_ | split | refine .set ?_

theorem shfAdds_touch (s : State) (fl : Fld) (l : Tab Nat) (ok : fl.ok = true := by decide) :
    Touch [fl.grain] s (s.shfAdds fl l) :=
  .foldl l (.refl _ _) fun u p h => h.trans (satAdd_touch u fl _ _ ok)

theorem shfAddFree_touch (s : State) (fl : Fld) (n top : Nat) (ok : fl.ok = true := by decide) :
    Touch [.one .fresh, fl.grain] s (s.shfAddFree fl n top) :=
  .set ((satAdd_touch s fl _ _ ok).mono (subsumes_cons _ (by simp [subsumes, under_self])))
    (h1 := ⟨Nat.le_succ _, .inl rfl⟩)

theorem feedStall_touch (s : State) (w : Nat) :
    Touch [.one .fresh, shfFeedStallReg.grain] s (s.feedStall w) := by
  unfold State.feedStall
  with_reducible repeat' first
    | exact .refl _ _ | assumption | refine (shfAddFree_touch ..).step ?_ | refine .foldl _ ?_ fun _ _ _ => ?_
    | split

theorem passStopped_touch (s : State) (p : Pass) :
    Touch [.one .fresh, .one .scratch, shfAbandonReg.grain, shfFeedStallReg.grain, shfInfZeroReg.grain,
      shfIntSatReg.grain] s (s.passStopped p) := by
  unfold State.passStopped
  with_reducible repeat' first
    | exact .refl _ _ | assumption
    | (extract_lets +onlyGivenNames t; first | (refine Touch.cut t ?_ fun _ => ?_; subst t; rotate_left; clear_value t) | subst t)
    | refine (satAdd_touch ..).step ?_ | refine (feedStall_touch ..).step ?_ | refine (forgets_touch ..).step ?_
    | refine (shfAddFree_touch ..).step ?_ | refine (writesSpace_touch ..).step ?_
    | refine (writesSpace_any ..).step ?_ | refine .foldl _ ?_ fun _ _ _ => ?_ | split

theorem dropPasses_touch (s : State) (q : Pass → Bool) :
    Touch [.one .fresh, .one .scratch, .one .passes, shfAbandonReg.grain, shfFeedStallReg.grain,
      shfInfZeroReg.grain, shfIntSatReg.grain] s (s.dropPasses q) := by
  unfold State.dropPasses
  with_reducible repeat' first
    | exact .refl _ _ | assumption
    | (extract_lets +onlyGivenNames t; first | (refine Touch.cut t ?_ fun _ => ?_; subst t; rotate_left; clear_value t) | subst t)
    | refine (passStopped_touch ..).step ?_ | refine .foldl _ ?_ fun _ _ _ => ?_ | split | refine .set ?_

theorem haltPasses_touch (s : State) (q : Pass → Bool) :
    Touch [.one .fresh, .one .scratch, .one .passes, shfAbandonReg.grain, shfFeedStallReg.grain,
      shfInfZeroReg.grain, shfIntSatReg.grain] s (s.haltPasses q) := by
  unfold State.haltPasses
  with_reducible repeat' first
    | exact .refl _ _ | assumption
    | (extract_lets +onlyGivenNames t; first | (refine Touch.cut t ?_ fun _ => ?_; subst t; rotate_left; clear_value t) | subst t)
    | refine (passStopped_touch ..).step ?_ | refine .foldl _ ?_ fun _ _ _ => ?_ | split | refine .set ?_

theorem setDamper_touch (s : State) (d : Nat) (x : Damper) :
    Touch [.one .dampers] s (s.setDamper d x) := by
  unfold State.setDamper
  exact .set (.refl _ _)

theorem setEngine_touch (s : State) (e : Nat) (x : Engine) :
    Touch [.one .engines] s (s.setEngine e x) := by
  unfold State.setEngine
  exact .set (.refl _ _)

theorem dmaUndone_touch (s : State) (h : HeldDesc) :
    Touch [.one .fresh, .one .tileMem, .one .scratch, .one .const, .one .stack, .one .hostMem] s (s.dmaUndone h) := by
  unfold State.dmaUndone
  with_reducible repeat' first
    | exact .refl _ _ | assumption | refine (forget_touch ..).step ?_ | refine (forget_any ..).step ?_
    | refine .foldl _ ?_ fun _ _ _ => ?_ | split

theorem leaveDampers_touch (s : State) (o : Nat) (ids : List Nat) :
    Touch [.one .dampers] s (s.leaveDampers o ids) := by
  unfold State.leaveDampers
  with_reducible repeat' first
    | exact .refl _ _ | assumption
    | (extract_lets +onlyGivenNames t; first | (refine Touch.cut t ?_ fun _ => ?_; subst t; rotate_left; clear_value t) | subst t)
    | split | refine .set ?_

theorem dropDescs_touch (s : State) (q : HeldDesc → Bool) :
    Touch [.one .fresh, .one .tileMem, .one .scratch, .one .const, .one .stack, .one .hostMem, .one .engines, .one
      .waits, .one .dampers] s (s.dropDescs q) := by
  unfold State.dropDescs
  with_reducible repeat' first
    | exact .refl _ _ | assumption
    | (extract_lets +onlyGivenNames t; first | (refine Touch.cut t ?_ fun _ => ?_; subst t; rotate_left; clear_value t) | subst t)
    | refine (dmaUndone_touch ..).step ?_ | refine (leaveDampers_touch ..).step ?_
    | refine (setEngine_touch ..).step ?_ | refine .foldl _ ?_ fun _ _ _ => ?_ | split | refine .set ?_

theorem stopUnits_touch (s : State) (q : Nat) :
    Touch [.one .fresh, .one .tileMem, .one .scratch, .one .const, .one .stack, .one .hostMem, .one .passes, .one
      .engines, .one .waits, .one .dampers, shfAbandonReg.grain, shfFeedStallReg.grain, shfInfZeroReg.grain,
      shfIntSatReg.grain] s (s.stopUnits q) := by
  unfold State.stopUnits
  with_reducible repeat' first
    | exact .refl _ _ | assumption
    | (extract_lets +onlyGivenNames t; first | (refine Touch.cut t ?_ fun _ => ?_; subst t; rotate_left; clear_value t) | subst t)
    | refine (dropDescs_touch ..).step ?_ | refine (dropPasses_touch ..).step ?_ | split | refine .set ?_

theorem noteRelease_touch (s : State) (f : Firing) :
    Touch [.one .turns] s (s.noteRelease f) := by
  unfold State.noteRelease
  with_reducible repeat' first
    | exact .refl _ _ | assumption
    | (extract_lets +onlyGivenNames t; first | (refine Touch.cut t ?_ fun _ => ?_; subst t; rotate_left; clear_value t) | subst t)
    | split | refine .set ?_

theorem replay_touch (s : State) (q : Nat) :
    Touch [.one .fresh, .one .tileMem, .one .scratch, .one .const, .one .stack, .one .hostMem, .one .passes, .one
      .engines, .one .waits, .one .firings, .one .dampers, shfAbandonReg.grain, shfFeedStallReg.grain,
      shfInfZeroReg.grain, shfIntSatReg.grain] s (s.replay q) := by
  unfold State.replay
  with_reducible repeat' first
    | exact .refl _ _ | assumption | refine (stopUnits_touch ..).step ?_ | refine (updFiring_touch ..).step ?_
    | split | refine .set ?_

theorem abandon_touch (s : State) (q code : Nat) :
    Touch [.one .fresh, .one .tileMem, .one .scratch, .one .const, .one .stack, .one .hostMem, .one .passes, .one
      .engines, .one .waits, .one .firings, .one .turns, .one .dampers, shfAbandonReg.grain, shfFeedStallReg.grain,
      shfInfZeroReg.grain, shfIntSatReg.grain] s (s.abandon q code) := by
  unfold State.abandon
  with_reducible repeat' first
    | exact .refl _ _ | assumption | refine (noteRelease_touch ..).step ?_ | refine (stopUnits_touch ..).step ?_
    | refine (updFiring_touch ..).step ?_ | split | refine .set ?_

theorem fault_touch (s : State) (q code : Nat) :
    Touch [.one .fresh, .one .tileMem, .one .scratch, .one .const, .one .stack, .one .hostMem, .one .passes, .one
      .engines, .one .waits, .one .firings, .one .turns, .one .dampers, shfAbandonReg.grain, shfFeedStallReg.grain,
      shfInfZeroReg.grain, shfIntSatReg.grain] s (s.fault q code) := by
  unfold State.fault
  with_reducible repeat' first
    | exact .refl _ _ | assumption
    | (extract_lets +onlyGivenNames t; first | (refine Touch.cut t ?_ fun _ => ?_; subst t; rotate_left; clear_value t) | subst t)
    | refine (abandon_touch ..).step ?_ | refine (replay_touch ..).step ?_ | refine (updFiring_touch ..).step ?_
    | split | refine .set ?_

theorem faultLine_touch (s : State) (q line : Nat) :
    Touch [.one .fresh, .one .tileMem, .one .scratch, .one .const, .one .stack, .one .hostMem, .one .passes, .one
      .engines, .one .waits, .one .firings, .one .turns, .one .dampers, shfAbandonReg.grain, shfFeedStallReg.grain,
      shfInfZeroReg.grain, shfIntSatReg.grain] s (s.faultLine q line) := by
  unfold State.faultLine
  with_reducible repeat' first
    | exact .refl _ _ | assumption | refine (abandon_touch ..).step ?_ | refine (replay_touch ..).step ?_
    | refine (updFiring_touch ..).step ?_ | split | refine .set ?_

theorem logBegin_touch (s : State) (r : LogRec) :
    Touch [.one .log] s (s.logBegin r) := by
  unfold State.logBegin
  with_reducible repeat' first
    | exact .refl _ _ | assumption | split | refine .set ?_

theorem logLand_touch (s : State) (kind q : Nat) :
    Touch [.one .log] s (s.logLand kind q) := by
  unfold State.logLand
  with_reducible repeat' first
    | exact .refl _ _ | assumption | split | refine .set ?_

theorem logNow_touch (s : State) (r : LogRec) :
    Touch [.one .log] s (s.logNow r) := by
  unfold State.logNow
  with_reducible repeat' first
    | exact .refl _ _ | assumption | split | refine .set ?_

theorem setPort_touch (s : State) (d : Nat) (p : Port) :
    Touch [.one .ports] s (s.setPort d p) := by
  unfold State.setPort
  with_reducible repeat' first
    | exact .refl _ _ | assumption | split | refine .set ?_

theorem output_touch (s : State) (d : Nat) (l : List Bytes) :
    Touch [.one .sent] s (s.output d l) := by
  unfold State.output
  with_reducible repeat' first
    | exact .refl _ _ | assumption | split | refine .set ?_

theorem putFlits_touch (s : State) (d n : Nat) (what : Sent) :
    Touch [.one .ports, .one .sent] s (s.putFlits d n what) := by
  unfold State.putFlits
  with_reducible repeat' first
    | exact .refl _ _ | assumption
    | (extract_lets +onlyGivenNames t; first | (refine Touch.cut t ?_ fun _ => ?_; subst t; rotate_left; clear_value t) | subst t)
    | refine (output_touch ..).step ?_ | refine (setPort_touch ..).step ?_ | split | refine .set ?_

theorem putOnLink_touch (s : State) (d : Nat) (h : HeldPkt) :
    Touch [.one .ports, .one .sent] s (s.putOnLink d h) := by
  unfold State.putOnLink
  with_reducible repeat' first
    | exact .refl _ _ | assumption | refine (putFlits_touch ..).step ?_ | split

theorem cutShort_touch (s : State) (d n : Nat) (h : HeldPkt) :
    Touch [.one .ports, .one .sent] s (s.cutShort d n h) := by
  unfold State.cutShort
  with_reducible repeat' first
    | exact .refl _ _ | assumption | refine (putFlits_touch ..).step ?_ | split

theorem replayLink_touch (s : State) (d : Nat) :
    Touch [.one .sent, fabPortCntReg.grain] s (s.replayLink d) := by
  unfold State.replayLink
  with_reducible repeat' first
    | exact .refl _ _ | assumption
    | (extract_lets +onlyGivenNames t; first | (refine Touch.cut t ?_ fun _ => ?_; subst t; rotate_left; clear_value t) | subst t)
    | refine (satAdd_touch ..).step ?_ | refine (output_touch ..).step ?_ | split

theorem ackFlits_touch (s : State) (d ack : Nat) :
    Touch [.one .ports] s (s.ackFlits d ack) := by
  unfold State.ackFlits
  with_reducible repeat' first
    | exact .refl _ _ | assumption
    | (extract_lets +onlyGivenNames t; first | (refine Touch.cut t ?_ fun _ => ?_; subst t; rotate_left; clear_value t) | subst t)
    | refine (setPort_touch ..).step ?_ | split | refine .set ?_

theorem setSrc_touch (s : State) (dst : Nat) (x : SrcSeq) :
    Touch [.one .flows] s (s.setSrc dst x) := by
  unfold State.setSrc
  with_reducible repeat' first
    | exact .refl _ _ | assumption | split | refine .set ?_

theorem number_touch (s : State) (h : HeldPkt) :
    Touch [.one .flows, fabHoldReg.grain] s (s.number h).1 := by
  unfold State.number
  with_reducible repeat' first
    | exact .refl _ _ | assumption
    | (extract_lets +onlyGivenNames t; first | (refine Touch.cut t ?_ fun _ => ?_; subst t; rotate_left; clear_value t) | subst t)
    | refine (wr_touch ..).step ?_ | refine (setSrc_touch ..).step ?_ | split | refine .set ?_

theorem reqSlot_touch (s : State) (d r : Nat) :
    Touch [dmpReqStatReg.grain] s (s.reqSlot d r).2 := by
  unfold State.reqSlot
  with_reducible repeat' first
    | exact .refl _ _ | assumption
    | (extract_lets +onlyGivenNames t; first | (refine Touch.cut t ?_ fun _ => ?_; subst t; rotate_left; clear_value t) | subst t)
    | refine (wr_touch ..).step ?_ | split

theorem countGrant_touch (s : State) (d : Nat) (q : Waiting) (start : Nat) :
    Touch [dmpReqStatReg.grain] s (s.countGrant d q start) := by
  unfold State.countGrant
  with_reducible repeat' first
    | exact .refl _ _ | assumption
    | (extract_lets +onlyGivenNames t; first | (refine Touch.cut t ?_ fun _ => ?_; subst t; rotate_left; clear_value t) | (refine Touch.cut t.1 ?_ fun _ => ?_; subst t; rotate_left; clear_value t) | (refine Touch.cut t.2 ?_ fun _ => ?_; subst t; rotate_left; clear_value t) | subst t)
    | refine (wr_touch ..).step ?_ | refine (satAdd_touch ..).step ?_ | refine (reqSlot_touch ..).step ?_ | split

theorem countStop_touch (s : State) (d : Nat) (q : Waiting) :
    Touch [dmpReqStatReg.grain] s (s.countStop d q) := by
  unfold State.countStop
  with_reducible repeat' first
    | exact .refl _ _ | assumption | refine (satAdd_touch ..).step ?_ | refine (reqSlot_touch ..).step ?_ | split

theorem showHeld_touch (s : State) (d : Nat) :
    Touch [dmpCutReg.grain, dmpReqStatReg.grain] s (s.showHeld d) := by
  unfold State.showHeld
  with_reducible repeat' first
    | exact .refl _ _ | assumption
    | (extract_lets +onlyGivenNames t; first | (refine Touch.cut t ?_ fun _ => ?_; subst t; rotate_left; clear_value t) | subst t)
    | refine (wr_touch ..).step ?_ | refine .foldl _ ?_ fun _ _ _ => ?_ | split

theorem depart_touch (s : State) (d : Nat) (q : Waiting) :
    Touch [.one .ports, .one .sent, .one .inbox] s (s.depart d q) := by
  unfold State.depart
  with_reducible repeat' first
    | exact .refl _ _ | assumption | refine (putOnLink_touch ..).step ?_ | split | refine .set ?_

theorem cutAt_touch (s : State) (d k : Nat) (q : Waiting) :
    Touch [.one .ports, .one .sent] s (s.cutAt d k q) := by
  unfold State.cutAt
  with_reducible repeat' first
    | exact .refl _ _ | assumption | refine (cutShort_touch ..).step ?_ | split

theorem endHolder_touch (s : State) (d : Nat) :
    Touch [.one .dampers, .one .ports, .one .sent, .one .inbox] s (s.endHolder d) := by
  unfold State.endHolder
  with_reducible repeat' first
    | exact .refl _ _ | assumption
    | (extract_lets +onlyGivenNames t; first | (refine Touch.cut t ?_ fun _ => ?_; subst t; rotate_left; clear_value t) | subst t)
    | refine (depart_touch ..).step ?_ | refine (setDamper_touch ..).step ?_ | split | refine .set ?_

theorem withdraw_touch (s : State) (d : Nat) :
    Touch [.one .dampers] s (s.withdraw d) := by
  unfold State.withdraw
  with_reducible repeat' first
    | exact .refl _ _ | assumption
    | (extract_lets +onlyGivenNames t; first | (refine Touch.cut t ?_ fun _ => ?_; subst t; rotate_left; clear_value t) | subst t)
    | refine (setDamper_touch ..).step ?_ | split | refine .set ?_

theorem hint_touch (s : State) (d : Nat) (t : Transfer) :
    Touch [.one .dampers] s (s.hint d t) := by
  unfold State.hint
  with_reducible repeat' first
    | exact .refl _ _ | assumption
    | (extract_lets +onlyGivenNames t; first | (refine Touch.cut t ?_ fun _ => ?_; subst t; rotate_left; clear_value t) | subst t)
    | refine (setDamper_touch ..).step ?_ | split | refine .set ?_

theorem hintAll_touch (s : State) (d : Nat) :
    Touch [.one .dampers] s (s.hintAll d) := by
  unfold State.hintAll
  with_reducible repeat' first
    | exact .refl _ _ | assumption | refine (hint_touch ..).step ?_ | refine .foldl _ ?_ fun _ _ _ => ?_ | split

theorem grant_touch (s : State) (d : Nat) (q : Waiting) :
    Touch [.one .dampers, .one .ports, .one .flows, .one .sent, .one .inbox, dmpReqStatReg.grain, fabHoldReg.grain]
      s (s.grant d q) := by
  unfold State.grant
  dsimp only
  split <;> split <;> (try split) <;> with_reducible repeat' first
    | exact .refl _ _ | assumption | refine (depart_touch ..).step ?_ | refine (endHolder_touch ..).step ?_
    | refine (countGrant_touch ..).step ?_ | refine (number_touch ..).step ?_ | refine (setDamper_touch ..).step ?_

theorem arbitrate_touch (s : State) (d : Nat) :
    Touch [.one .dampers, .one .ports, .one .flows, .one .sent, .one .inbox, dmpReqStatReg.grain, fabHoldReg.grain]
      s (s.arbitrate d) := by
  unfold State.arbitrate
  with_reducible repeat' first
    | exact .refl _ _ | assumption
    | (extract_lets +onlyGivenNames t; first | (refine Touch.cut t ?_ fun _ => ?_; subst t; rotate_left; clear_value t) | subst t)
    | refine (grant_touch ..).step ?_ | refine (withdraw_touch ..).step ?_ | split

theorem stopHolder_touch (s : State) (d : Nat) (q : Waiting) (k freeAt : Nat) :
    Touch [.one .dampers, .one .ports, .one .sent] s (s.stopHolder d q k freeAt) := by
  unfold State.stopHolder
  with_reducible repeat' first
    | exact .refl _ _ | assumption
    | (extract_lets +onlyGivenNames t; first | (refine Touch.cut t ?_ fun _ => ?_; subst t; rotate_left; clear_value t) | subst t)
    | refine (cutAt_touch ..).step ?_ | refine (setDamper_touch ..).step ?_ | split | refine .set ?_

theorem preempt_touch (s : State) (d : Nat) :
    Touch [.one .dampers, .one .ports, .one .sent, dmpReqStatReg.grain] s (s.preempt d) := by
  unfold State.preempt
  with_reducible repeat' first
    | exact .refl _ _ | assumption
    | (extract_lets +onlyGivenNames t; first | (refine Touch.cut t ?_ fun _ => ?_; subst t; rotate_left; clear_value t) | subst t)
    | refine (countStop_touch ..).step ?_ | refine (hint_touch ..).step ?_ | refine (stopHolder_touch ..).step ?_
    | split | refine .set ?_

theorem shutWindow_touch (s : State) (d : Nat) :
    Touch [.one .dampers, .one .ports, .one .sent, dmpStatusReg.grain] s (s.shutWindow d) := by
  unfold State.shutWindow
  with_reducible repeat' first
    | exact .refl _ _ | assumption
    | (extract_lets +onlyGivenNames t; first | (refine Touch.cut t ?_ fun _ => ?_; subst t; rotate_left; clear_value t) | subst t)
    | refine (setBit_touch ..).step ?_ | refine (setDamper_touch ..).step ?_ | refine (stopHolder_touch ..).step ?_
    | split | refine .set ?_

theorem startWindow_touch (s : State) (d w : Nat) :
    Touch [.one .dampers, .one .ports, .one .flows, .one .sent, .one .inbox, dmpReqStatReg.grain, fabHoldReg.grain]
      s (s.startWindow d w) := by
  unfold State.startWindow
  with_reducible repeat' first
    | exact .refl _ _ | assumption
    | (extract_lets +onlyGivenNames t; first | (refine Touch.cut t ?_ fun _ => ?_; subst t; rotate_left; clear_value t) | subst t)
    | refine (arbitrate_touch ..).step ?_ | refine (hintAll_touch ..).step ?_ | refine (preempt_touch ..).step ?_
    | refine (setDamper_touch ..).step ?_ | split | refine .set ?_

theorem settleDamper_touch (s : State) (d : Nat) :
    Touch [.one .dampers, .one .ports, .one .flows, .one .sent, .one .inbox, dmpReqStatReg.grain,
      dmpStatusReg.grain, fabHoldReg.grain] s (s.settleDamper d) := by
  unfold State.settleDamper
  with_reducible repeat' first
    | exact .refl _ _ | assumption
    | (extract_lets +onlyGivenNames t; first | (refine Touch.cut t ?_ fun _ => ?_; subst t; rotate_left; clear_value t) | subst t)
    | refine (endHolder_touch ..).step ?_ | refine (shutWindow_touch ..).step ?_
    | refine (startWindow_touch ..).step ?_ | split

theorem reach_touch (s : State) (d : Nat) (t : Transfer) (pkt : Option HeldPkt) (numbered : Bool) :
    Touch [.one .dampers, .one .ports, .one .flows, .one .sent, .one .inbox, dmpReqStatReg.grain,
      dmpStatusReg.grain, fabHoldReg.grain] s (s.reach d t pkt numbered) := by
  unfold State.reach
  with_reducible repeat' first
    | exact .refl _ _ | assumption
    | (extract_lets +onlyGivenNames t; first | (refine Touch.cut t ?_ fun _ => ?_; subst t; rotate_left; clear_value t) | subst t)
    | refine (arbitrate_touch ..).step ?_ | refine (hint_touch ..).step ?_ | refine (preempt_touch ..).step ?_
    | refine (setDamper_touch ..).step ?_ | refine (settleDamper_touch ..).step ?_ | split | refine .set ?_

theorem serveDamper_touch (s : State) (d : Nat) :
    Touch [.one .dampers, .one .ports, .one .flows, .one .sent, .one .inbox, dmpReqStatReg.grain,
      dmpStatusReg.grain, fabHoldReg.grain] s (s.serveDamper d) := by
  unfold State.serveDamper
  with_reducible repeat' first
    | exact .refl _ _ | assumption | refine (arbitrate_touch ..).step ?_ | refine (hintAll_touch ..).step ?_
    | refine (settleDamper_touch ..).step ?_ | split

theorem countParts_touch (s : State) (t : Transfer) (l : List (Nat × Nat)) :
    Touch [dmpReqStatReg.grain] s (s.countParts t l) := by
  unfold State.countParts
  with_reducible repeat' first
    | exact .refl _ _ | assumption | refine (countGrant_touch ..).step ?_ | refine .foldl _ ?_ fun _ _ _ => ?_
    | split

theorem passChannels_touch (s : State) (t : Transfer) (h : HeldPkt) (l : List (Nat × Nat)) :
    Touch [.one .dampers, .one .ports, .one .flows, .one .sent, .one .inbox, dmpReqStatReg.grain,
      dmpStatusReg.grain, fabHoldReg.grain] s (s.passChannels t h l).1 := by
  unfold State.passChannels
  with_reducible repeat' first
    | exact .refl _ _ | assumption
    | (extract_lets +onlyGivenNames t; first | (refine Touch.cut t ?_ fun _ => ?_; subst t; rotate_left; clear_value t) | (refine Touch.cut t.1 ?_ fun _ => ?_; subst t; rotate_left; clear_value t) | (refine Touch.cut t.2 ?_ fun _ => ?_; subst t; rotate_left; clear_value t) | subst t)
    | refine (countParts_touch ..).step ?_ | refine (reach_touch ..).step ?_
    | refine (settleDamper_touch ..).step ?_ | refine .foldl _ ?_ fun _ _ _ => ?_ | split

theorem hostGrant_touch (s : State) :
    Touch [dmpReqStatReg.grain] s (s.hostGrant) := by
  unfold State.hostGrant
  with_reducible repeat' first
    | exact .refl _ _ | assumption | refine (countParts_touch ..).step ?_ | split

end Sys2Proof.Machine
end

