-- ==== Sys2Proof/Laws/Events.lean ====
section
/-! SUPPORT. Laws/Events.lean: an event that is posted is pending at each of its destinations (R361). -/

namespace Sys2Proof.Machine

set_option Elab.async false

/-- The code waits at the destination. -/
abbrev State.posted (s : State) (d : Nat) (c : Code) : Prop := ∃ e ∈ tget [] s.sit.events d, e.code = c

/-- Adding an event leaves it pending. -/
theorem addEvent_self (l : List PEvent) (c : Code) (ps : List Nat) : ∃ e ∈ addEvent l c ps, e.code = c := by
  unfold addEvent
  split
  · next h =>
    induction l with
    | nil => cases h
    | cons a l ih =>
      by_cases e : a.code = c
      · exact ⟨{ a with count := a.count + 1 }, by simp [updFirst, e], e⟩
      · obtain ⟨x, hx, hc⟩ := ih (by simpa [e] using h)
        exact ⟨x, by simp [updFirst, e, hx], hc⟩
  · exact ⟨⟨c, 1, ps⟩, by simp, rfl⟩

/-- Adding an event leaves every other pending. -/
theorem addEvent_other (l : List PEvent) (c k : Code) (ps : List Nat) (h : ∃ e ∈ l, e.code = k) :
    ∃ e ∈ addEvent l c ps, e.code = k := by
  unfold addEvent
  split
  · rename_i q
    clear q
    induction l with
    | nil => exact h
    | cons a l ih =>
      obtain ⟨e, he, hk⟩ := h
      by_cases q : a.code = c
      · rcases List.mem_cons.1 he with rfl | he
        · exact ⟨{ e with count := e.count + 1 }, by simp [updFirst, q], hk⟩
        · exact ⟨e, by simp [updFirst, q, he], hk⟩
      · rcases List.mem_cons.1 he with rfl | he
        · exact ⟨e, by simp [updFirst, q], hk⟩
        · obtain ⟨x, hx, hc⟩ := ih ⟨e, he, hk⟩
          exact ⟨x, by simp [updFirst, q, hx], hc⟩
  · obtain ⟨e, he, hk⟩ := h
    exact ⟨e, List.mem_append_left _ he, hk⟩

theorem postTo_events (s : State) (d : Nat) (c : Code) (ps : List Nat) :
    (s.postTo d c ps).sit.events = tset [] s.sit.events d (addEvent (tget [] s.sit.events d) c ps) := by
  unfold State.postTo State.raiseRated State.raise
  dsimp only
  (repeat' split) <;> rfl

theorem postTo_posted (s : State) (d k : Nat) (c b : Code) (ps : List Nat) (h : s.posted k b ∨ k = d ∧ b = c) :
    (s.postTo d c ps).posted k b := by
  unfold State.posted
  rw [postTo_events]
  by_cases e : k = d
  · subst e
    rw [tget_tset_same]
    rcases h with h | ⟨-, rfl⟩
    · exact addEvent_other _ _ _ _ h
    · exact addEvent_self ..
  · rw [tget_tset_other _ _ _ _ e]
    rcases h with h | h
    · exact h
    · exact absurd h.1 e

/-- An event that is posted waits at each of the functions that Table 13.8 names, and nothing that waited is lost. -/
theorem post_posted (s : State) (c b : Code) (ps : List Nat) (k : Nat) (h : s.posted k b ∨ k ∈ eventFns c ∧ b = c) :
    (s.post c ps).posted k b := by
  unfold State.post
  have go : ∀ (l : List Nat) (u : State), (u.posted k b ∨ k ∈ l ∧ b = c) →
      (l.foldl (fun s d => s.postTo d c ps) u).posted k b := by
    intro l
    induction l with
    | nil => intro u hu; simpa using hu
    | cons d l ih =>
      intro u hu
      refine ih _ ?_
      rcases hu with hu | ⟨hu, rfl⟩
      · exact .inl (postTo_posted _ _ _ _ _ _ (.inl hu))
      · rcases List.mem_cons.1 hu with rfl | hu
        · exact .inl (postTo_posted _ _ _ _ _ _ (.inr ⟨rfl, rfl⟩))
        · exact .inr ⟨hu, rfl⟩
  refine go _ _ ?_
  rcases h with h | ⟨h, e⟩
  · exact .inl h
  · exact .inr ⟨List.mem_append_left _ h, e⟩

end Sys2Proof.Machine
end

