-- ==== Sys2Proof/Laws/State.lean ====
section
/-! SUPPORT. Laws/State.lean: one lemma for each field that an update leaves alone, so that no proof unfolds a
record update. -/

namespace Sys2Proof.Machine

variable (s : State)

/-! ### wr -/

@[simp] theorem wr_pending (f : Fld) (i v : Nat) : (s.wr f i v).pending = s.pending := rfl
@[simp] theorem wr_fresh (f : Fld) (i v : Nat) : (s.wr f i v).fresh = s.fresh := rfl
@[simp] theorem wr_power (f : Fld) (i v : Nat) : (s.wr f i v).power = s.power := rfl
@[simp] theorem wr_mem (f : Fld) (i v : Nat) : (s.wr f i v).mem = s.mem := rfl
@[simp] theorem wr_passes (f : Fld) (i v : Nat) : (s.wr f i v).passes = s.passes := rfl
@[simp] theorem wr_nextPass (f : Fld) (i v : Nat) : (s.wr f i v).nextPass = s.nextPass := rfl
@[simp] theorem wr_engines (f : Fld) (i v : Nat) : (s.wr f i v).engines = s.engines := rfl
@[simp] theorem wr_flue (f : Fld) (i v : Nat) : (s.wr f i v).flue = s.flue := rfl
@[simp] theorem wr_fe (f : Fld) (i v : Nat) : (s.wr f i v).fe = s.fe := rfl
@[simp] theorem wr_wheel (f : Fld) (i v : Nat) : (s.wr f i v).wheel = s.wheel := rfl
@[simp] theorem wr_dampers (f : Fld) (i v : Nat) : (s.wr f i v).dampers = s.dampers := rfl
@[simp] theorem wr_fab (f : Fld) (i v : Nat) : (s.wr f i v).fab = s.fab := rfl
@[simp] theorem wr_grx (f : Fld) (i v : Nat) : (s.wr f i v).grx = s.grx := rfl
@[simp] theorem wr_pci (f : Fld) (i v : Nat) : (s.wr f i v).pci = s.pci := rfl
@[simp] theorem wr_sit (f : Fld) (i v : Nat) : (s.wr f i v).sit = s.sit := rfl
@[simp] theorem wr_mgmt (f : Fld) (i v : Nat) : (s.wr f i v).mgmt = s.mgmt := rfl
@[simp] theorem wr_sec (f : Fld) (i v : Nat) : (s.wr f i v).sec = s.sec := rfl
@[simp] theorem wr_prs (f : Fld) (i v : Nat) : (s.wr f i v).prs = s.prs := rfl
@[simp] theorem wr_meter (f : Fld) (i v : Nat) : (s.wr f i v).meter = s.meter := rfl
@[simp] theorem wr_rep (f : Fld) (i v : Nat) : (s.wr f i v).rep = s.rep := rfl
@[simp] theorem wr_svc (f : Fld) (i v : Nat) : (s.wr f i v).svc = s.svc := rfl
@[simp] theorem wr_firing (f : Fld) (i v : Nat) (k : Nat) : (s.wr f i v).firing? k = s.firing? k := rfl
@[simp] theorem wr_box (f : Fld) (i v : Nat) (k : Origin) : (s.wr f i v).box k = s.box k := rfl

/-! ### satAdd -/

@[simp] theorem satAdd_pending (f : Fld) (i n : Nat) : (s.satAdd f i n).pending = s.pending := rfl
@[simp] theorem satAdd_fresh (f : Fld) (i n : Nat) : (s.satAdd f i n).fresh = s.fresh := rfl
@[simp] theorem satAdd_power (f : Fld) (i n : Nat) : (s.satAdd f i n).power = s.power := rfl
@[simp] theorem satAdd_mem (f : Fld) (i n : Nat) : (s.satAdd f i n).mem = s.mem := rfl
@[simp] theorem satAdd_passes (f : Fld) (i n : Nat) : (s.satAdd f i n).passes = s.passes := rfl
@[simp] theorem satAdd_nextPass (f : Fld) (i n : Nat) : (s.satAdd f i n).nextPass = s.nextPass := rfl
@[simp] theorem satAdd_engines (f : Fld) (i n : Nat) : (s.satAdd f i n).engines = s.engines := rfl
@[simp] theorem satAdd_flue (f : Fld) (i n : Nat) : (s.satAdd f i n).flue = s.flue := rfl
@[simp] theorem satAdd_fe (f : Fld) (i n : Nat) : (s.satAdd f i n).fe = s.fe := rfl
@[simp] theorem satAdd_wheel (f : Fld) (i n : Nat) : (s.satAdd f i n).wheel = s.wheel := rfl
@[simp] theorem satAdd_dampers (f : Fld) (i n : Nat) : (s.satAdd f i n).dampers = s.dampers := rfl
@[simp] theorem satAdd_fab (f : Fld) (i n : Nat) : (s.satAdd f i n).fab = s.fab := rfl
@[simp] theorem satAdd_grx (f : Fld) (i n : Nat) : (s.satAdd f i n).grx = s.grx := rfl
@[simp] theorem satAdd_pci (f : Fld) (i n : Nat) : (s.satAdd f i n).pci = s.pci := rfl
@[simp] theorem satAdd_sit (f : Fld) (i n : Nat) : (s.satAdd f i n).sit = s.sit := rfl
@[simp] theorem satAdd_mgmt (f : Fld) (i n : Nat) : (s.satAdd f i n).mgmt = s.mgmt := rfl
@[simp] theorem satAdd_sec (f : Fld) (i n : Nat) : (s.satAdd f i n).sec = s.sec := rfl
@[simp] theorem satAdd_prs (f : Fld) (i n : Nat) : (s.satAdd f i n).prs = s.prs := rfl
@[simp] theorem satAdd_meter (f : Fld) (i n : Nat) : (s.satAdd f i n).meter = s.meter := rfl
@[simp] theorem satAdd_rep (f : Fld) (i n : Nat) : (s.satAdd f i n).rep = s.rep := rfl
@[simp] theorem satAdd_svc (f : Fld) (i n : Nat) : (s.satAdd f i n).svc = s.svc := rfl
@[simp] theorem satAdd_firing (f : Fld) (i n : Nat) (k : Nat) : (s.satAdd f i n).firing? k = s.firing? k := rfl
@[simp] theorem satAdd_box (f : Fld) (i n : Nat) (k : Origin) : (s.satAdd f i n).box k = s.box k := rfl

/-! ### wrapAdd -/

@[simp] theorem wrapAdd_pending (f : Fld) (i n : Nat) : (s.wrapAdd f i n).pending = s.pending := rfl
@[simp] theorem wrapAdd_fresh (f : Fld) (i n : Nat) : (s.wrapAdd f i n).fresh = s.fresh := rfl
@[simp] theorem wrapAdd_power (f : Fld) (i n : Nat) : (s.wrapAdd f i n).power = s.power := rfl
@[simp] theorem wrapAdd_mem (f : Fld) (i n : Nat) : (s.wrapAdd f i n).mem = s.mem := rfl
@[simp] theorem wrapAdd_passes (f : Fld) (i n : Nat) : (s.wrapAdd f i n).passes = s.passes := rfl
@[simp] theorem wrapAdd_nextPass (f : Fld) (i n : Nat) : (s.wrapAdd f i n).nextPass = s.nextPass := rfl
@[simp] theorem wrapAdd_engines (f : Fld) (i n : Nat) : (s.wrapAdd f i n).engines = s.engines := rfl
@[simp] theorem wrapAdd_flue (f : Fld) (i n : Nat) : (s.wrapAdd f i n).flue = s.flue := rfl
@[simp] theorem wrapAdd_fe (f : Fld) (i n : Nat) : (s.wrapAdd f i n).fe = s.fe := rfl
@[simp] theorem wrapAdd_wheel (f : Fld) (i n : Nat) : (s.wrapAdd f i n).wheel = s.wheel := rfl
@[simp] theorem wrapAdd_dampers (f : Fld) (i n : Nat) : (s.wrapAdd f i n).dampers = s.dampers := rfl
@[simp] theorem wrapAdd_fab (f : Fld) (i n : Nat) : (s.wrapAdd f i n).fab = s.fab := rfl
@[simp] theorem wrapAdd_grx (f : Fld) (i n : Nat) : (s.wrapAdd f i n).grx = s.grx := rfl
@[simp] theorem wrapAdd_pci (f : Fld) (i n : Nat) : (s.wrapAdd f i n).pci = s.pci := rfl
@[simp] theorem wrapAdd_sit (f : Fld) (i n : Nat) : (s.wrapAdd f i n).sit = s.sit := rfl
@[simp] theorem wrapAdd_mgmt (f : Fld) (i n : Nat) : (s.wrapAdd f i n).mgmt = s.mgmt := rfl
@[simp] theorem wrapAdd_sec (f : Fld) (i n : Nat) : (s.wrapAdd f i n).sec = s.sec := rfl
@[simp] theorem wrapAdd_prs (f : Fld) (i n : Nat) : (s.wrapAdd f i n).prs = s.prs := rfl
@[simp] theorem wrapAdd_meter (f : Fld) (i n : Nat) : (s.wrapAdd f i n).meter = s.meter := rfl
@[simp] theorem wrapAdd_rep (f : Fld) (i n : Nat) : (s.wrapAdd f i n).rep = s.rep := rfl
@[simp] theorem wrapAdd_svc (f : Fld) (i n : Nat) : (s.wrapAdd f i n).svc = s.svc := rfl
@[simp] theorem wrapAdd_firing (f : Fld) (i n : Nat) (k : Nat) : (s.wrapAdd f i n).firing? k = s.firing? k := rfl
@[simp] theorem wrapAdd_box (f : Fld) (i n : Nat) (k : Origin) : (s.wrapAdd f i n).box k = s.box k := rfl

/-! ### setBit -/

@[simp] theorem setBit_pending (f : Fld) (i : Nat) : (s.setBit f i).pending = s.pending := rfl
@[simp] theorem setBit_fresh (f : Fld) (i : Nat) : (s.setBit f i).fresh = s.fresh := rfl
@[simp] theorem setBit_power (f : Fld) (i : Nat) : (s.setBit f i).power = s.power := rfl
@[simp] theorem setBit_mem (f : Fld) (i : Nat) : (s.setBit f i).mem = s.mem := rfl
@[simp] theorem setBit_passes (f : Fld) (i : Nat) : (s.setBit f i).passes = s.passes := rfl
@[simp] theorem setBit_nextPass (f : Fld) (i : Nat) : (s.setBit f i).nextPass = s.nextPass := rfl
@[simp] theorem setBit_engines (f : Fld) (i : Nat) : (s.setBit f i).engines = s.engines := rfl
@[simp] theorem setBit_flue (f : Fld) (i : Nat) : (s.setBit f i).flue = s.flue := rfl
@[simp] theorem setBit_fe (f : Fld) (i : Nat) : (s.setBit f i).fe = s.fe := rfl
@[simp] theorem setBit_wheel (f : Fld) (i : Nat) : (s.setBit f i).wheel = s.wheel := rfl
@[simp] theorem setBit_dampers (f : Fld) (i : Nat) : (s.setBit f i).dampers = s.dampers := rfl
@[simp] theorem setBit_fab (f : Fld) (i : Nat) : (s.setBit f i).fab = s.fab := rfl
@[simp] theorem setBit_grx (f : Fld) (i : Nat) : (s.setBit f i).grx = s.grx := rfl
@[simp] theorem setBit_pci (f : Fld) (i : Nat) : (s.setBit f i).pci = s.pci := rfl
@[simp] theorem setBit_sit (f : Fld) (i : Nat) : (s.setBit f i).sit = s.sit := rfl
@[simp] theorem setBit_mgmt (f : Fld) (i : Nat) : (s.setBit f i).mgmt = s.mgmt := rfl
@[simp] theorem setBit_sec (f : Fld) (i : Nat) : (s.setBit f i).sec = s.sec := rfl
@[simp] theorem setBit_prs (f : Fld) (i : Nat) : (s.setBit f i).prs = s.prs := rfl
@[simp] theorem setBit_meter (f : Fld) (i : Nat) : (s.setBit f i).meter = s.meter := rfl
@[simp] theorem setBit_rep (f : Fld) (i : Nat) : (s.setBit f i).rep = s.rep := rfl
@[simp] theorem setBit_svc (f : Fld) (i : Nat) : (s.setBit f i).svc = s.svc := rfl
@[simp] theorem setBit_firing (f : Fld) (i : Nat) (k : Nat) : (s.setBit f i).firing? k = s.firing? k := rfl
@[simp] theorem setBit_box (f : Fld) (i : Nat) (k : Origin) : (s.setBit f i).box k = s.box k := rfl

/-! ### resetReg -/

@[simp] theorem resetReg_pending (r : Reg) (i : Nat) : (s.resetReg r i).pending = s.pending := rfl
@[simp] theorem resetReg_fresh (r : Reg) (i : Nat) : (s.resetReg r i).fresh = s.fresh := rfl
@[simp] theorem resetReg_power (r : Reg) (i : Nat) : (s.resetReg r i).power = s.power := rfl
@[simp] theorem resetReg_mem (r : Reg) (i : Nat) : (s.resetReg r i).mem = s.mem := rfl
@[simp] theorem resetReg_passes (r : Reg) (i : Nat) : (s.resetReg r i).passes = s.passes := rfl
@[simp] theorem resetReg_nextPass (r : Reg) (i : Nat) : (s.resetReg r i).nextPass = s.nextPass := rfl
@[simp] theorem resetReg_engines (r : Reg) (i : Nat) : (s.resetReg r i).engines = s.engines := rfl
@[simp] theorem resetReg_flue (r : Reg) (i : Nat) : (s.resetReg r i).flue = s.flue := rfl
@[simp] theorem resetReg_fe (r : Reg) (i : Nat) : (s.resetReg r i).fe = s.fe := rfl
@[simp] theorem resetReg_wheel (r : Reg) (i : Nat) : (s.resetReg r i).wheel = s.wheel := rfl
@[simp] theorem resetReg_dampers (r : Reg) (i : Nat) : (s.resetReg r i).dampers = s.dampers := rfl
@[simp] theorem resetReg_fab (r : Reg) (i : Nat) : (s.resetReg r i).fab = s.fab := rfl
@[simp] theorem resetReg_grx (r : Reg) (i : Nat) : (s.resetReg r i).grx = s.grx := rfl
@[simp] theorem resetReg_pci (r : Reg) (i : Nat) : (s.resetReg r i).pci = s.pci := rfl
@[simp] theorem resetReg_sit (r : Reg) (i : Nat) : (s.resetReg r i).sit = s.sit := rfl
@[simp] theorem resetReg_mgmt (r : Reg) (i : Nat) : (s.resetReg r i).mgmt = s.mgmt := rfl
@[simp] theorem resetReg_sec (r : Reg) (i : Nat) : (s.resetReg r i).sec = s.sec := rfl
@[simp] theorem resetReg_prs (r : Reg) (i : Nat) : (s.resetReg r i).prs = s.prs := rfl
@[simp] theorem resetReg_meter (r : Reg) (i : Nat) : (s.resetReg r i).meter = s.meter := rfl
@[simp] theorem resetReg_rep (r : Reg) (i : Nat) : (s.resetReg r i).rep = s.rep := rfl
@[simp] theorem resetReg_svc (r : Reg) (i : Nat) : (s.resetReg r i).svc = s.svc := rfl
@[simp] theorem resetReg_firing (r : Reg) (i : Nat) (k : Nat) : (s.resetReg r i).firing? k = s.firing? k := rfl
@[simp] theorem resetReg_box (r : Reg) (i : Nat) (k : Origin) : (s.resetReg r i).box k = s.box k := rfl

/-! ### setBox -/

@[simp] theorem setBox_pending (o : Origin) (b : Box) : (s.setBox o b).pending = s.pending := rfl
@[simp] theorem setBox_fresh (o : Origin) (b : Box) : (s.setBox o b).fresh = s.fresh := rfl
@[simp] theorem setBox_regs (o : Origin) (b : Box) : (s.setBox o b).regs = s.regs := rfl
@[simp] theorem setBox_power (o : Origin) (b : Box) : (s.setBox o b).power = s.power := rfl
@[simp] theorem setBox_mem (o : Origin) (b : Box) : (s.setBox o b).mem = s.mem := rfl
@[simp] theorem setBox_passes (o : Origin) (b : Box) : (s.setBox o b).passes = s.passes := rfl
@[simp] theorem setBox_nextPass (o : Origin) (b : Box) : (s.setBox o b).nextPass = s.nextPass := rfl
@[simp] theorem setBox_engines (o : Origin) (b : Box) : (s.setBox o b).engines = s.engines := rfl
@[simp] theorem setBox_flue (o : Origin) (b : Box) : (s.setBox o b).flue = s.flue := rfl
@[simp] theorem setBox_fe (o : Origin) (b : Box) : (s.setBox o b).fe = s.fe := rfl
@[simp] theorem setBox_wheel (o : Origin) (b : Box) : (s.setBox o b).wheel = s.wheel := rfl
@[simp] theorem setBox_dampers (o : Origin) (b : Box) : (s.setBox o b).dampers = s.dampers := rfl
@[simp] theorem setBox_fab (o : Origin) (b : Box) : (s.setBox o b).fab = s.fab := rfl
@[simp] theorem setBox_grx (o : Origin) (b : Box) : (s.setBox o b).grx = s.grx := rfl
@[simp] theorem setBox_pci (o : Origin) (b : Box) : (s.setBox o b).pci = s.pci := rfl
@[simp] theorem setBox_events (o : Origin) (b : Box) : (s.setBox o b).sit.events = s.sit.events := rfl
@[simp] theorem setBox_vectors (o : Origin) (b : Box) : (s.setBox o b).sit.vectors = s.sit.vectors := rfl
@[simp] theorem setBox_latched (o : Origin) (b : Box) : (s.setBox o b).sit.latched = s.sit.latched := rfl
@[simp] theorem setBox_busOut (o : Origin) (b : Box) : (s.setBox o b).sit.busOut = s.sit.busOut := rfl
@[simp] theorem setBox_restartCause (o : Origin) (b : Box) : (s.setBox o b).sit.restartCause = s.sit.restartCause := rfl
@[simp] theorem setBox_mgmt (o : Origin) (b : Box) : (s.setBox o b).mgmt = s.mgmt := rfl
@[simp] theorem setBox_sec (o : Origin) (b : Box) : (s.setBox o b).sec = s.sec := rfl
@[simp] theorem setBox_prs (o : Origin) (b : Box) : (s.setBox o b).prs = s.prs := rfl
@[simp] theorem setBox_meter (o : Origin) (b : Box) : (s.setBox o b).meter = s.meter := rfl
@[simp] theorem setBox_rep (o : Origin) (b : Box) : (s.setBox o b).rep = s.rep := rfl
@[simp] theorem setBox_svc (o : Origin) (b : Box) : (s.setBox o b).svc = s.svc := rfl
@[simp] theorem setBox_rd (o : Origin) (b : Box) (k : Fld) (j : Nat) : (s.setBox o b).rd k j = s.rd k j := rfl
@[simp] theorem setBox_firing (o : Origin) (b : Box) (k : Nat) : (s.setBox o b).firing? k = s.firing? k := rfl

/-! ### setBar -/

@[simp] theorem setBar_pending (g : Nat) (b : Barrier) : (s.setBar g b).pending = s.pending := rfl
@[simp] theorem setBar_fresh (g : Nat) (b : Barrier) : (s.setBar g b).fresh = s.fresh := rfl
@[simp] theorem setBar_regs (g : Nat) (b : Barrier) : (s.setBar g b).regs = s.regs := rfl
@[simp] theorem setBar_power (g : Nat) (b : Barrier) : (s.setBar g b).power = s.power := rfl
@[simp] theorem setBar_mem (g : Nat) (b : Barrier) : (s.setBar g b).mem = s.mem := rfl
@[simp] theorem setBar_passes (g : Nat) (b : Barrier) : (s.setBar g b).passes = s.passes := rfl
@[simp] theorem setBar_nextPass (g : Nat) (b : Barrier) : (s.setBar g b).nextPass = s.nextPass := rfl
@[simp] theorem setBar_engines (g : Nat) (b : Barrier) : (s.setBar g b).engines = s.engines := rfl
@[simp] theorem setBar_waits (g : Nat) (b : Barrier) : (s.setBar g b).flue.waits = s.flue.waits := rfl
@[simp] theorem setBar_records (g : Nat) (b : Barrier) : (s.setBar g b).flue.records = s.flue.records := rfl
@[simp] theorem setBar_fe (g : Nat) (b : Barrier) : (s.setBar g b).fe = s.fe := rfl
@[simp] theorem setBar_wheel (g : Nat) (b : Barrier) : (s.setBar g b).wheel = s.wheel := rfl
@[simp] theorem setBar_dampers (g : Nat) (b : Barrier) : (s.setBar g b).dampers = s.dampers := rfl
@[simp] theorem setBar_fab (g : Nat) (b : Barrier) : (s.setBar g b).fab = s.fab := rfl
@[simp] theorem setBar_grx (g : Nat) (b : Barrier) : (s.setBar g b).grx = s.grx := rfl
@[simp] theorem setBar_pci (g : Nat) (b : Barrier) : (s.setBar g b).pci = s.pci := rfl
@[simp] theorem setBar_sit (g : Nat) (b : Barrier) : (s.setBar g b).sit = s.sit := rfl
@[simp] theorem setBar_mgmt (g : Nat) (b : Barrier) : (s.setBar g b).mgmt = s.mgmt := rfl
@[simp] theorem setBar_sec (g : Nat) (b : Barrier) : (s.setBar g b).sec = s.sec := rfl
@[simp] theorem setBar_prs (g : Nat) (b : Barrier) : (s.setBar g b).prs = s.prs := rfl
@[simp] theorem setBar_meter (g : Nat) (b : Barrier) : (s.setBar g b).meter = s.meter := rfl
@[simp] theorem setBar_rep (g : Nat) (b : Barrier) : (s.setBar g b).rep = s.rep := rfl
@[simp] theorem setBar_svc (g : Nat) (b : Barrier) : (s.setBar g b).svc = s.svc := rfl
@[simp] theorem setBar_rd (g : Nat) (b : Barrier) (k : Fld) (j : Nat) : (s.setBar g b).rd k j = s.rd k j := rfl
@[simp] theorem setBar_firing (g : Nat) (b : Barrier) (k : Nat) : (s.setBar g b).firing? k = s.firing? k := rfl
@[simp] theorem setBar_box (g : Nat) (b : Barrier) (k : Origin) : (s.setBar g b).box k = s.box k := rfl

/-! ### setDamper -/

@[simp] theorem setDamper_pending (d : Nat) (x : Damper) : (s.setDamper d x).pending = s.pending := rfl
@[simp] theorem setDamper_fresh (d : Nat) (x : Damper) : (s.setDamper d x).fresh = s.fresh := rfl
@[simp] theorem setDamper_regs (d : Nat) (x : Damper) : (s.setDamper d x).regs = s.regs := rfl
@[simp] theorem setDamper_power (d : Nat) (x : Damper) : (s.setDamper d x).power = s.power := rfl
@[simp] theorem setDamper_mem (d : Nat) (x : Damper) : (s.setDamper d x).mem = s.mem := rfl
@[simp] theorem setDamper_passes (d : Nat) (x : Damper) : (s.setDamper d x).passes = s.passes := rfl
@[simp] theorem setDamper_nextPass (d : Nat) (x : Damper) : (s.setDamper d x).nextPass = s.nextPass := rfl
@[simp] theorem setDamper_engines (d : Nat) (x : Damper) : (s.setDamper d x).engines = s.engines := rfl
@[simp] theorem setDamper_flue (d : Nat) (x : Damper) : (s.setDamper d x).flue = s.flue := rfl
@[simp] theorem setDamper_fe (d : Nat) (x : Damper) : (s.setDamper d x).fe = s.fe := rfl
@[simp] theorem setDamper_wheel (d : Nat) (x : Damper) : (s.setDamper d x).wheel = s.wheel := rfl
@[simp] theorem setDamper_fab (d : Nat) (x : Damper) : (s.setDamper d x).fab = s.fab := rfl
@[simp] theorem setDamper_grx (d : Nat) (x : Damper) : (s.setDamper d x).grx = s.grx := rfl
@[simp] theorem setDamper_pci (d : Nat) (x : Damper) : (s.setDamper d x).pci = s.pci := rfl
@[simp] theorem setDamper_sit (d : Nat) (x : Damper) : (s.setDamper d x).sit = s.sit := rfl
@[simp] theorem setDamper_mgmt (d : Nat) (x : Damper) : (s.setDamper d x).mgmt = s.mgmt := rfl
@[simp] theorem setDamper_sec (d : Nat) (x : Damper) : (s.setDamper d x).sec = s.sec := rfl
@[simp] theorem setDamper_prs (d : Nat) (x : Damper) : (s.setDamper d x).prs = s.prs := rfl
@[simp] theorem setDamper_meter (d : Nat) (x : Damper) : (s.setDamper d x).meter = s.meter := rfl
@[simp] theorem setDamper_rep (d : Nat) (x : Damper) : (s.setDamper d x).rep = s.rep := rfl
@[simp] theorem setDamper_svc (d : Nat) (x : Damper) : (s.setDamper d x).svc = s.svc := rfl
@[simp] theorem setDamper_rd (d : Nat) (x : Damper) (k : Fld) (j : Nat) : (s.setDamper d x).rd k j = s.rd k j := rfl
@[simp] theorem setDamper_firing (d : Nat) (x : Damper) (k : Nat) : (s.setDamper d x).firing? k = s.firing? k := rfl
@[simp] theorem setDamper_box (d : Nat) (x : Damper) (k : Origin) : (s.setDamper d x).box k = s.box k := rfl

/-! ### setEngine -/

@[simp] theorem setEngine_pending (e : Nat) (x : Engine) : (s.setEngine e x).pending = s.pending := rfl
@[simp] theorem setEngine_fresh (e : Nat) (x : Engine) : (s.setEngine e x).fresh = s.fresh := rfl
@[simp] theorem setEngine_regs (e : Nat) (x : Engine) : (s.setEngine e x).regs = s.regs := rfl
@[simp] theorem setEngine_power (e : Nat) (x : Engine) : (s.setEngine e x).power = s.power := rfl
@[simp] theorem setEngine_mem (e : Nat) (x : Engine) : (s.setEngine e x).mem = s.mem := rfl
@[simp] theorem setEngine_passes (e : Nat) (x : Engine) : (s.setEngine e x).passes = s.passes := rfl
@[simp] theorem setEngine_nextPass (e : Nat) (x : Engine) : (s.setEngine e x).nextPass = s.nextPass := rfl
@[simp] theorem setEngine_flue (e : Nat) (x : Engine) : (s.setEngine e x).flue = s.flue := rfl
@[simp] theorem setEngine_fe (e : Nat) (x : Engine) : (s.setEngine e x).fe = s.fe := rfl
@[simp] theorem setEngine_wheel (e : Nat) (x : Engine) : (s.setEngine e x).wheel = s.wheel := rfl
@[simp] theorem setEngine_dampers (e : Nat) (x : Engine) : (s.setEngine e x).dampers = s.dampers := rfl
@[simp] theorem setEngine_fab (e : Nat) (x : Engine) : (s.setEngine e x).fab = s.fab := rfl
@[simp] theorem setEngine_grx (e : Nat) (x : Engine) : (s.setEngine e x).grx = s.grx := rfl
@[simp] theorem setEngine_pci (e : Nat) (x : Engine) : (s.setEngine e x).pci = s.pci := rfl
@[simp] theorem setEngine_sit (e : Nat) (x : Engine) : (s.setEngine e x).sit = s.sit := rfl
@[simp] theorem setEngine_mgmt (e : Nat) (x : Engine) : (s.setEngine e x).mgmt = s.mgmt := rfl
@[simp] theorem setEngine_sec (e : Nat) (x : Engine) : (s.setEngine e x).sec = s.sec := rfl
@[simp] theorem setEngine_prs (e : Nat) (x : Engine) : (s.setEngine e x).prs = s.prs := rfl
@[simp] theorem setEngine_meter (e : Nat) (x : Engine) : (s.setEngine e x).meter = s.meter := rfl
@[simp] theorem setEngine_rep (e : Nat) (x : Engine) : (s.setEngine e x).rep = s.rep := rfl
@[simp] theorem setEngine_svc (e : Nat) (x : Engine) : (s.setEngine e x).svc = s.svc := rfl
@[simp] theorem setEngine_rd (e : Nat) (x : Engine) (k : Fld) (j : Nat) : (s.setEngine e x).rd k j = s.rd k j := rfl
@[simp] theorem setEngine_firing (e : Nat) (x : Engine) (k : Nat) : (s.setEngine e x).firing? k = s.firing? k := rfl
@[simp] theorem setEngine_box (e : Nat) (x : Engine) (k : Origin) : (s.setEngine e x).box k = s.box k := rfl

/-! ### setPort -/

@[simp] theorem setPort_pending (d : Nat) (x : Port) : (s.setPort d x).pending = s.pending := rfl
@[simp] theorem setPort_fresh (d : Nat) (x : Port) : (s.setPort d x).fresh = s.fresh := rfl
@[simp] theorem setPort_regs (d : Nat) (x : Port) : (s.setPort d x).regs = s.regs := rfl
@[simp] theorem setPort_power (d : Nat) (x : Port) : (s.setPort d x).power = s.power := rfl
@[simp] theorem setPort_mem (d : Nat) (x : Port) : (s.setPort d x).mem = s.mem := rfl
@[simp] theorem setPort_passes (d : Nat) (x : Port) : (s.setPort d x).passes = s.passes := rfl
@[simp] theorem setPort_nextPass (d : Nat) (x : Port) : (s.setPort d x).nextPass = s.nextPass := rfl
@[simp] theorem setPort_engines (d : Nat) (x : Port) : (s.setPort d x).engines = s.engines := rfl
@[simp] theorem setPort_flue (d : Nat) (x : Port) : (s.setPort d x).flue = s.flue := rfl
@[simp] theorem setPort_fe (d : Nat) (x : Port) : (s.setPort d x).fe = s.fe := rfl
@[simp] theorem setPort_wheel (d : Nat) (x : Port) : (s.setPort d x).wheel = s.wheel := rfl
@[simp] theorem setPort_dampers (d : Nat) (x : Port) : (s.setPort d x).dampers = s.dampers := rfl
@[simp] theorem setPort_plan (d : Nat) (x : Port) : (s.setPort d x).fab.plan = s.fab.plan := rfl
@[simp] theorem setPort_links (d : Nat) (x : Port) : (s.setPort d x).fab.links = s.fab.links := rfl
@[simp] theorem setPort_notices (d : Nat) (x : Port) : (s.setPort d x).fab.notices = s.fab.notices := rfl
@[simp] theorem setPort_src (d : Nat) (x : Port) : (s.setPort d x).fab.src = s.fab.src := rfl
@[simp] theorem setPort_dst (d : Nat) (x : Port) : (s.setPort d x).fab.dst = s.fab.dst := rfl
@[simp] theorem setPort_sent (d : Nat) (x : Port) : (s.setPort d x).fab.sent = s.fab.sent := rfl
@[simp] theorem setPort_again (d : Nat) (x : Port) : (s.setPort d x).fab.again = s.fab.again := rfl
@[simp] theorem setPort_floods (d : Nat) (x : Port) : (s.setPort d x).fab.floods = s.fab.floods := rfl
@[simp] theorem setPort_grx (d : Nat) (x : Port) : (s.setPort d x).grx = s.grx := rfl
@[simp] theorem setPort_pci (d : Nat) (x : Port) : (s.setPort d x).pci = s.pci := rfl
@[simp] theorem setPort_sit (d : Nat) (x : Port) : (s.setPort d x).sit = s.sit := rfl
@[simp] theorem setPort_mgmt (d : Nat) (x : Port) : (s.setPort d x).mgmt = s.mgmt := rfl
@[simp] theorem setPort_sec (d : Nat) (x : Port) : (s.setPort d x).sec = s.sec := rfl
@[simp] theorem setPort_prs (d : Nat) (x : Port) : (s.setPort d x).prs = s.prs := rfl
@[simp] theorem setPort_meter (d : Nat) (x : Port) : (s.setPort d x).meter = s.meter := rfl
@[simp] theorem setPort_rep (d : Nat) (x : Port) : (s.setPort d x).rep = s.rep := rfl
@[simp] theorem setPort_svc (d : Nat) (x : Port) : (s.setPort d x).svc = s.svc := rfl
@[simp] theorem setPort_rd (d : Nat) (x : Port) (k : Fld) (j : Nat) : (s.setPort d x).rd k j = s.rd k j := rfl
@[simp] theorem setPort_firing (d : Nat) (x : Port) (k : Nat) : (s.setPort d x).firing? k = s.firing? k := rfl
@[simp] theorem setPort_box (d : Nat) (x : Port) (k : Origin) : (s.setPort d x).box k = s.box k := rfl

/-! ### setSrc -/

@[simp] theorem setSrc_pending (d : Nat) (x : SrcSeq) : (s.setSrc d x).pending = s.pending := rfl
@[simp] theorem setSrc_fresh (d : Nat) (x : SrcSeq) : (s.setSrc d x).fresh = s.fresh := rfl
@[simp] theorem setSrc_regs (d : Nat) (x : SrcSeq) : (s.setSrc d x).regs = s.regs := rfl
@[simp] theorem setSrc_power (d : Nat) (x : SrcSeq) : (s.setSrc d x).power = s.power := rfl
@[simp] theorem setSrc_mem (d : Nat) (x : SrcSeq) : (s.setSrc d x).mem = s.mem := rfl
@[simp] theorem setSrc_passes (d : Nat) (x : SrcSeq) : (s.setSrc d x).passes = s.passes := rfl
@[simp] theorem setSrc_nextPass (d : Nat) (x : SrcSeq) : (s.setSrc d x).nextPass = s.nextPass := rfl
@[simp] theorem setSrc_engines (d : Nat) (x : SrcSeq) : (s.setSrc d x).engines = s.engines := rfl
@[simp] theorem setSrc_flue (d : Nat) (x : SrcSeq) : (s.setSrc d x).flue = s.flue := rfl
@[simp] theorem setSrc_fe (d : Nat) (x : SrcSeq) : (s.setSrc d x).fe = s.fe := rfl
@[simp] theorem setSrc_wheel (d : Nat) (x : SrcSeq) : (s.setSrc d x).wheel = s.wheel := rfl
@[simp] theorem setSrc_dampers (d : Nat) (x : SrcSeq) : (s.setSrc d x).dampers = s.dampers := rfl
@[simp] theorem setSrc_plan (d : Nat) (x : SrcSeq) : (s.setSrc d x).fab.plan = s.fab.plan := rfl
@[simp] theorem setSrc_links (d : Nat) (x : SrcSeq) : (s.setSrc d x).fab.links = s.fab.links := rfl
@[simp] theorem setSrc_notices (d : Nat) (x : SrcSeq) : (s.setSrc d x).fab.notices = s.fab.notices := rfl
@[simp] theorem setSrc_ports (d : Nat) (x : SrcSeq) : (s.setSrc d x).fab.ports = s.fab.ports := rfl
@[simp] theorem setSrc_dst (d : Nat) (x : SrcSeq) : (s.setSrc d x).fab.dst = s.fab.dst := rfl
@[simp] theorem setSrc_sent (d : Nat) (x : SrcSeq) : (s.setSrc d x).fab.sent = s.fab.sent := rfl
@[simp] theorem setSrc_again (d : Nat) (x : SrcSeq) : (s.setSrc d x).fab.again = s.fab.again := rfl
@[simp] theorem setSrc_floods (d : Nat) (x : SrcSeq) : (s.setSrc d x).fab.floods = s.fab.floods := rfl
@[simp] theorem setSrc_grx (d : Nat) (x : SrcSeq) : (s.setSrc d x).grx = s.grx := rfl
@[simp] theorem setSrc_pci (d : Nat) (x : SrcSeq) : (s.setSrc d x).pci = s.pci := rfl
@[simp] theorem setSrc_sit (d : Nat) (x : SrcSeq) : (s.setSrc d x).sit = s.sit := rfl
@[simp] theorem setSrc_mgmt (d : Nat) (x : SrcSeq) : (s.setSrc d x).mgmt = s.mgmt := rfl
@[simp] theorem setSrc_sec (d : Nat) (x : SrcSeq) : (s.setSrc d x).sec = s.sec := rfl
@[simp] theorem setSrc_prs (d : Nat) (x : SrcSeq) : (s.setSrc d x).prs = s.prs := rfl
@[simp] theorem setSrc_meter (d : Nat) (x : SrcSeq) : (s.setSrc d x).meter = s.meter := rfl
@[simp] theorem setSrc_rep (d : Nat) (x : SrcSeq) : (s.setSrc d x).rep = s.rep := rfl
@[simp] theorem setSrc_svc (d : Nat) (x : SrcSeq) : (s.setSrc d x).svc = s.svc := rfl
@[simp] theorem setSrc_rd (d : Nat) (x : SrcSeq) (k : Fld) (j : Nat) : (s.setSrc d x).rd k j = s.rd k j := rfl
@[simp] theorem setSrc_firing (d : Nat) (x : SrcSeq) (k : Nat) : (s.setSrc d x).firing? k = s.firing? k := rfl
@[simp] theorem setSrc_box (d : Nat) (x : SrcSeq) (k : Origin) : (s.setSrc d x).box k = s.box k := rfl

/-! ### updFiring -/

@[simp] theorem updFiring_pending (q : Nat) (g : Firing → Firing) : (s.updFiring q g).pending = s.pending := rfl
@[simp] theorem updFiring_fresh (q : Nat) (g : Firing → Firing) : (s.updFiring q g).fresh = s.fresh := rfl
@[simp] theorem updFiring_regs (q : Nat) (g : Firing → Firing) : (s.updFiring q g).regs = s.regs := rfl
@[simp] theorem updFiring_power (q : Nat) (g : Firing → Firing) : (s.updFiring q g).power = s.power := rfl
@[simp] theorem updFiring_mem (q : Nat) (g : Firing → Firing) : (s.updFiring q g).mem = s.mem := rfl
@[simp] theorem updFiring_passes (q : Nat) (g : Firing → Firing) : (s.updFiring q g).passes = s.passes := rfl
@[simp] theorem updFiring_nextPass (q : Nat) (g : Firing → Firing) : (s.updFiring q g).nextPass = s.nextPass := rfl
@[simp] theorem updFiring_engines (q : Nat) (g : Firing → Firing) : (s.updFiring q g).engines = s.engines := rfl
@[simp] theorem updFiring_flue (q : Nat) (g : Firing → Firing) : (s.updFiring q g).flue = s.flue := rfl
@[simp] theorem updFiring_graphs (q : Nat) (g : Firing → Firing) : (s.updFiring q g).fe.graphs = s.fe.graphs := rfl
@[simp] theorem updFiring_cur (q : Nat) (g : Firing → Firing) : (s.updFiring q g).fe.cur = s.fe.cur := rfl
@[simp] theorem updFiring_slots (q : Nat) (g : Firing → Firing) : (s.updFiring q g).fe.slots = s.fe.slots := rfl
@[simp] theorem updFiring_woken (q : Nat) (g : Firing → Firing) : (s.updFiring q g).fe.woken = s.fe.woken := rfl
@[simp] theorem updFiring_log (q : Nat) (g : Firing → Firing) : (s.updFiring q g).fe.log = s.fe.log := rfl
@[simp] theorem updFiring_writing (q : Nat) (g : Firing → Firing) : (s.updFiring q g).fe.writing = s.fe.writing := rfl
@[simp] theorem updFiring_nextPos (q : Nat) (g : Firing → Firing) : (s.updFiring q g).fe.nextPos = s.fe.nextPos := rfl
@[simp] theorem updFiring_ledger (q : Nat) (g : Firing → Firing) : (s.updFiring q g).fe.ledger = s.fe.ledger := rfl
@[simp] theorem updFiring_nextLseq (q : Nat) (g : Firing → Firing) : (s.updFiring q g).fe.nextLseq = s.fe.nextLseq := rfl
@[simp] theorem updFiring_copying (q : Nat) (g : Firing → Firing) : (s.updFiring q g).fe.copying = s.fe.copying := rfl
@[simp] theorem updFiring_sinceCursor (q : Nat) (g : Firing → Firing) : (s.updFiring q g).fe.sinceCursor = s.fe.sinceCursor := rfl
@[simp] theorem updFiring_actions (q : Nat) (g : Firing → Firing) : (s.updFiring q g).fe.actions = s.fe.actions := rfl
@[simp] theorem updFiring_turns (q : Nat) (g : Firing → Firing) : (s.updFiring q g).fe.turns = s.fe.turns := rfl
@[simp] theorem updFiring_releases (q : Nat) (g : Firing → Firing) : (s.updFiring q g).fe.releases = s.fe.releases := rfl
@[simp] theorem updFiring_asked (q : Nat) (g : Firing → Firing) : (s.updFiring q g).fe.asked = s.fe.asked := rfl
@[simp] theorem updFiring_wheel (q : Nat) (g : Firing → Firing) : (s.updFiring q g).wheel = s.wheel := rfl
@[simp] theorem updFiring_dampers (q : Nat) (g : Firing → Firing) : (s.updFiring q g).dampers = s.dampers := rfl
@[simp] theorem updFiring_fab (q : Nat) (g : Firing → Firing) : (s.updFiring q g).fab = s.fab := rfl
@[simp] theorem updFiring_grx (q : Nat) (g : Firing → Firing) : (s.updFiring q g).grx = s.grx := rfl
@[simp] theorem updFiring_pci (q : Nat) (g : Firing → Firing) : (s.updFiring q g).pci = s.pci := rfl
@[simp] theorem updFiring_sit (q : Nat) (g : Firing → Firing) : (s.updFiring q g).sit = s.sit := rfl
@[simp] theorem updFiring_mgmt (q : Nat) (g : Firing → Firing) : (s.updFiring q g).mgmt = s.mgmt := rfl
@[simp] theorem updFiring_sec (q : Nat) (g : Firing → Firing) : (s.updFiring q g).sec = s.sec := rfl
@[simp] theorem updFiring_prs (q : Nat) (g : Firing → Firing) : (s.updFiring q g).prs = s.prs := rfl
@[simp] theorem updFiring_meter (q : Nat) (g : Firing → Firing) : (s.updFiring q g).meter = s.meter := rfl
@[simp] theorem updFiring_rep (q : Nat) (g : Firing → Firing) : (s.updFiring q g).rep = s.rep := rfl
@[simp] theorem updFiring_svc (q : Nat) (g : Firing → Firing) : (s.updFiring q g).svc = s.svc := rfl
@[simp] theorem updFiring_rd (q : Nat) (g : Firing → Firing) (k : Fld) (j : Nat) : (s.updFiring q g).rd k j = s.rd k j := rfl
@[simp] theorem updFiring_box (q : Nat) (g : Firing → Firing) (k : Origin) : (s.updFiring q g).box k = s.box k := rfl

/-! ### logNow -/

@[simp] theorem logNow_pending (r : LogRec) : (s.logNow r).pending = s.pending := rfl
@[simp] theorem logNow_fresh (r : LogRec) : (s.logNow r).fresh = s.fresh := rfl
@[simp] theorem logNow_regs (r : LogRec) : (s.logNow r).regs = s.regs := rfl
@[simp] theorem logNow_power (r : LogRec) : (s.logNow r).power = s.power := rfl
@[simp] theorem logNow_mem (r : LogRec) : (s.logNow r).mem = s.mem := rfl
@[simp] theorem logNow_passes (r : LogRec) : (s.logNow r).passes = s.passes := rfl
@[simp] theorem logNow_nextPass (r : LogRec) : (s.logNow r).nextPass = s.nextPass := rfl
@[simp] theorem logNow_engines (r : LogRec) : (s.logNow r).engines = s.engines := rfl
@[simp] theorem logNow_flue (r : LogRec) : (s.logNow r).flue = s.flue := rfl
@[simp] theorem logNow_graphs (r : LogRec) : (s.logNow r).fe.graphs = s.fe.graphs := rfl
@[simp] theorem logNow_cur (r : LogRec) : (s.logNow r).fe.cur = s.fe.cur := rfl
@[simp] theorem logNow_slots (r : LogRec) : (s.logNow r).fe.slots = s.fe.slots := rfl
@[simp] theorem logNow_woken (r : LogRec) : (s.logNow r).fe.woken = s.fe.woken := rfl
@[simp] theorem logNow_firings (r : LogRec) : (s.logNow r).fe.firings = s.fe.firings := rfl
@[simp] theorem logNow_writing (r : LogRec) : (s.logNow r).fe.writing = s.fe.writing := rfl
@[simp] theorem logNow_ledger (r : LogRec) : (s.logNow r).fe.ledger = s.fe.ledger := rfl
@[simp] theorem logNow_nextLseq (r : LogRec) : (s.logNow r).fe.nextLseq = s.fe.nextLseq := rfl
@[simp] theorem logNow_copying (r : LogRec) : (s.logNow r).fe.copying = s.fe.copying := rfl
@[simp] theorem logNow_sinceCursor (r : LogRec) : (s.logNow r).fe.sinceCursor = s.fe.sinceCursor := rfl
@[simp] theorem logNow_actions (r : LogRec) : (s.logNow r).fe.actions = s.fe.actions := rfl
@[simp] theorem logNow_turns (r : LogRec) : (s.logNow r).fe.turns = s.fe.turns := rfl
@[simp] theorem logNow_releases (r : LogRec) : (s.logNow r).fe.releases = s.fe.releases := rfl
@[simp] theorem logNow_asked (r : LogRec) : (s.logNow r).fe.asked = s.fe.asked := rfl
@[simp] theorem logNow_wheel (r : LogRec) : (s.logNow r).wheel = s.wheel := rfl
@[simp] theorem logNow_dampers (r : LogRec) : (s.logNow r).dampers = s.dampers := rfl
@[simp] theorem logNow_fab (r : LogRec) : (s.logNow r).fab = s.fab := rfl
@[simp] theorem logNow_grx (r : LogRec) : (s.logNow r).grx = s.grx := rfl
@[simp] theorem logNow_pci (r : LogRec) : (s.logNow r).pci = s.pci := rfl
@[simp] theorem logNow_sit (r : LogRec) : (s.logNow r).sit = s.sit := rfl
@[simp] theorem logNow_mgmt (r : LogRec) : (s.logNow r).mgmt = s.mgmt := rfl
@[simp] theorem logNow_sec (r : LogRec) : (s.logNow r).sec = s.sec := rfl
@[simp] theorem logNow_prs (r : LogRec) : (s.logNow r).prs = s.prs := rfl
@[simp] theorem logNow_meter (r : LogRec) : (s.logNow r).meter = s.meter := rfl
@[simp] theorem logNow_rep (r : LogRec) : (s.logNow r).rep = s.rep := rfl
@[simp] theorem logNow_svc (r : LogRec) : (s.logNow r).svc = s.svc := rfl
@[simp] theorem logNow_rd (r : LogRec) (k : Fld) (j : Nat) : (s.logNow r).rd k j = s.rd k j := rfl
@[simp] theorem logNow_firing (r : LogRec) (k : Nat) : (s.logNow r).firing? k = s.firing? k := rfl
@[simp] theorem logNow_box (r : LogRec) (k : Origin) : (s.logNow r).box k = s.box k := rfl

/-! ### logBegin -/

@[simp] theorem logBegin_pending (r : LogRec) : (s.logBegin r).pending = s.pending := rfl
@[simp] theorem logBegin_fresh (r : LogRec) : (s.logBegin r).fresh = s.fresh := rfl
@[simp] theorem logBegin_regs (r : LogRec) : (s.logBegin r).regs = s.regs := rfl
@[simp] theorem logBegin_power (r : LogRec) : (s.logBegin r).power = s.power := rfl
@[simp] theorem logBegin_mem (r : LogRec) : (s.logBegin r).mem = s.mem := rfl
@[simp] theorem logBegin_passes (r : LogRec) : (s.logBegin r).passes = s.passes := rfl
@[simp] theorem logBegin_nextPass (r : LogRec) : (s.logBegin r).nextPass = s.nextPass := rfl
@[simp] theorem logBegin_engines (r : LogRec) : (s.logBegin r).engines = s.engines := rfl
@[simp] theorem logBegin_flue (r : LogRec) : (s.logBegin r).flue = s.flue := rfl
@[simp] theorem logBegin_graphs (r : LogRec) : (s.logBegin r).fe.graphs = s.fe.graphs := rfl
@[simp] theorem logBegin_cur (r : LogRec) : (s.logBegin r).fe.cur = s.fe.cur := rfl
@[simp] theorem logBegin_slots (r : LogRec) : (s.logBegin r).fe.slots = s.fe.slots := rfl
@[simp] theorem logBegin_woken (r : LogRec) : (s.logBegin r).fe.woken = s.fe.woken := rfl
@[simp] theorem logBegin_firings (r : LogRec) : (s.logBegin r).fe.firings = s.fe.firings := rfl
@[simp] theorem logBegin_log (r : LogRec) : (s.logBegin r).fe.log = s.fe.log := rfl
@[simp] theorem logBegin_ledger (r : LogRec) : (s.logBegin r).fe.ledger = s.fe.ledger := rfl
@[simp] theorem logBegin_nextLseq (r : LogRec) : (s.logBegin r).fe.nextLseq = s.fe.nextLseq := rfl
@[simp] theorem logBegin_copying (r : LogRec) : (s.logBegin r).fe.copying = s.fe.copying := rfl
@[simp] theorem logBegin_sinceCursor (r : LogRec) : (s.logBegin r).fe.sinceCursor = s.fe.sinceCursor := rfl
@[simp] theorem logBegin_actions (r : LogRec) : (s.logBegin r).fe.actions = s.fe.actions := rfl
@[simp] theorem logBegin_turns (r : LogRec) : (s.logBegin r).fe.turns = s.fe.turns := rfl
@[simp] theorem logBegin_releases (r : LogRec) : (s.logBegin r).fe.releases = s.fe.releases := rfl
@[simp] theorem logBegin_asked (r : LogRec) : (s.logBegin r).fe.asked = s.fe.asked := rfl
@[simp] theorem logBegin_wheel (r : LogRec) : (s.logBegin r).wheel = s.wheel := rfl
@[simp] theorem logBegin_dampers (r : LogRec) : (s.logBegin r).dampers = s.dampers := rfl
@[simp] theorem logBegin_fab (r : LogRec) : (s.logBegin r).fab = s.fab := rfl
@[simp] theorem logBegin_grx (r : LogRec) : (s.logBegin r).grx = s.grx := rfl
@[simp] theorem logBegin_pci (r : LogRec) : (s.logBegin r).pci = s.pci := rfl
@[simp] theorem logBegin_sit (r : LogRec) : (s.logBegin r).sit = s.sit := rfl
@[simp] theorem logBegin_mgmt (r : LogRec) : (s.logBegin r).mgmt = s.mgmt := rfl
@[simp] theorem logBegin_sec (r : LogRec) : (s.logBegin r).sec = s.sec := rfl
@[simp] theorem logBegin_prs (r : LogRec) : (s.logBegin r).prs = s.prs := rfl
@[simp] theorem logBegin_meter (r : LogRec) : (s.logBegin r).meter = s.meter := rfl
@[simp] theorem logBegin_rep (r : LogRec) : (s.logBegin r).rep = s.rep := rfl
@[simp] theorem logBegin_svc (r : LogRec) : (s.logBegin r).svc = s.svc := rfl
@[simp] theorem logBegin_rd (r : LogRec) (k : Fld) (j : Nat) : (s.logBegin r).rd k j = s.rd k j := rfl
@[simp] theorem logBegin_firing (r : LogRec) (k : Nat) : (s.logBegin r).firing? k = s.firing? k := rfl
@[simp] theorem logBegin_box (r : LogRec) (k : Origin) : (s.logBegin r).box k = s.box k := rfl

end Sys2Proof.Machine
end

