-- ==== Sys2Proof/Laws/Replies.lean ====
section
/-! SUPPORT. Laws/Replies.lean: what a mailbox command does, once for all of them: served, refused or waiting. -/

namespace Sys2Proof.Machine

set_option Elab.async false

/-- A register outside the grains reads as before. -/
theorem Touch.rd {gs : List Grain} {s t : State} (a : Touch gs s t) (f : Fld) (i : Nat)
    (h : covered gs (.reg (regNo f.block f.off)) = false := by decide) (ok : f.ok = true := by decide) : t.rd f i = s.rd f i :=
  a.keep.rd f i h ok

/-- In canonical form a register field fits its width. -/
theorem rd_lt {s : State} (c : s.Canon) (f : Fld) (i : Nat) (ok : f.ok = true := by decide)
    (r : f.reset < 2 ^ f.width := by decide) : s.rd f i < 2 ^ f.width := by
  have k : ∀ t : Tab Nat, (∀ p ∈ t, p.2 < 2 ^ (p.1 % 2 ^ 8)) → tget f.reset t (f.key i) < 2 ^ f.width := by
    intro t ht
    induction t with
    | nil => exact r
    | cons p q ih =>
      simp only [tget]
      split
      · next e =>
        have := ht p (List.mem_cons_self ..)
        rw [e, key_width ok] at this
        exact this
      · exact ih fun x hx => ht x (List.mem_cons_of_mem _ hx)
  exact k _ ((regsCanon_iff _).1 c.1).2

/-- Two fields lie in different blocks, registers or bits. -/
def Fld.apart (f g : Fld) : Bool :=
  f.ok && g.ok && (decide (f.block ≠ g.block) || decide (f.off ≠ g.off) || decide (f.lo ≠ g.lo))

theorem apart_key {f g : Fld} (h : f.apart g = true) (i j : Nat) : g.key j ≠ f.key i := by
  simp only [Fld.apart, Bool.and_eq_true, Bool.or_eq_true, decide_eq_true_eq] at h
  exact key_ne h.1.1 h.1.2 (by rcases h.2 with (h | h) | h <;> simp [h])

/-- Writing a field leaves every field apart from it as it was. -/
theorem rd_wr_ne (s : State) {f g : Fld} (i j v : Nat) (h : f.apart g = true) : (s.wr f i v).rd g j = s.rd g j :=
  rd_wr_other s v (apart_key h i j)
theorem rd_satAdd_ne (s : State) {f g : Fld} (i j v : Nat) (h : f.apart g = true) : (s.satAdd f i v).rd g j = s.rd g j :=
  rd_wr_ne s i j _ h
theorem rd_wrapAdd_ne (s : State) {f g : Fld} (i j v : Nat) (h : f.apart g = true) : (s.wrapAdd f i v).rd g j = s.rd g j :=
  rd_wr_ne s i j _ h
theorem rd_setBit_ne (s : State) {f g : Fld} (i j : Nat) (h : f.apart g = true) : (s.setBit f i).rd g j = s.rd g j :=
  rd_wr_ne s i j _ h
theorem rd_setBit_same (s : State) {f : Fld} (i : Nat) (h : 0 < f.width) : (s.setBit f i).rd f i = 1 := by
  rw [State.setBit, rd_wr_same]
  exact Nat.mod_eq_of_lt (Nat.one_lt_two_pow (by omega))
/-- A value that fits its field reads back whole. -/
theorem rd_wr_lt (s : State) (f : Fld) (i : Nat) {v : Nat} (h : v < 2 ^ f.width) : (s.wr f i v).rd f i = v := by
  rw [rd_wr_same, Nat.mod_eq_of_lt h]

/-- Parts equal in both states are unchanged, whatever the grains. -/
theorem Unchanged.refl (gs : List Grain) (s : State) : Unchanged gs s s := fun p _ => s.same_refl p

/-- A mailbox holds what was put there last. -/
@[simp] theorem box_setBox (s : State) (o : Origin) (b : Box) : (s.setBox o b).box o = b := tget_tset_same ..

/-- Signalling a reply leaves the mailboxes alone. -/
@[simp] theorem box_signalReply (s : State) (o p : Origin) (l : List Nat) : (s.signalReply o l).box p = s.box p := by
  have h := (signalReply_touch s o l).keep .boxes (by decide)
  simp only [State.same] at h
  simp [State.box, h]

/-- A reply leaves its mailbox DONE (R359). -/
theorem box_reply (s : State) (o : Origin) (c : Code) (r : Bool) (l : List Nat) :
    (s.reply o c r l).box o = { s.box o with
      st := 2, reply := some ⟨(s.box o).req.seq, (s.box o).req.tag, c, r || (s.box o).crossed, l⟩, crossed := false } := by
  simp [State.reply]

/-- A command that is served has its own effect. -/
theorem command_served {s : State} {o : Origin} {cmd : Nat} (h : s.serves o cmd) (k : State → State) :
    s.command o cmd k = k s := by
  simp [State.command, h.1, h.2]

/-- A command that the gate turns away is refused, whatever its effect. -/
theorem command_gated {s : State} {o : Origin} {cmd : Nat} {c : Code} (u : s.sitterUp = true) (h : s.gate o cmd = some c)
    (k : State → State) : s.command o cmd k = s.refuse o c := by
  simp [State.command, u, h]

/-- While the Sitter does not run a command does nothing. -/
theorem command_down {s : State} {o : Origin} {cmd : Nat} (u : s.sitterUp = false) (k : State → State) :
    s.command o cmd k = s := by
  simp [State.command, u]

/-- A command that ends in a reply, from the state `u` that its effect leaves. -/
theorem replies_of {i : Instr} {o : Origin} {c : Code} {l : List Nat} {gs : List Grain} {s u : State}
    (h : exec i s = .next (u.reply o c false l)) (box : u.box o = s.box o) (k : Unchanged (replyGrains ++ gs) s u) :
    Replies i o c l gs s := by
  refine ⟨_, h, ⟨?_, ?_⟩, k.trans ((reply_touch u o c false l).keep.mono ?_)⟩
  · rw [box_reply]
  · rw [box_reply, box]; simp
  · exact subsumes_trans (gs := replyGrains) (by simp only [subsumes, List.all_eq_true, List.any_eq_true]
                                                 exact fun g hg => ⟨g, List.mem_append_left _ hg, under_self g⟩) (by decide)

/-- The same, with what the reply leaves of the state before it. -/
theorem answers_reply {i : Instr} {o : Origin} {c : Code} {l : List Nat} {gs : List Grain} {s u : State} {P : State → Prop}
    (h : exec i s = .next (u.reply o c false l)) (box : u.box o = s.box o) (k : Unchanged (replyGrains ++ gs) s u)
    (p : ∀ t, Touch replyGrains u t → P t) :
    Answers i s fun t => s.replied t o c l ∧ P t ∧ Unchanged (replyGrains ++ gs) s t := by
  obtain ⟨t, e, r, k'⟩ := replies_of h box k
  rw [h] at e
  cases e
  exact ⟨_, h, r, p _ ((reply_touch ..).mono (by decide)), k'⟩

end Sys2Proof.Machine
end

