-- ==== Sys2Proof/Laws/TouchUnits.lean ====
section
/-! SUPPORT. Laws/TouchUnits.lean: what the operations of the flue, the repair map, the fabric and gradient exchange touch. -/

namespace Sys2Proof.Machine

set_option Elab.async false

theorem released_touch (s : State) (w : Wait) :
    Touch [.one .engines, .one .firings, fluNearTimeoutReg.grain] s (s.released w) := by
  unfold State.released
  with_reducible repeat' first
    | exact .refl _ _ | assumption
    | (extract_lets +onlyGivenNames t; first | (refine Touch.cut t ?_ fun _ => ?_; subst t; rotate_left; clear_value t) | subst t)
    | refine (satAdd_touch ..).step ?_ | refine (setEngine_touch ..).step ?_ | refine (updFiring_touch ..).step ?_
    | split | refine .set ?_

theorem serveCon_touch (sig : Nat) (l : List Wait) (s : State) :
    Touch [.one .engines, .one .waits, .one .firings, fluNearTimeoutReg.grain, fluSigValueReg.grain] s (serveCon sig
      l s) := by
  induction l generalizing s with
  | nil => exact .refl _ _
  | cons w r ih =>
    unfold serveCon
    dsimp only
    with_reducible repeat' first
      | exact .refl _ _ | split | refine (ih _).step ?_ | refine (released_touch ..).step ?_
      | refine (wr_touch ..).step ?_ | refine .set ?_

theorem serve_touch (s : State) (sig : Nat) :
    Touch [.one .engines, .one .waits, .one .firings, fluNearTimeoutReg.grain, fluSigValueReg.grain] s (s.serve sig) := by
  unfold State.serve
  with_reducible repeat' first
    | exact .refl _ _ | assumption
    | (extract_lets +onlyGivenNames t; first | (refine Touch.cut t ?_ fun _ => ?_; subst t; rotate_left; clear_value t) | subst t)
    | refine (released_touch ..).step ?_ | refine (serveCon_touch ..).step ?_ | refine .foldl _ ?_ fun _ _ _ => ?_
    | split | refine .set ?_

theorem landSig_touch (s : State) (sig v : Nat) (o : Opening) :
    Touch [.one .fresh, .one .tileMem, .one .scratch, .one .const, .one .stack, .one .hostMem, .one .passes, .one
      .engines, .one .waits, .one .opened, .one .firings, .one .turns, .one .dampers, fluNearTimeoutReg.grain,
      fluSigValueReg.grain, fluStatusReg.grain, shfAbandonReg.grain, shfFeedStallReg.grain, shfInfZeroReg.grain,
      shfIntSatReg.grain] s (s.landSig sig v o) := by
  unfold State.landSig
  with_reducible repeat' first
    | exact .refl _ _ | assumption
    | (extract_lets +onlyGivenNames t; first | (refine Touch.cut t ?_ fun _ => ?_; subst t; rotate_left; clear_value t) | subst t)
    | refine (wr_touch ..).step ?_ | refine (setBit_touch ..).step ?_ | refine (fault_touch ..).step ?_
    | refine (serve_touch ..).step ?_ | refine .foldl _ ?_ fun _ _ _ => ?_ | split | refine .set ?_

theorem closeSig_touch (s : State) (sig : Nat) :
    Touch [.one .fresh, .one .tileMem, .one .scratch, .one .const, .one .stack, .one .hostMem, .one .passes, .one
      .engines, .one .waits, .one .opened, .one .firings, .one .turns, .one .dampers, fluNearTimeoutReg.grain,
      fluSigValueReg.grain, fluStatusReg.grain, shfAbandonReg.grain, shfFeedStallReg.grain, shfInfZeroReg.grain,
      shfIntSatReg.grain] s (s.closeSig sig) := by
  unfold State.closeSig
  with_reducible repeat' first
    | exact .refl _ _ | assumption | refine (landSig_touch ..).step ?_ | split

theorem closeCycle_touch (s : State) :
    Touch [.one .fresh, .one .tileMem, .one .scratch, .one .const, .one .stack, .one .hostMem, .one .passes, .one
      .engines, .one .waits, .one .opened, .one .firings, .one .turns, .one .dampers, fluNearTimeoutReg.grain,
      fluSigValueReg.grain, fluStatusReg.grain, shfAbandonReg.grain, shfFeedStallReg.grain, shfInfZeroReg.grain,
      shfIntSatReg.grain] s (s.closeCycle) := by
  unfold State.closeCycle
  with_reducible repeat' first
    | exact .refl _ _ | assumption | refine (closeSig_touch ..).step ?_ | refine .foldl _ ?_ fun _ _ _ => ?_ | split

theorem incSignal_touch (s : State) (sig n : Nat) (issuer : Option Nat) (more : Bool) :
    Touch [.one .fresh, .one .tileMem, .one .scratch, .one .const, .one .stack, .one .hostMem, .one .passes, .one
      .engines, .one .waits, .one .opened, .one .firings, .one .turns, .one .dampers, fluNearTimeoutReg.grain,
      fluSigValueReg.grain, fluStatusReg.grain, shfAbandonReg.grain, shfFeedStallReg.grain, shfInfZeroReg.grain,
      shfIntSatReg.grain] s (s.incSignal sig n issuer more) := by
  unfold State.incSignal
  with_reducible repeat' first
    | exact .refl _ _ | assumption
    | (extract_lets +onlyGivenNames t; first | (refine Touch.cut t ?_ fun _ => ?_; subst t; rotate_left; clear_value t) | subst t)
    | refine (landSig_touch ..).step ?_ | split | refine .set ?_

/-- A key that is applied leaves the record table within its size. -/
theorem recPut_length {l : List RecKey} {k : RecKey} (a : recAct l k = .apply) (h : l.length ≤ 16384) :
    (recPut l k).length ≤ 16384 := by
  have upd : ∀ (p : RecKey → Bool) (f : RecKey → RecKey) (m : List RecKey), (updFirst p f m).length = m.length := by
    intro p f m
    induction m with
    | nil => rfl
    | cons x r ih => unfold updFirst; split <;> simp [ih]
  simp only [recPut]
  split
  · rw [upd]; exact h
  · rename_i n
    have none : l.find? (k.same ·) = none := by
      rw [List.find?_eq_none]
      simpa [List.any_eq_true] using n
    have : l.length < 16384 := by
      simp only [recAct, none] at a
      by_cases l : l.length < 16384
      · exact l
      · simp [l] at a
    simp; omega

theorem incKeyed_touch (s : State) (k : RecKey) (sig n : Nat) (issuer : Option Nat) (more : Bool) :
    Touch [.one .fresh, .one .tileMem, .one .scratch, .one .const, .one .stack, .one .hostMem, .one .passes, .one
      .engines, .one .waits, .one .records, .one .opened, .one .firings, .one .turns, .one .dampers,
      fluNearTimeoutReg.grain, fluRecordUseReg.grain, fluSigValueReg.grain, fluStatusReg.grain, shfAbandonReg.grain,
      shfFeedStallReg.grain, shfInfZeroReg.grain, shfIntSatReg.grain] s (s.incKeyed k sig n issuer more).1 := by
  unfold State.incKeyed
  cases a : recAct s.flue.records k with
  | drop => exact .refl _ _
  | full => exact (setBit_touch ..).step (.refl _ _)
  | apply =>
    have len := recPut_length a
    dsimp only
    refine (incSignal_touch ..).step ((wr_touch ..).step (.set (.refl _ _) (b2 := len)))

theorem retireKey_touch (s : State) (src observer fseq : Nat) :
    Touch [.one .records] s (s.retireKey src observer fseq) := by
  unfold State.retireKey
  with_reducible repeat' first
    | exact .refl _ _ | assumption | split | refine .set ?_

theorem firingInc_touch (s : State) (f : Firing) (o sig n : Nat) (more : Bool) :
    Touch [.one .fresh, .one .tileMem, .one .scratch, .one .const, .one .stack, .one .hostMem, .one .passes, .one
      .engines, .one .waits, .one .records, .one .opened, .one .firings, .one .turns, .one .dampers,
      fluNearTimeoutReg.grain, fluRecordUseReg.grain, fluSigValueReg.grain, fluStatusReg.grain, shfAbandonReg.grain,
      shfFeedStallReg.grain, shfInfZeroReg.grain, shfIntSatReg.grain] s (s.firingInc f o sig n more).1 := by
  unfold State.firingInc
  with_reducible repeat' first
    | exact .refl _ _ | assumption
    | (extract_lets +onlyGivenNames t; first | (refine Touch.cut t ?_ fun _ => ?_; subst t; rotate_left; clear_value t) | (refine Touch.cut t.1 ?_ fun _ => ?_; subst t; rotate_left; clear_value t) | (refine Touch.cut t.2 ?_ fun _ => ?_; subst t; rotate_left; clear_value t) | subst t)
    | refine (incKeyed_touch ..).step ?_ | refine (incSignal_touch ..).step ?_ | refine (updFiring_touch ..).step ?_
    | split

theorem register_touch (s : State) (w : Wait) :
    Touch [.one .fresh, .one .tileMem, .one .scratch, .one .const, .one .stack, .one .hostMem, .one .passes, .one
      .engines, .one .waits, .one .opened, .one .firings, .one .turns, .one .dampers, fluNearTimeoutReg.grain,
      fluSigValueReg.grain, fluStatusReg.grain, shfAbandonReg.grain, shfFeedStallReg.grain, shfInfZeroReg.grain,
      shfIntSatReg.grain] s (s.register w) := by
  unfold State.register
  with_reducible repeat' first
    | exact .refl _ _ | assumption
    | (extract_lets +onlyGivenNames t; first | (refine Touch.cut t ?_ fun _ => ?_; subst t; rotate_left; clear_value t) | subst t)
    | refine (closeSig_touch ..).step ?_ | refine (serve_touch ..).step ?_ | split | refine .set ?_

theorem startWait_touch (s : State) (op observer fseq sig value timeout opIndex : Nat) :
    Touch [.one .fresh, .one .tileMem, .one .scratch, .one .const, .one .stack, .one .hostMem, .one .passes, .one
      .engines, .one .waits, .one .opened, .one .firings, .one .turns, .one .dampers, fluNearTimeoutReg.grain,
      fluSigValueReg.grain, fluStatusReg.grain, shfAbandonReg.grain, shfFeedStallReg.grain, shfInfZeroReg.grain,
      shfIntSatReg.grain] s (s.startWait op observer fseq sig value timeout opIndex) := by
  unfold State.startWait
  with_reducible repeat' first
    | exact .refl _ _ | assumption | refine (register_touch ..).step ?_ | refine (updFiring_touch ..).step ?_
    | split

theorem setBar_touch (s : State) (g : Nat) (b : Barrier) :
    Touch [.one .barriers] s (s.setBar g b) := by
  unfold State.setBar
  with_reducible repeat' first
    | exact .refl _ _ | assumption | split | refine .set ?_

theorem settleBar_touch (fuel g : Nat) (s : State) :
    Touch [.one .barriers, .one .firings] s (settleBar fuel g s) := by
  induction fuel generalizing s with
  | zero => exact .refl _ _
  | succ n ih =>
    unfold settleBar
    with_reducible repeat' first
      | exact .refl _ _ | assumption | refine (ih _).step ?_
      | (extract_lets +onlyGivenNames t; first | (refine Touch.cut t ?_ fun _ => ?_; subst t; rotate_left; clear_value t) | subst t)
      | refine (updFiring_touch ..).step ?_ | refine (setBar_touch ..).step ?_
      | refine .foldl _ ?_ fun _ _ _ => ?_ | split

theorem sitSync_touch (s : State) (o : Origin) (more : Bool) (op : SitSync) :
    Touch [.one .fresh, .one .tileMem, .one .scratch, .one .const, .one .stack, .one .hostMem, .one .passes, .one
      .engines, .one .waits, .one .barriers, .one .opened, .one .firings, .one .turns, .one .dampers, .one .boxes,
      .one .vectors, .one .frames, fluNearTimeoutReg.grain, fluSigValueReg.grain, fluStatusReg.grain,
      shfAbandonReg.grain, shfFeedStallReg.grain, shfInfZeroReg.grain, shfIntSatReg.grain] s (s.sitSync o more op).1 := by
  unfold State.sitSync
  with_reducible repeat' first
    | exact .refl _ _ | assumption
    | (extract_lets +onlyGivenNames t; first | (refine Touch.cut t ?_ fun _ => ?_; subst t; rotate_left; clear_value t) | subst t)
    | refine (wr_touch ..).step ?_ | refine (closeSig_touch ..).step ?_ | refine (done_touch ..).step ?_
    | refine (incSignal_touch ..).step ?_ | refine (landSig_touch ..).step ?_ | refine (refuse_touch ..).step ?_
    | refine (setBar_touch ..).step ?_ | refine (settleBar_touch ..).step ?_ | split | refine .set ?_

theorem sitterRest_touch (fuel : Nat) (s : State) :
    Touch [.one .fresh, .one .tileMem, .one .scratch, .one .const, .one .stack, .one .hostMem, .one .passes, .one
      .engines, .one .waits, .one .barriers, .one .opened, .one .sitterSync, .one .firings, .one .turns, .one
      .dampers, .one .boxes, .one .vectors, .one .frames, fluNearTimeoutReg.grain, fluSigValueReg.grain,
      fluStatusReg.grain, shfAbandonReg.grain, shfFeedStallReg.grain, shfInfZeroReg.grain, shfIntSatReg.grain] s
      (sitterRest fuel s) := by
  induction fuel generalizing s with
  | zero => exact .refl _ _
  | succ n ih =>
    unfold sitterRest
    split
    · exact .refl _ _
    · rename_i o op held r _
      have h := sitSync_touch s o false op
      dsimp only
      generalize s.sitSync o false op = t at h ⊢
      split
      · exact (ih _).step (.set (h.mono (by decide)))
      · exact .set (h.mono (by decide))

theorem sitterOn_touch (s : State) :
    Touch [.one .fresh, .one .tileMem, .one .scratch, .one .const, .one .stack, .one .hostMem, .one .passes, .one
      .engines, .one .waits, .one .barriers, .one .opened, .one .sitterSync, .one .firings, .one .turns, .one
      .dampers, .one .boxes, .one .vectors, .one .frames, fluNearTimeoutReg.grain, fluSigValueReg.grain,
      fluStatusReg.grain, shfAbandonReg.grain, shfFeedStallReg.grain, shfInfZeroReg.grain, shfIntSatReg.grain] s
      (s.sitterOn) := by
  unfold State.sitterOn
  with_reducible repeat' first
    | exact .refl _ _ | assumption | refine (done_touch ..).step ?_ | refine (sitterRest_touch ..).step ?_ | split
    | refine .set ?_

theorem settle_touch (g : Nat) (s : State) :
    Touch [.one .fresh, .one .tileMem, .one .scratch, .one .const, .one .stack, .one .hostMem, .one .passes, .one
      .engines, .one .waits, .one .barriers, .one .opened, .one .sitterSync, .one .firings, .one .turns, .one
      .dampers, .one .boxes, .one .vectors, .one .frames, fluNearTimeoutReg.grain, fluSigValueReg.grain,
      fluStatusReg.grain, shfAbandonReg.grain, shfFeedStallReg.grain, shfInfZeroReg.grain, shfIntSatReg.grain] s
      (State.settle g s) := by
  unfold State.settle
  with_reducible repeat' first
    | exact .refl _ _ | assumption | refine (sitterOn_touch ..).step ?_ | refine (settleBar_touch ..).step ?_
    | split

theorem sitterOp_touch (s : State) (o : Origin) (more : Bool) (op : SitSync) :
    Touch [.one .fresh, .one .tileMem, .one .scratch, .one .const, .one .stack, .one .hostMem, .one .passes, .one
      .engines, .one .waits, .one .barriers, .one .opened, .one .sitterSync, .one .firings, .one .turns, .one
      .dampers, .one .boxes, .one .vectors, .one .frames, fluNearTimeoutReg.grain, fluSigValueReg.grain,
      fluStatusReg.grain, shfAbandonReg.grain, shfFeedStallReg.grain, shfInfZeroReg.grain, shfIntSatReg.grain] s
      (s.sitterOp o more op) := by
  unfold State.sitterOp
  with_reducible repeat' first
    | exact .refl _ _ | assumption
    | (extract_lets +onlyGivenNames t; first | (refine Touch.cut t ?_ fun _ => ?_; subst t; rotate_left; clear_value t) | subst t)
    | refine (setBox_touch ..).step ?_ | refine (sitSync_touch ..).step ?_ | refine (sitterOn_touch ..).step ?_
    | split | refine .set ?_

theorem barArrive_touch (s : State) (observer fseq group opIndex : Nat) (wait : Bool) :
    Touch [.one .fresh, .one .tileMem, .one .scratch, .one .const, .one .stack, .one .hostMem, .one .passes, .one
      .engines, .one .waits, .one .barriers, .one .opened, .one .sitterSync, .one .firings, .one .turns, .one
      .dampers, .one .boxes, .one .vectors, .one .frames, fluNearTimeoutReg.grain, fluSigValueReg.grain,
      fluStatusReg.grain, shfAbandonReg.grain, shfFeedStallReg.grain, shfInfZeroReg.grain, shfIntSatReg.grain] s
      (s.barArrive observer fseq group opIndex wait) := by
  unfold State.barArrive
  with_reducible repeat' first
    | exact .refl _ _ | assumption
    | (extract_lets +onlyGivenNames t; first | (refine Touch.cut t ?_ fun _ => ?_; subst t; rotate_left; clear_value t) | subst t)
    | refine (setBar_touch ..).step ?_ | refine (settle_touch ..).step ?_ | refine (updFiring_touch ..).step ?_
    | split | refine .set ?_

theorem startSync_touch (s : State) (g : Graph) (q : Nat) :
    Touch [.one .waits, .one .barriers, .one .opened, fluSigValueReg.grain] s (s.startSync g q) := by
  unfold State.startSync
  with_reducible repeat' first
    | exact .refl _ _ | assumption
    | (extract_lets +onlyGivenNames t; first | (refine Touch.cut t ?_ fun _ => ?_; subst t; rotate_left; clear_value t) | subst t)
    | refine (wr_touch ..).step ?_ | refine (setBar_touch ..).step ?_ | refine .foldl _ ?_ fun _ _ _ => ?_ | split
    | refine .set ?_

theorem freeBars_touch (s : State) (q : Nat) :
    Touch [.one .barriers] s (s.freeBars q) := by
  unfold State.freeBars
  with_reducible repeat' first
    | exact .refl _ _ | assumption | split | refine .set ?_

theorem setRegWord_touch (s : State) (r : Reg) (i v : Nat) (ok : r.ok = true := by decide) :
    Touch [r.grain] s (s.setRegWord r i v) := by
  simp only [Reg.ok, List.all_eq_true, Bool.and_eq_true, decide_eq_true_eq] at ok
  have fold : ∀ (l : List Fld) (t : State), (∀ f ∈ l, f ∈ r.fields) → Touch [r.grain] s t →
      Touch [r.grain] s (l.foldl (fun s f => s.wr f i (bits v f.lo f.width)) t) := by
    intro l
    induction l with
    | nil => exact fun _ _ h => h
    | cons f l ih =>
      intro t m h
      obtain ⟨⟨o, eb⟩, eo⟩ := ok f (m f (by simp))
      have w := wr_touch t f i (bits v f.lo f.width) o
      rw [show f.grain = r.grain from by simp [Fld.grain, Reg.grain, eb, eo]] at w
      exact ih _ (fun g hg => m g (List.mem_cons_of_mem _ hg)) (h.trans w)
  exact fold _ _ (fun _ h => h) (.refl _ _)

theorem stopAll_touch (s : State) :
    Touch [.one .fresh, .one .tileMem, .one .scratch, .one .const, .one .stack, .one .hostMem, .one .passes, .one
      .engines, .one .waits, .one .dampers, shfAbandonReg.grain, shfFeedStallReg.grain, shfInfZeroReg.grain,
      shfIntSatReg.grain] s (s.stopAll) := by
  unfold State.stopAll
  with_reducible repeat' first
    | exact .refl _ _ | assumption
    | (extract_lets +onlyGivenNames t; first | (refine Touch.cut t ?_ fun _ => ?_; subst t; rotate_left; clear_value t) | subst t)
    | refine (dropDescs_touch ..).step ?_ | refine (dropPasses_touch ..).step ?_ | split | refine .set ?_

theorem endService_touch (s : State) (code cause : Nat) :
    Touch [.one .fresh, .one .power, .one .tileMem, .one .scratch, .one .const, .one .stack, .one .hostMem, .one
      .passes, .one .engines, .one .waits, .one .dampers, .one .phase, shfAbandonReg.grain, shfFeedStallReg.grain,
      shfInfZeroReg.grain, shfIntSatReg.grain] s (s.endService code cause) := by
  unfold State.endService
  with_reducible repeat' first
    | exact .refl _ _ | assumption
    | (extract_lets +onlyGivenNames t; first | (refine Touch.cut t ?_ fun _ => ?_; subst t; rotate_left; clear_value t) | subst t)
    | refine (stopAll_touch ..).step ?_ | split | refine .set ?_

theorem moduleFault_touch (s : State) (c : Code) :
    Touch [.one .fresh, .one .power, .one .tileMem, .one .scratch, .one .const, .one .stack, .one .hostMem, .one
      .passes, .one .engines, .one .waits, .one .dampers, .one .phase, shfAbandonReg.grain, shfFeedStallReg.grain,
      shfInfZeroReg.grain, shfIntSatReg.grain] s (s.moduleFault c) := by
  unfold State.moduleFault
  with_reducible repeat' first
    | exact .refl _ _ | assumption
    | (extract_lets +onlyGivenNames t; first | (refine Touch.cut t ?_ fun _ => ?_; subst t; rotate_left; clear_value t) | subst t)
    | refine (endService_touch ..).step ?_ | split | refine .set ?_

theorem exhaust_touch (s : State) (kind unit : Nat) :
    Touch [.one .events, .one .vectors, .one .repair, modSparesReg.grain] s (s.exhaust kind unit) := by
  unfold State.exhaust
  with_reducible repeat' first
    | exact .refl _ _ | assumption
    | (extract_lets +onlyGivenNames t; first | (refine Touch.cut t ?_ fun _ => ?_; subst t; rotate_left; clear_value t) | (refine Touch.cut t.1 ?_ fun _ => ?_; subst t; rotate_left; clear_value t) | (refine Touch.cut t.2 ?_ fun _ => ?_; subst t; rotate_left; clear_value t) | subst t)
    | refine (wr_touch ..).step ?_ | refine (post_touch ..).step ?_ | split | refine .set ?_

theorem prsPut_touch (s : State) (r slot count value : Nat) (torn : Bool) :
    Touch [.one .persistent] s (s.prsPut r slot count value torn) := by
  refine .set (.refl _ _) (b3 := fun h => ?_)
  simp only [cellsPlaced, List.all_eq_true] at h ⊢
  intro p hp
  rcases mem_tput hp with rfl | hp
  · cases torn <;> simp
  · exact h p hp

theorem prsShown_touch (s : State) (r : Nat) :
    Touch [fabIncReg.grain, feFseqEndReg.grain, modRestCfgReg.grain, mtrCfgReg.grain, pciSCfgReg.grain,
      prsCopySelReg.grain, secFloorReg.grain, secFwSelReg.grain, secKeystateReg.grain, sitMgmtCfgReg.grain] s
      (s.prsShown r) := by
  unfold State.prsShown
  split
  · rename_i g h
    unfold prsReg at h
    split at h <;> first | (cases h; exact (setRegWord_touch ..).step (.refl _ _)) | cases h
  · exact .refl _ _

theorem prsWrite_touch (s : State) (r value : Nat) (torn : Bool) :
    Touch [.one .fresh, .one .power, .one .tileMem, .one .scratch, .one .const, .one .stack, .one .hostMem, .one
      .passes, .one .engines, .one .waits, .one .dampers, .one .events, .one .vectors, .one .persistent, .one
      .repair, .one .phase, fabIncReg.grain, feFseqEndReg.grain, modRestCfgReg.grain, modSparesReg.grain,
      mtrCfgReg.grain, pciSCfgReg.grain, prsCopySelReg.grain, prsStatusReg.grain, secFloorReg.grain,
      secFwSelReg.grain, secKeystateReg.grain, shfAbandonReg.grain, shfFeedStallReg.grain, shfInfZeroReg.grain,
      shfIntSatReg.grain, sitMgmtCfgReg.grain] s (s.prsWrite r value torn).1 := by
  unfold State.prsWrite
  with_reducible repeat' first
    | exact .refl _ _ | assumption
    | (extract_lets +onlyGivenNames t; first | (refine Touch.cut t ?_ fun _ => ?_; subst t; rotate_left; clear_value t) | subst t)
    | refine (setBit_touch ..).step ?_ | refine (exhaust_touch ..).step ?_ | refine (moduleFault_touch ..).step ?_
    | refine (post_touch ..).step ?_ | refine (prsPut_touch ..).step ?_ | refine (prsShown_touch ..).step ?_ | split

theorem persist_touch (s : State) (r value : Nat) :
    Touch [.one .fresh, .one .power, .one .tileMem, .one .scratch, .one .const, .one .stack, .one .hostMem, .one
      .passes, .one .engines, .one .waits, .one .dampers, .one .events, .one .vectors, .one .persistent, .one
      .repair, .one .phase, fabIncReg.grain, feFseqEndReg.grain, modRestCfgReg.grain, modSparesReg.grain,
      mtrCfgReg.grain, pciSCfgReg.grain, prsCopySelReg.grain, prsStatusReg.grain, secFloorReg.grain,
      secFwSelReg.grain, secKeystateReg.grain, shfAbandonReg.grain, shfFeedStallReg.grain, shfInfZeroReg.grain,
      shfIntSatReg.grain, sitMgmtCfgReg.grain] s (s.persist r value) := by
  unfold State.persist
  with_reducible repeat' first
    | exact .refl _ _ | assumption | refine (prsWrite_touch ..).step ?_ | split

/-- A whole write of a persistent register touches the fields of that register alone. -/
theorem prsShown_at {s : State} {r : Nat} {g : Reg} (h : prsReg r = some g) (ok : g.ok = true) :
    Touch [g.grain] s (s.prsShown r) := by
  unfold State.prsShown
  rw [h]
  exact setRegWord_touch _ _ _ _ ok

theorem prsKept_touch (s : State) (r value : Nat) {g : Reg} (h : prsReg r = some g) (ok : g.ok = true) :
    Touch [.one .events, .one .vectors, .one .persistent, .one .repair, modSparesReg.grain, prsStatusReg.grain, g.grain] s
      (s.prsWrite r value false).1 := by
  have put : ∀ t k c v, Touch [.one .events, .one .vectors, .one .persistent, .one .repair, modSparesReg.grain, prsStatusReg.grain,
      g.grain] t ((State.prsPut t r k c v false).prsShown r) := fun t k c v =>
    ((prsPut_touch t r k c v false).mono (by simp [subsumes, Grain.under, Grain.covers])).trans
      ((prsShown_at h ok).mono (by simp [subsumes, under_self]))
  have out : ∀ {hs : List Grain} {t u : State}, Touch hs t u → subsumes [.one .events, .one .vectors, .one .persistent, .one .repair,
      modSparesReg.grain, prsStatusReg.grain] hs = true → Touch [.one .events, .one .vectors, .one .persistent, .one .repair,
      modSparesReg.grain, prsStatusReg.grain, g.grain] t u := fun a w =>
    a.mono (subsumes_trans (by simp [subsumes, under_self]) w)
  unfold State.prsWrite
  dsimp only
  split
  · exact (put ..).trans (out (exhaust_touch ..) (by decide))
  · split
    · exact .refl _ _
    · split
      · exact out (setBit_touch ..) (by decide)
      · split
        · exact absurd ‹_› (by decide)
        · split
          · exact put ..
          · dsimp only
            have p : ∀ u ps, Touch [.one .events, .one .vectors, .one .persistent, .one .repair, modSparesReg.grain, prsStatusReg.grain,
                g.grain] u ((u.setBit prsStatusRetireSeen 0).post (.s 346) ps) := fun u ps =>
              (out (setBit_touch u prsStatusRetireSeen 0) (by decide)).trans (out (post_touch ..) (by decide))
            split
            · exact ((put ..).trans (p ..)).trans (out (exhaust_touch ..) (by decide))
            · exact (put ..).trans (p ..)

theorem persistKept_touch (s : State) (r value : Nat) {g : Reg} (h : prsReg r = some g) (ok : g.ok = true) :
    Touch [.one .events, .one .vectors, .one .persistent, .one .repair, modSparesReg.grain, prsStatusReg.grain, g.grain] s
      (s.persist r value) := prsKept_touch s r value h ok

theorem prsHostWrite_touch (s : State) (r value : Nat) (torn : Bool) :
    Touch [.one .fresh, .one .power, .one .tileMem, .one .scratch, .one .const, .one .stack, .one .hostMem, .one
      .passes, .one .engines, .one .waits, .one .dampers, .one .events, .one .vectors, .one .persistent, .one
      .repair, .one .phase, fabIncReg.grain, feFseqEndReg.grain, modRestCfgReg.grain, modSparesReg.grain,
      mtrCfgReg.grain, pciSCfgReg.grain, prsCopySelReg.grain, prsStatusReg.grain, secFloorReg.grain,
      secFwSelReg.grain, secKeystateReg.grain, shfAbandonReg.grain, shfFeedStallReg.grain, shfInfZeroReg.grain,
      shfIntSatReg.grain, sitMgmtCfgReg.grain] s (s.prsHostWrite r value torn).1 := by
  unfold State.prsHostWrite
  with_reducible repeat' first
    | exact .refl _ _ | assumption
    | (extract_lets +onlyGivenNames t; first | (refine Touch.cut t ?_ fun _ => ?_; subst t; rotate_left; clear_value t) | subst t)
    | refine (setBit_touch ..).step ?_ | refine (prsWrite_touch ..).step ?_ | split | refine .set ?_

theorem prsShowAll_touch (s : State) :
    Touch [fabIncReg.grain, feFseqEndReg.grain, modRestCfgReg.grain, mtrCfgReg.grain, pciSCfgReg.grain,
      prsCopySelReg.grain, secFloorReg.grain, secFwSelReg.grain, secKeystateReg.grain, sitMgmtCfgReg.grain] s
      (s.prsShowAll) := by
  unfold State.prsShowAll
  with_reducible repeat' first
    | exact .refl _ _ | assumption | refine (prsShown_touch ..).step ?_ | refine .foldl _ ?_ fun _ _ _ => ?_ | split

theorem prsLost_touch (s : State) :
    Touch [.one .events, .one .vectors, prsStatusReg.grain] s (s.prsLost) := by
  unfold State.prsLost
  with_reducible repeat' first
    | exact .refl _ _ | assumption | refine (setBit_touch ..).step ?_ | refine (post_touch ..).step ?_
    | refine .foldl _ ?_ fun _ _ _ => ?_ | split

/-- A copy of the repair map in the table's form takes its place. -/
theorem mapsCanon_set {l : List MapCopy} {m : MapCopy} (i : Nat) (h : mapsCanon l = true) (c : regsCanon m.regs = true) :
    mapsCanon (l.set i m) = true := by
  simp only [mapsCanon, List.all_eq_true] at h ⊢
  intro x hx
  rcases List.mem_or_eq_of_mem_set hx with hx | rfl
  · exact h x hx
  · exact c

theorem commitRepair_touch (s : State) :
    Touch [.one .events, .one .vectors, .one .persistent, .one .repair, modSparesReg.grain, prsCopySelReg.grain,
      prsStatusReg.grain] s (s.commitRepair) := by
  unfold State.commitRepair
  refine (persistKept_touch _ 5 _ (g := prsCopySelReg) rfl (by decide)).step ?_
  refine Touch.set (Touch.set (.refl _ _)) (b5 := fun r h => mapsCanon_set _ h ?_)
  exact regsCanon_filter _ r

/-- Putting canonical fields into a register table keeps its form. -/
theorem regsCanon_puts (l : Tab Nat) (t : Tab Nat) (h : regsCanon t = true) (v : ∀ p ∈ l, p.2 < 2 ^ (p.1 % 2 ^ 8)) :
    regsCanon (l.foldl (fun t p => tput t p.1 p.2) t) = true := by
  induction l generalizing t with
  | nil => exact h
  | cons p r ih =>
    obtain ⟨s, w⟩ := (regsCanon_iff t).1 h
    refine ih _ ((regsCanon_iff _).2 ⟨tsorted_tput _ _ s, fun q hq => ?_⟩) fun q hq => v q (List.mem_cons_of_mem _ hq)
    rcases mem_tput hq with rfl | hq
    · exact v p (by simp)
    · exact w q hq

theorem loadRepair_touch (s : State) :
    Touch [.registers, .one .repair] s (s.loadRepair) := by
  unfold State.loadRepair
  split
  · exact .refl _ _
  · rename_i m hm
    have mem : m ∈ s.maps := List.mem_of_getElem? hm
    refine ⟨fun p hp => ?_, fun c => ⟨regsCanon_puts _ _ (regsCanon_filter _ c.1) ?_, c.2⟩,
      fun b => ⟨b.clock, b.steps, b.records, b.cells⟩, Nat.le_refl _⟩
    · cases p with
      | reg n => simp [covered, Grain.covers] at hp
      | repair => simp [covered, Grain.covers] at hp
      | _ => simp [State.same]
    · have k := c.2.2.2.2.2.2
      simp only [mapsCanon, List.all_eq_true] at k
      exact ((regsCanon_iff _).1 (k m mem)).2

theorem repEvent_touch (s : State) (kind unit : Nat) :
    Touch [.one .repair] s (s.repEvent kind unit) := by
  unfold State.repEvent
  with_reducible repeat' first
    | exact .refl _ _ | assumption | split | refine .set ?_

theorem clearSlot_touch (s : State) (slot : Nat) :
    Touch [feGaugeReg.grain, feLadderReg.grain, feRuleReg.grain] s (s.clearSlot slot) := by
  unfold State.clearSlot
  with_reducible repeat' first
    | exact .refl _ _ | assumption | refine (resetReg_touch ..).step ?_ | split

theorem freeBucket_touch (s : State) (b : Nat) :
    Touch [.one .buckets, .one .watermarks, grxGatherReg.grain, grxInstReg.grain] s (s.freeBucket b) := by
  unfold State.freeBucket
  with_reducible repeat' first
    | exact .refl _ _ | assumption
    | (extract_lets +onlyGivenNames t; first | (refine Touch.cut t ?_ fun _ => ?_; subst t; rotate_left; clear_value t) | (refine Touch.cut t.1 ?_ fun _ => ?_; subst t; rotate_left; clear_value t) | (refine Touch.cut t.2 ?_ fun _ => ?_; subst t; rotate_left; clear_value t) | subst t)
    | refine (resetReg_touch ..).step ?_ | refine .foldl _ ?_ fun _ _ _ => ?_ | split | refine .set ?_

theorem leaveGraph_touch (s : State) (no : Nat) (keep : List Nat) :
    Touch [.one .graphs, .one .copies, .one .dampers, .one .buckets, .one .watermarks, feGaugeReg.grain,
      feLadderReg.grain, feRuleReg.grain, feSqCfgReg.grain, grxGatherReg.grain, grxInstReg.grain] s (s.leaveGraph no
      keep) := by
  unfold State.leaveGraph
  with_reducible repeat' first
    | exact .refl _ _ | assumption
    | (extract_lets +onlyGivenNames t; first | (refine Touch.cut t ?_ fun _ => ?_; subst t; rotate_left; clear_value t) | (refine Touch.cut t.1 ?_ fun _ => ?_; subst t; rotate_left; clear_value t) | (refine Touch.cut t.2 ?_ fun _ => ?_; subst t; rotate_left; clear_value t) | subst t)
    | refine (wr_touch ..).step ?_ | refine (clearSlot_touch ..).step ?_ | refine (freeBucket_touch ..).step ?_
    | refine .foldl _ ?_ fun _ _ _ => ?_ | split | refine .set ?_

theorem dropGraph_touch (s : State) (no : Nat) :
    Touch [.one .graphs, .one .copies, .one .dampers, .one .buckets, .one .watermarks, feGaugeReg.grain,
      feLadderReg.grain, feRuleReg.grain, feSqCfgReg.grain, grxGatherReg.grain, grxInstReg.grain] s (s.dropGraph no) := by
  unfold State.dropGraph
  with_reducible repeat' first
    | exact .refl _ _ | assumption | refine (leaveGraph_touch ..).step ?_ | split

theorem newGeometry_touch (s : State) :
    Touch [.one .fresh, .one .tileMem, .one .scratch, .one .const, .one .stack, .one .hostMem, .one .passes, .one
      .engines, .one .waits, .one .graphs, .one .copies, .one .firings, .one .turns, .one .dampers, .one .buckets,
      .one .watermarks, .one .events, .one .vectors, feGaugeReg.grain, feLadderReg.grain, feRuleReg.grain,
      feSqCfgReg.grain, grxGatherReg.grain, grxInstReg.grain, modGeomReg.grain, shfAbandonReg.grain,
      shfFeedStallReg.grain, shfInfZeroReg.grain, shfIntSatReg.grain] s (s.newGeometry) := by
  unfold State.newGeometry
  with_reducible repeat' first
    | exact .refl _ _ | assumption
    | (extract_lets +onlyGivenNames t; first | (refine Touch.cut t ?_ fun _ => ?_; subst t; rotate_left; clear_value t) | subst t)
    | refine (wr_touch ..).step ?_ | refine (abandon_touch ..).step ?_ | refine (dropGraph_touch ..).step ?_
    | refine (post_touch ..).step ?_ | refine .foldl _ ?_ fun _ _ _ => ?_ | split

theorem relist_touch (s : State) (k sh : Nat) :
    Touch [.one .repair] s (s.relist k sh) := by
  unfold State.relist
  with_reducible repeat' first
    | exact .refl _ _ | assumption
    | (extract_lets +onlyGivenNames t; first | (refine Touch.cut t ?_ fun _ => ?_; subst t; rotate_left; clear_value t) | (refine Touch.cut t.1 ?_ fun _ => ?_; subst t; rotate_left; clear_value t) | (refine Touch.cut t.2 ?_ fun _ => ?_; subst t; rotate_left; clear_value t) | subst t)
    | split | refine .set ?_

theorem forgetTile_touch (s : State) (k sh pos : Nat) :
    Touch [.one .fresh, .one .tileMem] s (s.forgetTile k sh pos) := by
  unfold State.forgetTile
  with_reducible repeat' first
    | exact .refl _ _ | assumption | refine (forget_touch ..).step ?_ | refine (forget_any ..).step ?_ | split

theorem forgetShelf_touch (s : State) (k sh : Nat) :
    Touch [.one .fresh, .one .tileMem, .one .scratch] s (s.forgetShelf k sh) := by
  unfold State.forgetShelf
  with_reducible repeat' first
    | exact .refl _ _ | assumption
    | (extract_lets +onlyGivenNames t; first | (refine Touch.cut t ?_ fun _ => ?_; subst t; rotate_left; clear_value t) | subst t)
    | refine (forget_touch ..).step ?_ | refine (forget_any ..).step ?_ | split

/-- A field of a kiln's spare map. -/
def shelfSpareFld (f : Fld) : Prop := f.ok = true ∧ (f.grain = klnSpareMap0Reg.grain ∨ f.grain = klnSpareMap1Reg.grain)

/-- A field of a shelf's spare map. -/
def tileSpareFld (f : Fld) : Prop := f.ok = true ∧ f.grain = shfSpareMapReg.grain

theorem shelfSpare_flds (i : Nat) :
    shelfSpareFld (shelfSpare i).1 ∧ shelfSpareFld (shelfSpare i).2.1 ∧ shelfSpareFld (shelfSpare i).2.2 := by
  unfold shelfSpare shelfSpareFld
  (repeat' split) <;> decide

theorem tileSpare_flds (i : Nat) :
    tileSpareFld (tileSpare i).1 ∧ tileSpareFld (tileSpare i).2.1 ∧ tileSpareFld (tileSpare i).2.2 := by
  unfold tileSpare tileSpareFld
  (repeat' split) <;> decide

theorem wr_shelfSpare (s : State) (f : Fld) (k v : Nat) (h : shelfSpareFld f := by
      first | exact (shelfSpare_flds _).1 | exact (shelfSpare_flds _).2.1 | exact (shelfSpare_flds _).2.2) :
    Touch [klnSpareMap0Reg.grain, klnSpareMap1Reg.grain] s (s.wr f k v) := by
  refine (wr_touch s f k v h.1).mono ?_
  rcases h.2 with e | e <;> rw [e] <;> decide

theorem wr_tileSpare (s : State) (f : Fld) (k v : Nat) (h : tileSpareFld f := by
      first | exact (tileSpare_flds _).1 | exact (tileSpare_flds _).2.1 | exact (tileSpare_flds _).2.2) :
    Touch [shfSpareMapReg.grain] s (s.wr f k v) := by
  refine (wr_touch s f k v h.1).mono ?_
  rw [h.2]; decide

theorem replaceShelf_touch (s : State) (k sh : Nat) (atOnce : Bool) :
    Touch [.one .fresh, .one .tileMem, .one .scratch, .one .events, .one .vectors, .one .repair,
      klnSpareMap0Reg.grain, klnSpareMap1Reg.grain, modSparesReg.grain] s (s.replaceShelf k sh atOnce) := by
  unfold State.replaceShelf
  with_reducible repeat' first
    | exact .refl _ _ | assumption
    | (extract_lets +onlyGivenNames t; first | (refine Touch.cut t ?_ fun _ => ?_; subst t; rotate_left; clear_value t) | subst t)
    | refine (wr_shelfSpare ..).step ?_ | refine (wr_touch ..).step ?_ | refine (exhaust_touch ..).step ?_
    | refine (forgetShelf_touch ..).step ?_ | refine (relist_touch ..).step ?_ | refine (repEvent_touch ..).step ?_
    | split | refine .set ?_

theorem swapTile_touch (s : State) (t : TileId) (pos i : Nat) :
    Touch [.one .events, .one .vectors, .one .repair, modSparesReg.grain, shfSpareMapReg.grain, tileColmapReg.grain]
      s (s.swapTile t pos i) := by
  unfold State.swapTile
  with_reducible repeat' first
    | exact .refl _ _ | assumption
    | (extract_lets +onlyGivenNames t; first | (refine Touch.cut t ?_ fun _ => ?_; subst t; rotate_left; clear_value t) | subst t)
    | refine (wr_tileSpare ..).step ?_ | refine (wr_touch ..).step ?_ | refine (exhaust_touch ..).step ?_ | split

theorem tileGone_touch (s : State) (t : TileId) :
    Touch [tileColmapReg.grain] s (s.tileGone t) := by
  unfold State.tileGone
  with_reducible repeat' first
    | exact .refl _ _ | assumption | refine (wr_touch ..).step ?_ | split

theorem replaceTile_touch (s : State) (k sh pos : Nat) (atOnce : Bool) :
    Touch [.one .fresh, .one .tileMem, .one .scratch, .one .events, .one .vectors, .one .repair,
      klnSpareMap0Reg.grain, klnSpareMap1Reg.grain, modSparesReg.grain, shfSpareMapReg.grain, tileColmapReg.grain] s
      (s.replaceTile k sh pos atOnce) := by
  unfold State.replaceTile
  with_reducible repeat' first
    | exact .refl _ _ | assumption
    | (extract_lets +onlyGivenNames t; first | (refine Touch.cut t ?_ fun _ => ?_; subst t; rotate_left; clear_value t) | subst t)
    | refine (wr_tileSpare ..).step ?_ | refine (forgetTile_touch ..).step ?_ | refine (relist_touch ..).step ?_
    | refine (repEvent_touch ..).step ?_ | refine (replaceShelf_touch ..).step ?_
    | refine (swapTile_touch ..).step ?_ | refine (tileGone_touch ..).step ?_ | split

theorem hardFault_touch (s : State) (k sh code : Nat) (tile : Option Nat) :
    Touch [.one .fresh, .one .tileMem, .one .scratch, .one .const, .one .stack, .one .hostMem, .one .passes, .one
      .engines, .one .waits, .one .graphs, .one .copies, .one .firings, .one .turns, .one .dampers, .one .buckets,
      .one .watermarks, .one .events, .one .vectors, .one .persistent, .one .repair, feGaugeReg.grain,
      feLadderReg.grain, feRuleReg.grain, feSqCfgReg.grain, grxGatherReg.grain, grxInstReg.grain,
      klnSpareMap0Reg.grain, klnSpareMap1Reg.grain, modGeomReg.grain, modSparesReg.grain, prsCopySelReg.grain,
      prsStatusReg.grain, shfAbandonReg.grain, shfFeedStallReg.grain, shfInfZeroReg.grain, shfIntSatReg.grain,
      shfSpareMapReg.grain, shfWitStatReg.grain, tileColmapReg.grain] s (s.hardFault k sh code tile) := by
  unfold State.hardFault
  with_reducible repeat' first
    | exact .refl _ _ | assumption
    | (extract_lets +onlyGivenNames t; first | (refine Touch.cut t ?_ fun _ => ?_; subst t; rotate_left; clear_value t) | subst t)
    | refine (setBit_touch ..).step ?_ | refine (commitRepair_touch ..).step ?_ | refine (fault_touch ..).step ?_
    | refine (haltPasses_touch ..).step ?_ | refine (newGeometry_touch ..).step ?_
    | refine (replaceShelf_touch ..).step ?_ | refine (replaceTile_touch ..).step ?_
    | refine .foldl _ ?_ fun _ _ _ => ?_ | split

theorem queuePacket_touch (s : State) (d : Nat) (h : HeldPkt) :
    Touch [.one .dampers, .one .ports, .one .flows, .one .sent, .one .inbox, dmpReqStatReg.grain,
      dmpStatusReg.grain, fabHoldReg.grain] s (s.queuePacket d h) := by
  unfold State.queuePacket
  with_reducible repeat' first
    | exact .refl _ _ | assumption | refine (reach_touch ..).step ?_ | split

theorem transmit_touch (s : State) (d : Nat) (h : HeldPkt) :
    Touch [.one .dampers, .one .ports, .one .flows, .one .sent, .one .inbox, dmpReqStatReg.grain,
      dmpStatusReg.grain, fabHoldReg.grain] s (s.transmit d h) := by
  unfold State.transmit
  with_reducible repeat' first
    | exact .refl _ _ | assumption | refine (arbitrate_touch ..).step ?_ | refine (queuePacket_touch ..).step ?_
    | split

theorem repairPacket_touch (s : State) (d : Nat) (h : HeldPkt) :
    Touch [.one .dampers, .one .ports, .one .flows, .one .sent, .one .inbox, dmpReqStatReg.grain,
      dmpStatusReg.grain, fabHoldReg.grain, fabPortCntReg.grain] s (s.repairPacket d h) := by
  unfold State.repairPacket
  with_reducible repeat' first
    | exact .refl _ _ | assumption
    | (extract_lets +onlyGivenNames t; first | (refine Touch.cut t ?_ fun _ => ?_; subst t; rotate_left; clear_value t) | subst t)
    | refine (satAdd_touch ..).step ?_ | refine (transmit_touch ..).step ?_ | split | refine .set ?_

theorem send_touch (s : State) (h : HeldPkt) :
    Touch [.one .dampers, .one .ports, .one .flows, .one .sent, .one .inbox, dmpReqStatReg.grain,
      dmpStatusReg.grain, fabHoldReg.grain, fabPortCntReg.grain] s (s.send h) := by
  unfold State.send
  with_reducible repeat' first
    | exact .refl _ _ | assumption | refine (repairPacket_touch ..).step ?_ | refine (transmit_touch ..).step ?_
    | split | refine .set ?_

theorem flood_touch (s : State) (n : Notice) (except : Option Nat) :
    Touch [.one .sent] s (s.flood n except) := by
  unfold State.flood
  with_reducible repeat' first
    | exact .refl _ _ | assumption
    | (extract_lets +onlyGivenNames t; first | (refine Touch.cut t ?_ fun _ => ?_; subst t; rotate_left; clear_value t) | subst t)
    | split | refine .set ?_

theorem noteLink_touch (s : State) (d : Nat) (up : Bool) :
    Touch [.one .topology, .one .ports, .one .sent] s (s.noteLink d up) := by
  unfold State.noteLink
  with_reducible repeat' first
    | exact .refl _ _ | assumption
    | (extract_lets +onlyGivenNames t; first | (refine Touch.cut t ?_ fun _ => ?_; subst t; rotate_left; clear_value t) | subst t)
    | refine (flood_touch ..).step ?_ | refine (setPort_touch ..).step ?_ | split | refine .set ?_

theorem faultUnreachable_touch (s : State) (q dst : Nat) :
    Touch [.one .fresh, .one .tileMem, .one .scratch, .one .const, .one .stack, .one .hostMem, .one .passes, .one
      .engines, .one .waits, .one .firings, .one .turns, .one .dampers, shfAbandonReg.grain, shfFeedStallReg.grain,
      shfInfZeroReg.grain, shfIntSatReg.grain] s (s.faultUnreachable q dst) := by
  unfold State.faultUnreachable
  with_reducible repeat' first
    | exact .refl _ _ | assumption | refine (fault_touch ..).step ?_ | refine (updFiring_touch ..).step ?_ | split
    | refine .set ?_

theorem sendSeq_touch (s : State) (dst typ accFmt addr : Nat) (data : Bytes) (fseq engine : Option Nat) (serial :
      Nat) (action : Bool) :
    Touch [.one .fresh, .one .tileMem, .one .scratch, .one .const, .one .stack, .one .hostMem, .one .passes, .one
      .engines, .one .waits, .one .firings, .one .turns, .one .dampers, .one .ports, .one .flows, .one .sent, .one
      .inbox, dmpReqStatReg.grain, dmpStatusReg.grain, fabHoldReg.grain, fabPortCntReg.grain, fabStatusReg.grain,
      shfAbandonReg.grain, shfFeedStallReg.grain, shfInfZeroReg.grain, shfIntSatReg.grain] s (s.sendSeq dst typ
      accFmt addr data fseq engine serial action).1 := by
  unfold State.sendSeq
  with_reducible repeat' first
    | exact .refl _ _ | assumption
    | (extract_lets +onlyGivenNames t; first | (refine Touch.cut t ?_ fun _ => ?_; subst t; rotate_left; clear_value t) | subst t)
    | refine (setBit_touch ..).step ?_ | refine (faultUnreachable_touch ..).step ?_
    | refine (number_touch ..).step ?_ | refine (send_touch ..).step ?_ | split

theorem resend_touch (s : State) (dst : Nat) (pick : HeldPkt → Bool) :
    Touch [.one .dampers, .one .ports, .one .flows, .one .sent, .one .inbox, dmpReqStatReg.grain,
      dmpStatusReg.grain, fabE2eCntReg.grain, fabHoldReg.grain, fabPortCntReg.grain] s (s.resend dst pick) := by
  unfold State.resend
  with_reducible repeat' first
    | exact .refl _ _ | assumption
    | (extract_lets +onlyGivenNames t; first | (refine Touch.cut t ?_ fun _ => ?_; subst t; rotate_left; clear_value t) | subst t)
    | refine (satAdd_touch ..).step ?_ | refine (send_touch ..).step ?_ | refine (setSrc_touch ..).step ?_
    | refine .foldl _ ?_ fun _ _ _ => ?_ | split | refine .set ?_

theorem answer_touch (s : State) (p : Packet) (typ seq reason : Nat) :
    Touch [.one .dampers, .one .ports, .one .flows, .one .sent, .one .inbox, dmpReqStatReg.grain,
      dmpStatusReg.grain, fabHoldReg.grain, fabPortCntReg.grain] s (s.answer p typ seq reason) := by
  unfold State.answer
  with_reducible repeat' first
    | exact .refl _ _ | assumption | refine (send_touch ..).step ?_ | split

theorem takeQueue_touch (s : State) (d : Nat) (pick : HeldPkt → Bool) :
    Touch [.one .dampers, .one .flows, fabHoldReg.grain] s (s.takeQueue d pick).1 := by
  unfold State.takeQueue
  refine .foldlOn Prod.fst _ ((setDamper_touch ..).step (.refl _ _)) fun c q h => ?_
  dsimp only
  split
  · split
    · exact h
    · exact (number_touch ..).step h
  · exact h

theorem downPort_touch (s : State) (d : Nat) :
    Touch [.one .dampers, .one .topology, .one .ports, .one .flows, .one .sent, .one .inbox, dmpReqStatReg.grain,
      dmpStatusReg.grain, fabHoldReg.grain, fabPortCntReg.grain, fabPortStatusReg.grain, fabStatusReg.grain] s
      (s.downPort d) := by
  unfold State.downPort
  with_reducible repeat' first
    | exact .refl _ _ | assumption
    | (extract_lets +onlyGivenNames t; first | (refine Touch.cut t ?_ fun _ => ?_; subst t; rotate_left; clear_value t) | (refine Touch.cut t.1 ?_ fun _ => ?_; subst t; rotate_left; clear_value t) | (refine Touch.cut t.2 ?_ fun _ => ?_; subst t; rotate_left; clear_value t) | subst t)
    | refine (wr_touch ..).step ?_ | refine (satAdd_touch ..).step ?_ | refine (setBit_touch ..).step ?_
    | refine (noteLink_touch ..).step ?_ | refine (repairPacket_touch ..).step ?_
    | refine (setPort_touch ..).step ?_ | refine (takeQueue_touch ..).step ?_ | refine .foldl _ ?_ fun _ _ _ => ?_
    | split

theorem trainPort_touch (s : State) (d : Nat) :
    Touch [.one .dampers, .one .ports, fabPortStatusReg.grain] s (s.trainPort d) := by
  unfold State.trainPort
  with_reducible repeat' first
    | exact .refl _ _ | assumption
    | (extract_lets +onlyGivenNames t; first | (refine Touch.cut t ?_ fun _ => ?_; subst t; rotate_left; clear_value t) | subst t)
    | refine (wr_touch ..).step ?_ | refine (setDamper_touch ..).step ?_ | refine (setPort_touch ..).step ?_ | split
    | refine .set ?_

theorem settlePort_touch (s : State) (d : Nat) :
    Touch [.one .topology, .one .ports, .one .sent, fabPortStatusReg.grain] s (s.settlePort d) := by
  unfold State.settlePort
  with_reducible repeat' first
    | exact .refl _ _ | assumption
    | (extract_lets +onlyGivenNames t; first | (refine Touch.cut t ?_ fun _ => ?_; subst t; rotate_left; clear_value t) | subst t)
    | refine (wr_touch ..).step ?_ | refine (noteLink_touch ..).step ?_ | split

theorem failPort_touch (s : State) (d : Nat) :
    Touch [.one .dampers, .one .topology, .one .ports, .one .flows, .one .sent, .one .inbox, dmpReqStatReg.grain,
      dmpStatusReg.grain, fabHoldReg.grain, fabPortCntReg.grain, fabPortStatusReg.grain, fabStatusReg.grain] s
      (s.failPort d) := by
  unfold State.failPort
  with_reducible repeat' first
    | exact .refl _ _ | assumption
    | (extract_lets +onlyGivenNames t; first | (refine Touch.cut t ?_ fun _ => ?_; subst t; rotate_left; clear_value t) | (refine Touch.cut t.1 ?_ fun _ => ?_; subst t; rotate_left; clear_value t) | (refine Touch.cut t.2 ?_ fun _ => ?_; subst t; rotate_left; clear_value t) | subst t)
    | refine (wr_touch ..).step ?_ | refine (satAdd_touch ..).step ?_ | refine (setBit_touch ..).step ?_
    | refine (noteLink_touch ..).step ?_ | refine (repairPacket_touch ..).step ?_
    | refine (takeQueue_touch ..).step ?_ | refine .foldl _ ?_ fun _ _ _ => ?_ | split

theorem quarantine_touch (s : State) (d : Nat) :
    Touch [.one .events, .one .vectors, fabPortStatusReg.grain, fabStatusReg.grain] s (s.quarantine d) := by
  unfold State.quarantine
  with_reducible repeat' first
    | exact .refl _ _ | assumption | refine (wr_touch ..).step ?_ | refine (setBit_touch ..).step ?_
    | refine (post_touch ..).step ?_ | split

theorem loseLane_touch (s : State) (d lane : Nat) :
    Touch [.one .ports, .one .events, .one .vectors, .one .persistent, .one .repair, fabPortCntReg.grain,
      fabPortStatusReg.grain, modSparesReg.grain, prsCopySelReg.grain, prsStatusReg.grain] s (s.loseLane d lane) := by
  unfold State.loseLane
  with_reducible repeat' first
    | exact .refl _ _ | assumption
    | (extract_lets +onlyGivenNames t; first | (refine Touch.cut t ?_ fun _ => ?_; subst t; rotate_left; clear_value t) | subst t)
    | refine (wr_touch ..).step ?_ | refine (satAdd_touch ..).step ?_ | refine (commitRepair_touch ..).step ?_
    | refine (exhaust_touch ..).step ?_ | refine (repEvent_touch ..).step ?_ | refine (setPort_touch ..).step ?_
    | split | refine .set ?_

theorem arrive_touch (s : State) (p : Packet) :
    Touch [.one .dampers, .one .ports, .one .flows, .one .sent, .one .inbox, dmpReqStatReg.grain,
      dmpStatusReg.grain, fabHoldReg.grain, fabPortCntReg.grain] s (s.arrive p) := by
  unfold State.arrive
  with_reducible repeat' first
    | exact .refl _ _ | assumption | refine (queuePacket_touch ..).step ?_ | refine (repairPacket_touch ..).step ?_
    | split | refine .set ?_

theorem applyNotices_touch (s : State) :
    Touch [.one .firings, .one .dampers, .one .topology, .one .ports, .one .flows, .one .sent, .one .inbox,
      dmpReqStatReg.grain, dmpStatusReg.grain, fabE2eCntReg.grain, fabHoldReg.grain, fabPortCntReg.grain] s
      (s.applyNotices) := by
  unfold State.applyNotices
  with_reducible repeat' first
    | exact .refl _ _ | assumption
    | (extract_lets +onlyGivenNames t; first | (refine Touch.cut t ?_ fun _ => ?_; subst t; rotate_left; clear_value t) | subst t)
    | refine (resend_touch ..).step ?_ | refine (takeQueue_touch ..).step ?_ | refine .foldl _ ?_ fun _ _ _ => ?_
    | split | refine .set ?_

theorem addInto_touch (s : State) (f a : Nat) (b : Bytes) :
    Touch [.one .stack, .one .lines, stkUeAddrReg.grain, stkUeReg.grain] s (s.addInto f a b) := by
  unfold State.addInto
  with_reducible repeat' first
    | exact .refl _ _ | assumption | refine (lineLost_touch ..).step ?_ | refine (rebuildIn_touch ..).step ?_
    | refine (stackWrite_touch ..).step ?_ | split

theorem sumStages_touch (fuel b : Nat) (k : Bucket) (i srcs : Nat) (s : State) :
    Touch [.one .stack, .one .lines, grxInstReg.grain, stkUeAddrReg.grain, stkUeReg.grain] s (sumStages fuel b k i
      srcs s) := by
  induction fuel generalizing s with
  | zero => exact .refl _ _
  | succ n ih =>
    unfold sumStages
    with_reducible repeat' first
      | exact .refl _ _ | assumption | refine (ih _).step ?_
      | (extract_lets +onlyGivenNames t; first | (refine Touch.cut t ?_ fun _ => ?_; subst t; rotate_left; clear_value t) | subst t)
      | refine (wr_touch ..).step ?_ | refine (addInto_touch ..).step ?_ | refine (rebuildIn_touch ..).step ?_
      | refine (lineLost_touch ..).step ?_ | split

theorem instTaken_touch (s : State) (b : Nat) (k : Bucket) (i : Nat) :
    Touch [.one .stack, .one .lines, grxInstReg.grain, stkUeAddrReg.grain, stkUeReg.grain] s (s.instTaken b k i) := by
  unfold State.instTaken
  with_reducible repeat' first
    | exact .refl _ _ | assumption
    | (extract_lets +onlyGivenNames t; first | (refine Touch.cut t ?_ fun _ => ?_; subst t; rotate_left; clear_value t) | subst t)
    | refine (wr_touch ..).step ?_ | refine (sumStages_touch ..).step ?_ | split

theorem contribute_touch (s : State) (src b : Nat) (k : Bucket) (i a : Nat) (data : Bytes) :
    Touch [.one .stack, .one .lines, .one .watermarks, grxCntReg.grain, grxInstReg.grain, grxStatusReg.grain,
      stkUeAddrReg.grain, stkUeReg.grain] s (s.contribute src b k i a data) := by
  unfold State.contribute
  with_reducible repeat' first
    | exact .refl _ _ | assumption
    | (extract_lets +onlyGivenNames t; first | (refine Touch.cut t ?_ fun _ => ?_; subst t; rotate_left; clear_value t) | subst t)
    | refine (wr_touch ..).step ?_ | refine (satAdd_touch ..).step ?_ | refine (setBit_touch ..).step ?_
    | refine (addInto_touch ..).step ?_ | refine (instTaken_touch ..).step ?_ | refine (lineLost_touch ..).step ?_
    | refine (store_touch ..).step ?_ | split | refine .set ?_

theorem takeAccum_touch (s : State) (src f a : Nat) (data : Bytes) :
    Touch [.one .stack, .one .lines, .one .watermarks, grxCntReg.grain, grxInstReg.grain, grxStatusReg.grain,
      stkUeAddrReg.grain, stkUeReg.grain] s (s.takeAccum src f a data) := by
  unfold State.takeAccum
  with_reducible repeat' first
    | exact .refl _ _ | assumption | refine (addInto_touch ..).step ?_ | refine (contribute_touch ..).step ?_
    | split

theorem takeShard_touch (s : State) (b : Nat) (k : Bucket) (c r a : Nat) (data : Bytes) :
    Touch [.one .stack, .one .lines, .one .watermarks, grxCntReg.grain, grxGatherReg.grain, stkUeAddrReg.grain,
      stkUeReg.grain] s (s.takeShard b k c r a data) := by
  unfold State.takeShard
  with_reducible repeat' first
    | exact .refl _ _ | assumption
    | (extract_lets +onlyGivenNames t; first | (refine Touch.cut t ?_ fun _ => ?_; subst t; rotate_left; clear_value t) | subst t)
    | refine (wr_touch ..).step ?_ | refine (satAdd_touch ..).step ?_ | refine (lineLost_touch ..).step ?_
    | refine (store_touch ..).step ?_ | split | refine .set ?_

theorem takeWrite_touch (s : State) (src a : Nat) (data : Bytes) :
    Touch [.one .stack, .one .lines, .one .watermarks, grxCntReg.grain, grxGatherReg.grain, stkUeAddrReg.grain,
      stkUeReg.grain] s (s.takeWrite src a data) := by
  unfold State.takeWrite
  with_reducible repeat' first
    | exact .refl _ _ | assumption | refine (store_touch ..).step ?_ | refine (takeShard_touch ..).step ?_ | split

theorem clearInst_touch (s : State) (b i : Nat) :
    Touch [.one .stack, .one .lines, .one .watermarks, grxInstReg.grain, stkUeAddrReg.grain, stkUeReg.grain] s
      (s.clearInst b i) := by
  unfold State.clearInst
  with_reducible repeat' first
    | exact .refl _ _ | assumption
    | (extract_lets +onlyGivenNames t; first | (refine Touch.cut t ?_ fun _ => ?_; subst t; rotate_left; clear_value t) | (refine Touch.cut t.1 ?_ fun _ => ?_; subst t; rotate_left; clear_value t) | (refine Touch.cut t.2 ?_ fun _ => ?_; subst t; rotate_left; clear_value t) | subst t)
    | refine (resetReg_touch ..).step ?_ | refine (store_touch ..).step ?_ | split | refine .set ?_

theorem clearCopy_touch (s : State) (b c : Nat) :
    Touch [.one .watermarks, grxGatherReg.grain] s (s.clearCopy b c) := by
  unfold State.clearCopy
  with_reducible repeat' first
    | exact .refl _ _ | assumption
    | (extract_lets +onlyGivenNames t; first | (refine Touch.cut t ?_ fun _ => ?_; subst t; rotate_left; clear_value t) | (refine Touch.cut t.1 ?_ fun _ => ?_; subst t; rotate_left; clear_value t) | (refine Touch.cut t.2 ?_ fun _ => ?_; subst t; rotate_left; clear_value t) | subst t)
    | refine (wr_touch ..).step ?_ | split | refine .set ?_

theorem takeNumber_touch (s : State) (p : Packet) :
    Touch [.one .flows] s (s.takeNumber p) := by
  unfold State.takeNumber
  with_reducible repeat' first
    | exact .refl _ _ | assumption | split | refine .set ?_

theorem sendNak_touch (s : State) (p : Packet) (d : DstSeq) :
    Touch [.one .dampers, .one .ports, .one .flows, .one .sent, .one .inbox, dmpReqStatReg.grain,
      dmpStatusReg.grain, fabHoldReg.grain, fabPortCntReg.grain] s (s.sendNak p d) := by
  unfold State.sendNak
  with_reducible repeat' first
    | exact .refl _ _ | assumption
    | (extract_lets +onlyGivenNames t; first | (refine Touch.cut t ?_ fun _ => ?_; subst t; rotate_left; clear_value t) | subst t)
    | refine (answer_touch ..).step ?_ | split | refine .set ?_

/-- A sequenced packet touches what its transport and its effect touch. -/
theorem receive_touch (s : State) (p : Packet) (apply : State → State × Bool) {gs : List Grain}
    (h : ∀ t, Touch gs t (apply t).1)
    (w : subsumes gs [.one .dampers, .one .ports, .one .flows, .one .sent, .one .inbox, dmpReqStatReg.grain, dmpStatusReg.grain, fabE2eCntReg.grain, fabHoldReg.grain, fabPortCntReg.grain, fluStatusReg.grain] = true := by decide) :
    Touch gs s (s.receive p apply) := by
  have answer : ∀ t typ n r, Touch gs t (State.answer t p typ n r) := fun t typ n r =>
    (answer_touch t p typ n r).mono (subsumes_trans w (by decide))
  have take : ∀ t, Touch gs t (State.takeNumber t p) := fun t => (takeNumber_touch t p).mono (subsumes_trans w (by decide))
  have count : ∀ t, Touch gs t (State.satAdd t fabE2eCntDup 0 1) ∧ Touch gs t (State.satAdd t fabE2eCntAhead 0 1) ∧
      Touch gs t (State.setBit t fluStatusRemoteRefusedSeen 0) := fun t =>
    ⟨(satAdd_touch ..).mono (subsumes_trans w (by decide)), (satAdd_touch ..).mono (subsumes_trans w (by decide)),
      (setBit_touch ..).mono (subsumes_trans w (by decide))⟩
  have nak : ∀ t d, Touch gs t (State.sendNak t p d) := fun t d => (sendNak_touch t p d).mono (subsumes_trans w (by decide))
  have refusals : ∀ t : State, Touch gs t { t with fab := { t.fab with refusals := t.fab.refusals + 1 } } := fun t =>
    Touch.mono (gs := [.one .inbox]) (.set (.refl _ _)) (subsumes_trans w (by decide))
  unfold State.receive
  dsimp only
  with_reducible repeat' first
    | exact .refl _ _ | exact h _ | refine .trans ?_ (answer _ _ _ _) | refine .trans ?_ (take _)
    | refine .trans ?_ (count _).1 | refine .trans ?_ (count _).2.1 | refine .trans ?_ (count _).2.2
    | refine .trans ?_ (nak _ _) | refine .trans ?_ (refusals _) | split

theorem land_touch (s : State) (p : Packet) (past : Option Nat) :
    Touch [.one .stack, .one .lines, .one .dampers, .one .ports, .one .flows, .one .sent, .one .inbox, .one
      .watermarks, dmpReqStatReg.grain, dmpStatusReg.grain, fabHoldReg.grain, grxCntReg.grain, grxGatherReg.grain,
      grxInstReg.grain, grxStatusReg.grain, stkUeAddrReg.grain, stkUeReg.grain] s (s.land p past).1 := by
  unfold State.land
  with_reducible repeat' first
    | exact .refl _ _ | assumption
    | (extract_lets +onlyGivenNames t; first | (refine Touch.cut t ?_ fun _ => ?_; subst t; rotate_left; clear_value t) | (refine Touch.cut t.1 ?_ fun _ => ?_; subst t; rotate_left; clear_value t) | (refine Touch.cut t.2 ?_ fun _ => ?_; subst t; rotate_left; clear_value t) | subst t)
    | refine (passChannels_touch ..).step ?_ | refine (takeAccum_touch ..).step ?_
    | refine (takeWrite_touch ..).step ?_ | split

theorem takeInbox_touch (s : State) :
    Touch [.one .stack, .one .lines, .one .dampers, .one .ports, .one .flows, .one .sent, .one .inbox, .one
      .watermarks, dmpReqStatReg.grain, dmpStatusReg.grain, fabE2eCntReg.grain, fabHoldReg.grain,
      fabPortCntReg.grain, fluStatusReg.grain, grxCntReg.grain, grxGatherReg.grain, grxInstReg.grain,
      grxStatusReg.grain, stkUeAddrReg.grain, stkUeReg.grain] s (s.takeInbox) := by
  unfold State.takeInbox
  exact .foldl _ (.set (.refl _ _)) fun u p h => h.trans (receive_touch _ _ _ (fun v => (land_touch ..).mono (by decide)) (by decide))

theorem retireAcked_touch (s : State) (q : Nat) :
    Touch [.one .log] s (s.retireAcked q) := by
  unfold State.retireAcked
  with_reducible repeat' first
    | exact .refl _ _ | assumption
    | (extract_lets +onlyGivenNames t; first | (refine Touch.cut t ?_ fun _ => ?_; subst t; rotate_left; clear_value t) | subst t)
    | split | refine .set ?_

theorem ackHeld_touch (s : State) (dst seq : Nat) :
    Touch [.one .log, .one .flows] s (s.ackHeld dst seq) := by
  unfold State.ackHeld
  with_reducible repeat' first
    | exact .refl _ _ | assumption
    | (extract_lets +onlyGivenNames t; first | (refine Touch.cut t ?_ fun _ => ?_; subst t; rotate_left; clear_value t) | subst t)
    | refine (retireAcked_touch ..).step ?_ | refine (setSrc_touch ..).step ?_ | refine .foldl _ ?_ fun _ _ _ => ?_
    | split | refine .set ?_

theorem sendAgain_touch (s : State) (dst : Nat) (h : HeldPkt) :
    Touch [.one .flows] s (s.sendAgain dst h) := by
  unfold State.sendAgain
  with_reducible repeat' first
    | exact .refl _ _ | assumption | split | refine .set ?_

theorem refused_touch (s : State) (dst reason : Nat) (h : HeldPkt) :
    Touch [.one .fresh, .one .tileMem, .one .scratch, .one .const, .one .stack, .one .hostMem, .one .passes, .one
      .engines, .one .waits, .one .firings, .one .turns, .one .dampers, .one .flows, .one .events, .one .vectors,
      shfAbandonReg.grain, shfFeedStallReg.grain, shfInfZeroReg.grain, shfIntSatReg.grain] s (s.refused dst reason
      h) := by
  unfold State.refused
  with_reducible repeat' first
    | exact .refl _ _ | assumption | refine (fault_touch ..).step ?_ | refine (post_touch ..).step ?_
    | refine (sendAgain_touch ..).step ?_ | split

end Sys2Proof.Machine
end

