-- ==== Sys2Proof/Laws/Flue.lean ====
section
/-! SUPPORT. Laws/Flue.lean: what the shared operations over firings, signals and barriers do. -/

namespace Sys2Proof.Machine

set_option Elab.async false

/-! ### Firings -/

theorem find?_updFirst {α : Type} (p : α → Bool) (g : α → α) (h : ∀ x, p x = true → p (g x) = true) (l : List α) :
    (updFirst p g l).find? p = (l.find? p).map g := by
  induction l with
  | nil => rfl
  | cons x r ih =>
    simp only [updFirst, List.find?_cons]
    cases e : p x
    · simp [e, ih]
    · simp [h x e]

/-- A firing that is updated is found with the update. -/
theorem firing?_updFiring (s : State) (q : Nat) (g : Firing → Firing) (h : ∀ f, (g f).fseq = f.fseq) :
    (s.updFiring q g).firing? q = (s.firing? q).map g := by
  simp only [State.updFiring, State.firing?]
  exact find?_updFirst _ _ (fun x hx => by simpa [h] using hx) _

/-- Other firings are found as they were. -/
theorem firing?_updFiring_other (s : State) {q p : Nat} (g : Firing → Firing) (h : ∀ f, (g f).fseq = f.fseq) (n : p ≠ q) :
    (s.updFiring q g).firing? p = s.firing? p := by
  simp only [State.updFiring, State.firing?]
  induction s.fe.firings with
  | nil => rfl
  | cons x r ih =>
    simp only [updFirst]
    split
    · next e =>
      have e : x.fseq = q := by simpa using e
      have a : (x.fseq == p) = false := by simpa [e] using fun h => n h.symm
      have b : ((g x).fseq == p) = false := by rw [h]; exact a
      rw [List.find?_cons, List.find?_cons, a, b]
    · rw [List.find?_cons, List.find?_cons, ih]

theorem firing?_fseq {s : State} {q : Nat} {f : Firing} (h : s.firing? q = some f) : f.fseq = q := by
  simpa using List.find?_some h

/-- The firings are those of another state with the same list. -/
theorem firing?_congr {s t : State} (h : t.fe.firings = s.fe.firings) (q : Nat) : t.firing? q = s.firing? q := by
  simp [State.firing?, h]

/-- Stopping the units that work for a firing leaves the firings as they are. -/
theorem stopUnits_firings (s : State) (q : Nat) : (s.stopUnits q).fe.firings = s.fe.firings :=
  (stopUnits_touch s q).keep .firings (by decide)

/-- A firing that is abandoned waits for its end record with the code. -/
theorem abandon_firing {s : State} {q : Nat} {f : Firing} (code : Nat) (h : s.firing? q = some f) (e : f.ending = false) :
    (s.abandon q code).firing? q =
      some { f.fresh with st := .abandoning, code := code, claimHeld := false, tickEnd := s.now } := by
  have k : ((s.stopUnits q).noteRelease f).firing? q = some f := by
    rw [firing?_congr ((noteRelease_touch (s.stopUnits q) f).keep .firings (by decide)), firing?_congr (stopUnits_firings s q), h]
  simp only [State.abandon, h, e, Bool.false_eq_true, if_false]
  refine (firing?_updFiring _ _ _ ?_).trans (by rw [k]; rfl)
  exact fun _ => rfl

/-- Abandoning a firing leaves the others as they are. -/
theorem abandon_other (s : State) {q p : Nat} (code : Nat) (n : p ≠ q) : (s.abandon q code).firing? p = s.firing? p := by
  unfold State.abandon
  split
  · rfl
  · split
    · rfl
    · rw [firing?_updFiring_other]
      rotate_left
      · exact fun _ => rfl
      · exact n
      rw [firing?_congr ((noteRelease_touch _ _).keep .firings (by decide)), firing?_congr (stopUnits_firings s q)]

/-- A launched firing that is replayed waits with nothing done and its claim released. -/
theorem replay_firing {s : State} {q : Nat} {f : Firing} (h : s.firing? q = some f) (e : f.ending = false)
    (l : f.launched = true) :
    (s.replay q).firing? q = some { f.fresh with st := .faulted, claimHeld := false } := by
  simp only [State.replay, h, e, l, Bool.not_true, Bool.or_self, Bool.false_eq_true, if_false]
  refine (firing?_updFiring _ _ _ ?_).trans (by rw [firing?_congr (stopUnits_firings s q), h]; rfl)
  exact fun _ => rfl

/-- A fold of operations that leave the waits leaves them. -/
theorem foldl_waits {α : Type} (g : State → α → State) (h : ∀ u x, (g u x).flue.waits = u.flue.waits) (l : List α) (s : State) :
    (l.foldl g s).flue.waits = s.flue.waits := by
  induction l generalizing s with
  | nil => rfl
  | cons x r ih => exact (ih _).trans (h s x)

/-- Descriptors that are withdrawn take waits with them and add none. -/
theorem dropDescs_waits (s : State) (q : HeldDesc → Bool) : ∀ w ∈ (s.dropDescs q).flue.waits, w ∈ s.flue.waits := by
  intro w m
  have m := (List.mem_filter.1 m).1
  rw [foldl_waits] at m
  · exact m
  · exact fun u e => foldl_waits State.dmaUndone (fun v d => (dmaUndone_touch v d).keep .waits (by decide)) _ u

/-- Stopping a firing's units ends its waits. -/
theorem stopUnits_waits (s : State) (q : Nat) :
    ∀ w ∈ (s.stopUnits q).flue.waits, w ∈ s.flue.waits ∧ w.fseq ≠ some q := by
  have a : (s.dropPasses fun p => p.fseq == q).flue.waits = s.flue.waits := (dropPasses_touch _ _).keep .waits (by decide)
  intro w m
  simp only [State.stopUnits, List.mem_filter, bne_iff_ne, ne_eq] at m
  exact ⟨a ▸ dropDescs_waits _ _ _ m.1, m.2⟩

/-- The firing that issues on an observer runs. -/
theorem issuer_firing {s : State} {o q : Nat} {f : Firing} (h : s.issuer o q = some f) :
    s.firing? q = some f ∧ f.running = true := by
  unfold State.issuer at h
  split at h
  · next g hg =>
    split at h
    · next c => cases h; simp at c; exact ⟨hg, c.1.1.2⟩
    · cases h
  · cases h

theorem running_ending {f : Firing} (h : f.running = true) : f.ending = false := by
  simp [Firing.running, Firing.ending] at *
  simp [h]

/-! ### Signals -/

/-- Other signals keep their values when one is written. -/
theorem sigVal_wr_other (s : State) {sig n : Nat} (v : Nat) (h : n ≠ sig) :
    (s.wr fluSigValueValue sig v).sigVal n = s.sigVal n :=
  rd_wr_other s v (key_ne (by decide) (by decide) (.inl h.symm))

/-- A signal that nothing waits for is served without effect. -/
theorem serve_quiet {s : State} {sig : Nat} (h : ∀ x ∈ s.flue.waits, x.sig ≠ sig) : s.serve sig = s := by
  have con : ∀ (l : List Wait), (∀ x ∈ l, x.sig ≠ sig) → serveCon sig l s = s := by
    intro l
    induction l with
    | nil => intro _; rfl
    | cons x r ih =>
      intro k
      have kx := k x (List.mem_cons_self ..)
      simp only [serveCon, kx, false_and, if_false]
      exact ih fun y hy => k y (List.mem_cons_of_mem _ hy)
  have none : s.flue.waits.filter (fun w => w.sig == sig && !w.consuming && decide (w.value ≤ s.sigVal sig)) = [] := by
    rw [List.filter_eq_nil_iff]
    intro x hx
    simp [h x hx]
  have all : s.flue.waits.filter (fun w => !(w.sig == sig && !w.consuming && decide (w.value ≤ s.sigVal sig))) = s.flue.waits := by
    rw [List.filter_eq_self]
    intro x hx
    simp [h x hx]
  simp only [State.serve, none, all, List.foldl_nil]
  exact con _ h

/-- The increments that gathered for a signal, found in either way. -/
theorem tget_find {α : Type} (d : α) (t : Tab α) (k : Nat) :
    tget d t k = ((t.find? fun p => p.1 == k).map (·.2)).getD d := by
  induction t with
  | nil => rfl
  | cons p r ih =>
    simp only [tget, List.find?_cons]
    by_cases e : p.1 = k
    · simp [e]
    · simp [e, ih, beq_eq_false_iff_ne.2 e]

theorem tdel_absent {α : Type} {t : Tab α} {k : Nat} (h : ∀ p ∈ t, p.1 ≠ k) : tdel t k = t :=
  List.filter_eq_self.2 fun p m => by simpa using h p m

/-- The last increments of a ctl cycle on a signal that nothing waits for. -/
theorem landSig_quiet {s : State} {sig v : Nat} {o : Opening} (h : ∀ x ∈ s.flue.waits, x.sig ≠ sig) (lt : v + o.sum < 2 ^ 32) :
    s.landSig sig v o = ({ s with flue := { s.flue with opened := tdel s.flue.opened sig } }).wr fluSigValueValue sig (v + o.sum) := by
  simp only [State.landSig, lt, if_true]
  exact serve_quiet h

/-- Closing the ctl cycle of a signal that nothing waits for. -/
theorem closeSig_quiet {s : State} {sig : Nat} (h : ∀ x ∈ s.flue.waits, x.sig ≠ sig)
    (lt : s.sigVal sig + (tget noneOpen s.flue.opened sig).sum < 2 ^ 32) :
    (s.closeSig sig).sigVal sig = s.sigVal sig + (tget noneOpen s.flue.opened sig).sum ∧
      (∀ n, n ≠ sig → (s.closeSig sig).sigVal n = s.sigVal n) ∧ (s.closeSig sig).flue.waits = s.flue.waits ∧
      (s.closeSig sig).fe = s.fe ∧ (s.closeSig sig).flue.sitter = s.flue.sitter ∧
      (s.closeSig sig).sit = s.sit ∧ (s.closeSig sig).now = s.now ∧
      Unchanged [.one .opened, fluSigValueReg.grain] s (s.closeSig sig) := by
  rw [tget_find] at lt ⊢
  unfold State.closeSig
  cases e : s.flue.opened.find? fun p => p.1 == sig with
  | none => exact ⟨rfl, fun _ _ => rfl, rfl, rfl, rfl, rfl, rfl, (Touch.refl _ _).keep⟩
  | some p =>
    rw [e] at lt
    dsimp only [Option.map_some, Option.getD_some] at lt ⊢
    rw [landSig_quiet h lt]
    refine ⟨?_, fun n hn => ?_, rfl, rfl, rfl, rfl, ?_, ?_⟩
    · exact (rd_wr_same ..).trans (Nat.mod_eq_of_lt lt)
    · exact sigVal_wr_other _ _ hn
    · exact rd_wr_ne _ _ _ _ (by decide)
    · exact ((wr_touch ..).step (.set (.refl _ _))).keep

/-- Releasing a wait leaves the waits and the signal values alone. -/
theorem released_same (s : State) (w : Wait) :
    (s.released w).flue.waits = s.flue.waits ∧ ∀ n, (s.released w).sigVal n = s.sigVal n := by
  have keep : ∀ u : State, u.flue.waits = s.flue.waits → (∀ n, u.sigVal n = s.sigVal n) → ∀ v : State,
      v = (if w.timeout ≠ 0 ∧ u.now = w.tick + 1024 * w.timeout then u.satAdd fluNearTimeoutNear 0 1 else u) →
      v.flue.waits = s.flue.waits ∧ ∀ n, v.sigVal n = s.sigVal n := by
    rintro u a b _ rfl
    split
    · exact ⟨a, fun n => (rd_satAdd_ne _ _ _ _ (by decide)).trans (b n)⟩
    · exact ⟨a, b⟩
  unfold State.released
  refine keep _ ?_ ?_ _ rfl
  · split
    · rfl
    · split <;> rfl
  · intro n
    split
    · rfl
    · split <;> rfl

/-- The state in which one consuming waiter has been served. -/
def State.taken (s : State) (sig : Nat) (w : Wait) : State :=
  let s := s.wr fluSigValueValue sig (s.sigVal sig - w.value)
  let s := { s with flue := { s.flue with waits := s.flue.waits.filter fun x => decide (x ≠ w) } }
  s.released w

theorem serveCon_cons (sig : Nat) (w : Wait) (r : List Wait) (s : State) :
    serveCon sig (w :: r) s = if w.sig = sig ∧ w.consuming = true then
      if w.value ≤ s.sigVal sig then serveCon sig r (s.taken sig w) else s else serveCon sig r s := rfl

theorem taken_same (s : State) (sig : Nat) (w : Wait) :
    (s.taken sig w).flue.waits = s.flue.waits.filter (fun x => decide (x ≠ w)) ∧ (s.taken sig w).sigVal sig ≤ s.sigVal sig ∧
      ∀ n, n ≠ sig → (s.taken sig w).sigVal n = s.sigVal n := by
  unfold State.taken
  dsimp only
  refine ⟨(released_same _ _).1, ?_, fun n hn => ?_⟩
  · rw [(released_same _ _).2]
    show (s.wr fluSigValueValue sig _).rd _ _ ≤ _
    rw [rd_wr_same]
    exact Nat.le_trans (Nat.mod_le ..) (Nat.sub_le ..)
  · rw [(released_same _ _).2]
    exact sigVal_wr_other s _ hn

/-- Serving consuming waiters takes from the signal's value and changes no other signal. -/
theorem serveCon_values (sig : Nat) (l : List Wait) (s : State) :
    (serveCon sig l s).sigVal sig ≤ s.sigVal sig ∧ ∀ n, n ≠ sig → (serveCon sig l s).sigVal n = s.sigVal n := by
  induction l generalizing s with
  | nil => simp [serveCon]
  | cons w r ih =>
    rw [serveCon_cons]
    split
    · split
      · have h := taken_same s sig w
        have k := ih (s.taken sig w)
        exact ⟨Nat.le_trans k.1 h.2.1, fun n hn => (k.2 n hn).trans (h.2.2 n hn)⟩
      · simp
    · exact ih s

/-- Serving consuming waiters takes away waits of the signal that consume, and no other. -/
theorem serveCon_waits (sig : Nat) (l : List Wait) (s : State) (w : Wait) :
    (w ∈ (serveCon sig l s).flue.waits → w ∈ s.flue.waits) ∧
      ((w.sig ≠ sig ∨ w.consuming = false) → w ∈ s.flue.waits → w ∈ (serveCon sig l s).flue.waits) := by
  induction l generalizing s with
  | nil => simp [serveCon]
  | cons x r ih =>
    rw [serveCon_cons]
    split
    · next c =>
      split
      · have h := taken_same s sig x
        have k := ih (s.taken sig x)
        rw [h.1] at k
        constructor
        · intro m
          exact (List.mem_filter.1 (k.1 m)).1
        · intro d m
          refine k.2 d (List.mem_filter.2 ⟨m, ?_⟩)
          simp only [decide_eq_true_eq]
          rintro rfl
          rcases d with d | d
          · exact d c.1
          · rw [d] at c; exact absurd c.2 (by decide)
      · simp
    · exact ih s

/-- Without a consuming waiter on the signal nothing is served. -/
theorem serveCon_none (sig : Nat) (l : List Wait) (s : State) (h : ∀ w ∈ l, w.sig = sig → w.consuming = false) :
    serveCon sig l s = s := by
  induction l with
  | nil => rfl
  | cons w r ih =>
    have n : ¬(w.sig = sig ∧ w.consuming = true) := fun ⟨a, b⟩ => by simp [h w (List.mem_cons_self ..) a] at b
    simp only [serveCon, n, if_false]
    exact ih fun x hx => h x (List.mem_cons_of_mem _ hx)

/-- After serving, the first consuming waiter of the signal asks for more than the signal holds. -/
theorem serveCon_blocked (sig : Nat) (l : List Wait) (s : State) (n : s.flue.waits.Nodup)
    (e : s.flue.waits.filter (fun w => w.sig == sig && w.consuming) = l.filter fun w => w.sig == sig && w.consuming) :
    ∀ w, (serveCon sig l s).flue.waits.find? (fun w => w.sig == sig && w.consuming) = some w →
      (serveCon sig l s).sigVal sig < w.value := by
  induction l generalizing s with
  | nil =>
    intro w h
    simp only [serveCon] at h
    have m : w ∈ s.flue.waits.filter fun w => w.sig == sig && w.consuming :=
      List.mem_filter.2 ⟨List.mem_of_find?_eq_some h, by simpa using List.find?_some h⟩
    rw [e] at m
    simp at m
  | cons x r ih =>
    rw [serveCon_cons]
    split
    · next c =>
      have cx : (x.sig == sig && x.consuming) = true := by simp [c.1, c.2]
      rw [List.filter_cons, if_pos cx] at e
      split
      · have h := taken_same s sig x
        refine ih _ (by rw [h.1]; exact n.filter _) ?_
        rw [h.1]
        have nf := n.filter fun w => w.sig == sig && w.consuming
        rw [e] at nf
        have nf : x ∉ r.filter fun w => w.sig == sig && w.consuming := fun m => List.rel_of_pairwise_cons nf m rfl
        rw [List.filter_filter, show (fun a : Wait => (a.sig == sig && a.consuming) && decide (a ≠ x)) =
          fun a => decide (a ≠ x) && (a.sig == sig && a.consuming) from funext fun a => Bool.and_comm .., ← List.filter_filter, e,
          List.filter_cons, if_neg (by simp), List.filter_eq_self]
        intro a ha
        simp only [decide_eq_true_eq]
        rintro rfl
        exact nf ha
      · next nv =>
        intro w h
        rw [← List.head?_filter, e, List.head?_cons, Option.some.injEq] at h
        subst h
        omega
    · next c =>
      have cx : ¬(x.sig == sig && x.consuming) = true := by
        intro h
        simp at h
        exact c h
      rw [List.filter_cons, if_neg cx] at e
      exact ih s n e

/-! ### Barriers -/

theorem find?_tput {α : Type} (t : Tab α) (k : Nat) (v : α) : (tput t k v).find? (fun p => p.1 == k) = some (k, v) := by
  induction t with
  | nil => simp [tput]
  | cons p r ih =>
    simp only [tput]
    split
    · simp
    · split
      · simp
      · next a b => rw [List.find?_cons]; simp [beq_eq_false_iff_ne.2 (show p.1 ≠ k from fun h => b h.symm), ih]

theorem find?_tput_other {α : Type} (t : Tab α) {k j : Nat} (v : α) (h : j ≠ k) :
    (tput t k v).find? (fun p => p.1 == j) = t.find? fun p => p.1 == j := by
  have ne : (k == j) = false := by simpa using fun e : k = j => h e.symm
  induction t with
  | nil => simp [tput, ne]
  | cons p r ih =>
    simp only [tput]
    split
    · simp [List.find?_cons, ne]
    · split
      · next e =>
        have e : p.1 = k := by simpa using e.symm
        simp [ne, e]
      · simp only [List.find?_cons]; split <;> first | rfl | exact ih

/-- A barrier group is the one that was put last. -/
@[simp] theorem bar?_setBar (s : State) (g : Nat) (b : Barrier) : (s.setBar g b).bar? g = some b := by
  simp [State.bar?, State.setBar, find?_tput]

@[simp] theorem bar?_updFiring (s : State) (q : Nat) (k : Firing → Firing) (g : Nat) :
    (s.updFiring q k).bar? g = s.bar? g := rfl

/-- While no operation of the Sitter is ready, nothing goes on. -/
theorem sitterOn_settled {s : State} (h : s.sitterSettled = true) : s.sitterOn = s := by
  unfold State.sitterSettled at h
  unfold State.sitterOn
  split at h
  · next e => rw [e]; rfl
  · next e => rw [e]; simp [h]
  · cases h

/-- A generation with an observer missing stays open. -/
theorem settleBar_open {s : State} {g : Nat} {b : Barrier} (h : s.bar? g = some b) (c : b.complete = false) (n : Nat) :
    settleBar n g s = s := by
  cases n <;> simp [settleBar, h, c]

end Sys2Proof.Machine
end

