-- ==== Sys2Proof/Laws/TouchFirings.lean ====
section
/-! SUPPORT. Laws/TouchFirings.lean: what the operations of the DMA engines, the passes and the front end touch. -/

namespace Sys2Proof.Machine

set_option Elab.async false

theorem uncorrectable_touch (s : State) (line : Nat) (q : Option Nat) :
    Touch [.one .fresh, .one .tileMem, .one .scratch, .one .const, .one .stack, .one .hostMem, .one .passes, .one
      .engines, .one .waits, .one .firings, .one .turns, .one .dampers, shfAbandonReg.grain, shfFeedStallReg.grain,
      shfInfZeroReg.grain, shfIntSatReg.grain, stkUeAddrReg.grain, stkUeReg.grain] s (s.uncorrectable line q) := by
  unfold State.uncorrectable
  with_reducible repeat' first
    | exact .refl _ _ | assumption
    | (extract_lets +onlyGivenNames t; first | (refine Touch.cut t ?_ fun _ => ?_; subst t; rotate_left; clear_value t) | subst t)
    | refine (faultLine_touch ..).step ?_ | refine (lineLost_touch ..).step ?_ | split

/-- Reads that the stacks answer rebuild lines and count them. -/
theorem readLines_touch {s t : State} {rs : List (Nat × Nat × Nat)} (h : s.readLines rs = .ok t) :
    Touch [.one .lines, stkUeReg.grain] s t := by
  have fold : ∀ (l : List (Nat × Nat × Nat)) (e : Except Nat State),
      (∀ u, e = .ok u → Touch [.one .lines, stkUeReg.grain] s u) →
      ∀ u, l.foldl (fun (e : Except Nat State) r =>
        match e with
        | .error l => .error l
        | .ok s =>
          if r.1 = 3 then
            match s.badIn r.2.1 r.2.2 with
            | some l => .error l
            | none => .ok (s.rebuildIn r.2.1 r.2.2)
          else .ok s) e = .ok u → Touch [.one .lines, stkUeReg.grain] s u := by
    intro l
    induction l with
    | nil => exact fun e he => he
    | cons r l ih =>
      intro e he
      refine ih _ fun u hu => ?_
      dsimp only at hu
      split at hu
      · cases hu
      · split at hu
        · split at hu
          · cases hu
          · cases hu; exact (rebuildIn_touch ..).step (he _ rfl)
        · cases hu; exact he _ rfl
  exact fold rs (.ok s) (fun u hu => by cases hu; exact .refl _ _) t h

theorem sitterMoves_touch (s : State) (n : Nat) :
    Touch [.one .fresh, .one .pieces] s (s.sitterMoves n) := by
  unfold State.sitterMoves
  with_reducible repeat' first
    | exact .refl _ _ | assumption | split | refine .set ?_

theorem hold_touch (s : State) (e w : Nat) (q i : Option Nat) (issue : Nat) :
    Touch [.one .engines] s (s.hold e w q i issue) := by
  unfold State.hold
  with_reducible repeat' first
    | exact .refl _ _ | assumption
    | (extract_lets +onlyGivenNames t; first | (refine Touch.cut t ?_ fun _ => ?_; subst t; rotate_left; clear_value t) | subst t)
    | refine (setEngine_touch ..).step ?_ | split | refine .set ?_

theorem ringEngine_touch (s : State) (e : Nat) :
    Touch [.one .engines] s (s.ringEngine e) := by
  unfold State.ringEngine
  with_reducible repeat' first
    | exact .refl _ _ | assumption | refine (setEngine_touch ..).step ?_ | split | refine .set ?_

theorem ringEnable_touch (s : State) (e : Nat) (enable : Bool) :
    Touch [.one .engines, dmaRingCtlReg.grain] s (s.ringEnable e enable) := by
  unfold State.ringEnable
  with_reducible repeat' first
    | exact .refl _ _ | assumption | refine (wr_touch ..).step ?_ | refine (setEngine_touch ..).step ?_ | split
    | refine .set ?_

theorem sleep_touch (s : State) (e : Nat) :
    Touch [.one .engines] s (s.sleep e) := by
  unfold State.sleep
  with_reducible repeat' first
    | exact .refl _ _ | assumption | refine (setEngine_touch ..).step ?_ | split | refine .set ?_

theorem fetchRing_touch (s : State) (e : Nat) :
    Touch [.one .fresh, .one .tileMem, .one .scratch, .one .const, .one .stack, .one .hostMem, .one .lines, .one
      .passes, .one .engines, .one .waits, .one .firings, .one .turns, .one .dampers, .one .events, .one .vectors,
      dmaHeadReg.grain, dmaStatusReg.grain, shfAbandonReg.grain, shfFeedStallReg.grain, shfInfZeroReg.grain,
      shfIntSatReg.grain, stkUeAddrReg.grain, stkUeReg.grain] s (s.fetchRing e) := by
  unfold State.fetchRing
  with_reducible repeat' first
    | exact .refl _ _ | assumption
    | (extract_lets +onlyGivenNames t; first | (refine Touch.cut t ?_ fun _ => ?_; subst t; rotate_left; clear_value t) | subst t)
    | refine (wr_touch ..).step ?_ | refine (setBit_touch ..).step ?_ | refine (fault_touch ..).step ?_
    | refine (hold_touch ..).step ?_ | refine (lineLost_touch ..).step ?_ | refine (post_touch ..).step ?_
    | refine (put_touch ..).step ?_ | refine (rebuildIn_touch ..).step ?_ | refine (sleep_touch ..).step ?_
    | refine (updFiring_touch ..).step ?_ | split | refine .set ?_

theorem updHeld_touch (s : State) (e n : Nat) (g : HeldDesc → HeldDesc) :
    Touch [.one .engines] s (s.updHeld e n g) := by
  unfold State.updHeld
  with_reducible repeat' first
    | exact .refl _ _ | assumption
    | (extract_lets +onlyGivenNames t; first | (refine Touch.cut t ?_ fun _ => ?_; subst t; rotate_left; clear_value t) | subst t)
    | refine (setEngine_touch ..).step ?_ | split | refine .set ?_

theorem issuePacket_touch (s : State) (e : Nat) (h : HeldDesc) (d : Nat) (t : Transfer) :
    Touch [.one .fresh, .one .tileMem, .one .scratch, .one .const, .one .stack, .one .hostMem, .one .passes, .one
      .engines, .one .waits, .one .firings, .one .turns, .one .dampers, .one .ports, .one .flows, .one .sent, .one
      .inbox, dmpReqStatReg.grain, dmpStatusReg.grain, fabHoldReg.grain, fabStatusReg.grain, shfAbandonReg.grain,
      shfFeedStallReg.grain, shfInfZeroReg.grain, shfIntSatReg.grain] s (s.issuePacket e h d t) := by
  unfold State.issuePacket
  with_reducible repeat' first
    | exact .refl _ _ | assumption
    | (extract_lets +onlyGivenNames t; first | (refine Touch.cut t ?_ fun _ => ?_; subst t; rotate_left; clear_value t) | (refine Touch.cut t.1 ?_ fun _ => ?_; subst t; rotate_left; clear_value t) | (refine Touch.cut t.2 ?_ fun _ => ?_; subst t; rotate_left; clear_value t) | subst t)
    | refine (setBit_touch ..).step ?_ | refine (faultUnreachable_touch ..).step ?_
    | refine (reach_touch ..).step ?_ | refine (updFiring_touch ..).step ?_ | refine (updHeld_touch ..).step ?_
    | split

theorem issue_touch (s : State) (e d : Nat) (t : Transfer) :
    Touch [.one .fresh, .one .tileMem, .one .scratch, .one .const, .one .stack, .one .hostMem, .one .passes, .one
      .engines, .one .waits, .one .firings, .one .turns, .one .dampers, .one .ports, .one .flows, .one .sent, .one
      .inbox, dmpReqStatReg.grain, dmpStatusReg.grain, fabHoldReg.grain, fabStatusReg.grain, shfAbandonReg.grain,
      shfFeedStallReg.grain, shfInfZeroReg.grain, shfIntSatReg.grain] s (s.issue e d t) := by
  unfold State.issue
  with_reducible repeat' first
    | exact .refl _ _ | assumption
    | (extract_lets +onlyGivenNames t; first | (refine Touch.cut t ?_ fun _ => ?_; subst t; rotate_left; clear_value t) | subst t)
    | refine (issuePacket_touch ..).step ?_ | refine (reach_touch ..).step ?_ | refine (updHeld_touch ..).step ?_
    | split | refine .set ?_

theorem meetReads_touch (s : State) (f : Option Firing) (rs : List (Nat × Nat × Nat)) :
    Touch [.one .lines, stkUeReg.grain] s (s.meetReads f rs).2 := by
  unfold State.meetReads
  (repeat' split) <;> first | exact .refl _ _ | exact readLines_touch (by assumption)

theorem giveUp_touch (s : State) (e : Nat) (h : HeldDesc) :
    Touch [.one .fresh, .one .tileMem, .one .scratch, .one .const, .one .stack, .one .hostMem, .one .engines, .one
      .dampers] s (s.giveUp e h) := by
  unfold State.giveUp
  with_reducible repeat' first
    | exact .refl _ _ | assumption
    | (extract_lets +onlyGivenNames t; first | (refine Touch.cut t ?_ fun _ => ?_; subst t; rotate_left; clear_value t) | subst t)
    | refine (dmaUndone_touch ..).step ?_ | refine (leaveDampers_touch ..).step ?_
    | refine (setEngine_touch ..).step ?_ | split | refine .set ?_

theorem descLost_touch (s : State) (e : Nat) (h : HeldDesc) (line : Nat) :
    Touch [.one .fresh, .one .tileMem, .one .scratch, .one .const, .one .stack, .one .hostMem, .one .passes, .one
      .engines, .one .waits, .one .firings, .one .turns, .one .dampers, shfAbandonReg.grain, shfFeedStallReg.grain,
      shfInfZeroReg.grain, shfIntSatReg.grain, stkUeAddrReg.grain, stkUeReg.grain] s (s.descLost e h line) := by
  unfold State.descLost
  with_reducible repeat' first
    | exact .refl _ _ | assumption
    | (extract_lets +onlyGivenNames t; first | (refine Touch.cut t ?_ fun _ => ?_; subst t; rotate_left; clear_value t) | subst t)
    | refine (giveUp_touch ..).step ?_ | refine (uncorrectable_touch ..).step ?_ | split

theorem readStopped_touch (s : State) (e : Nat) (h : HeldDesc) (m : ReadMet) :
    Touch [.one .fresh, .one .tileMem, .one .scratch, .one .const, .one .stack, .one .hostMem, .one .passes, .one
      .engines, .one .waits, .one .firings, .one .turns, .one .dampers, grxCntReg.grain, shfAbandonReg.grain,
      shfFeedStallReg.grain, shfInfZeroReg.grain, shfIntSatReg.grain, stkUeAddrReg.grain, stkUeReg.grain] s
      (s.readStopped e h m) := by
  unfold State.readStopped
  with_reducible repeat' first
    | exact .refl _ _ | assumption | refine (satAdd_touch ..).step ?_ | refine (descLost_touch ..).step ?_
    | refine (fault_touch ..).step ?_ | refine (updHeld_touch ..).step ?_ | split | refine .set ?_

theorem runDesc_touch (s : State) (e : Nat) (h : HeldDesc) :
    Touch [.one .fresh, .one .tileMem, .one .scratch, .one .const, .one .stack, .one .hostMem, .one .lines, .one
      .passes, .one .engines, .one .waits, .one .firings, .one .turns, .one .dampers, .one .events, .one .vectors,
      grxCntReg.grain, shfAbandonReg.grain, shfFeedStallReg.grain, shfInfZeroReg.grain, shfIntSatReg.grain,
      stkUeAddrReg.grain, stkUeReg.grain] s (s.runDesc e h) := by
  unfold State.runDesc
  dsimp only
  have h1 := meetReads_touch s (h.fseq.bind s.firing?) (s.dmaTable (h.fseq.bind s.firing?) h.word)
  split
  · rename_i t e1
    rw [e1] at h1
    dsimp only at h1
    split
    · split
      · exact (fault_touch ..).step (h1.mono (by decide))
      · exact (post_touch ..).step ((dropDescs_touch ..).step (h1.mono (by decide)))
    · have h2 := meetReads_touch t (h.fseq.bind s.firing?)
        (t.dmaReads (h.fseq.bind s.firing?) h.word (t.dmaOffsets (h.fseq.bind s.firing?) h.word))
      split
      · rename_i u e2
        rw [e2] at h2
        have h3 := (h1.trans h2).mono (hs := [.one .fresh, .one .tileMem, .one .scratch, .one .const, .one .stack, .one .hostMem, .one .lines, .one .passes, .one .engines, .one .waits, .one .firings, .one .turns, .one .dampers, .one .events, .one .vectors, grxCntReg.grain, shfAbandonReg.grain, shfFeedStallReg.grain, shfInfZeroReg.grain, shfIntSatReg.grain, stkUeAddrReg.grain, stkUeReg.grain]) (by decide)
        split
        · refine .set ?_
          exact (updHeld_touch ..).step h3
        · exact (updHeld_touch ..).step h3
      · rename_i u e2
        rw [e2] at h2
        exact (readStopped_touch ..).step ((h1.trans h2).mono (by decide))
  · rename_i t e1
    rw [e1] at h1
    exact (readStopped_touch ..).step (h1.mono (by decide))

theorem dmaPutRun_touch (s : State) (f : Option Firing) (w : Nat) (p : Nat × Bytes) :
    Touch [.one .tileMem, .one .scratch, .one .const, .one .stack, .one .hostMem, .one .lines, .one .watermarks,
      grxCntReg.grain, grxGatherReg.grain, grxInstReg.grain, grxStatusReg.grain, stkUeAddrReg.grain, stkUeReg.grain]
      s (s.dmaPutRun f w p) := by
  unfold State.dmaPutRun
  with_reducible repeat' first
    | exact .refl _ _ | assumption
    | (extract_lets +onlyGivenNames t; first | (refine Touch.cut t ?_ fun _ => ?_; subst t; rotate_left; clear_value t) | (refine Touch.cut t.1 ?_ fun _ => ?_; subst t; rotate_left; clear_value t) | (refine Touch.cut t.2 ?_ fun _ => ?_; subst t; rotate_left; clear_value t) | subst t)
    | refine (takeAccum_touch ..).step ?_ | refine (takeWrite_touch ..).step ?_
    | refine (writeSpace_touch ..).step ?_ | refine (writeSpace_any ..).step ?_ | split

theorem dmaPutRuns_touch (s : State) (f : Option Firing) (w : Nat) (runs : List (Nat × Bytes)) :
    Touch [.one .tileMem, .one .scratch, .one .const, .one .stack, .one .hostMem, .one .lines, .one .watermarks,
      grxCntReg.grain, grxGatherReg.grain, grxInstReg.grain, grxStatusReg.grain, stkUeAddrReg.grain, stkUeReg.grain]
      s (s.dmaPutRuns f w runs).1 := by
  unfold State.dmaPutRuns
  exact .foldlOn Prod.fst _ (.refl _ _) fun c p h => (dmaPutRun_touch ..).step h

theorem pulse_touch (s : State) (e : Nat) (h : HeldDesc) (more : Bool) :
    Touch [.one .fresh, .one .tileMem, .one .scratch, .one .const, .one .stack, .one .hostMem, .one .passes, .one
      .engines, .one .waits, .one .records, .one .opened, .one .firings, .one .turns, .one .dampers,
      fluNearTimeoutReg.grain, fluRecordUseReg.grain, fluSigValueReg.grain, fluStatusReg.grain, shfAbandonReg.grain,
      shfFeedStallReg.grain, shfInfZeroReg.grain, shfIntSatReg.grain] s (s.pulse e h more).1 := by
  unfold State.pulse
  with_reducible repeat' first
    | exact .refl _ _ | assumption
    | (extract_lets +onlyGivenNames t; first | (refine Touch.cut t ?_ fun _ => ?_; subst t; rotate_left; clear_value t) | (refine Touch.cut t.1 ?_ fun _ => ?_; subst t; rotate_left; clear_value t) | (refine Touch.cut t.2 ?_ fun _ => ?_; subst t; rotate_left; clear_value t) | subst t)
    | refine (incKeyed_touch ..).step ?_ | refine (incSignal_touch ..).step ?_ | refine (updFiring_touch ..).step ?_
    | split | refine .set ?_

theorem letGo_touch (s : State) (e : Nat) (h : HeldDesc) (n : Nat) :
    Touch [.one .engines, .one .firings, dmaBytesReg.grain, dmaRingCtlReg.grain] s (s.letGo e h n) := by
  unfold State.letGo
  with_reducible repeat' first
    | exact .refl _ _ | assumption
    | (extract_lets +onlyGivenNames t; first | (refine Touch.cut t ?_ fun _ => ?_; subst t; rotate_left; clear_value t) | subst t)
    | refine (wr_touch ..).step ?_ | refine (wrapAdd_touch ..).step ?_ | refine (setEngine_touch ..).step ?_
    | refine (updFiring_touch ..).step ?_ | split | refine .set ?_

theorem place_touch (s : State) (e : Nat) (h : HeldDesc) (occs : List Occ) (gauges : Tab Gauge) :
    Touch [.one .engines, .one .firings] s (s.place e h occs gauges) := by
  unfold State.place
  with_reducible repeat' first
    | exact .refl _ _ | assumption
    | (extract_lets +onlyGivenNames t; first | (refine Touch.cut t ?_ fun _ => ?_; subst t; rotate_left; clear_value t) | subst t)
    | refine (updFiring_touch ..).step ?_ | refine (updHeld_touch ..).step ?_ | split | refine .set ?_

theorem complete_touch (s : State) (e : Nat) (h : HeldDesc) (more : Bool) :
    Touch [.one .fresh, .one .tileMem, .one .scratch, .one .const, .one .stack, .one .hostMem, .one .passes, .one
      .engines, .one .waits, .one .records, .one .opened, .one .firings, .one .turns, .one .dampers,
      dmaBytesReg.grain, dmaRingCtlReg.grain, fluNearTimeoutReg.grain, fluRecordUseReg.grain, fluSigValueReg.grain,
      fluStatusReg.grain, shfAbandonReg.grain, shfFeedStallReg.grain, shfInfZeroReg.grain, shfIntSatReg.grain] s
      (s.complete e h more) := by
  unfold State.complete
  with_reducible repeat' first
    | exact .refl _ _ | assumption
    | (extract_lets +onlyGivenNames t; first | (refine Touch.cut t ?_ fun _ => ?_; subst t; rotate_left; clear_value t) | (refine Touch.cut t.1 ?_ fun _ => ?_; subst t; rotate_left; clear_value t) | (refine Touch.cut t.2 ?_ fun _ => ?_; subst t; rotate_left; clear_value t) | subst t)
    | refine (letGo_touch ..).step ?_ | refine (pulse_touch ..).step ?_ | split

theorem completeRemote_touch (s : State) (e : Nat) (h : HeldDesc) (more : Bool) :
    Touch [.one .fresh, .one .tileMem, .one .scratch, .one .const, .one .stack, .one .hostMem, .one .passes, .one
      .engines, .one .waits, .one .records, .one .opened, .one .firings, .one .turns, .one .dampers,
      dmaBytesReg.grain, dmaRingCtlReg.grain, fluNearTimeoutReg.grain, fluRecordUseReg.grain, fluSigValueReg.grain,
      fluStatusReg.grain, shfAbandonReg.grain, shfFeedStallReg.grain, shfInfZeroReg.grain, shfIntSatReg.grain] s
      (s.completeRemote e h more) := by
  unfold State.completeRemote
  with_reducible repeat' first
    | exact .refl _ _ | assumption
    | (extract_lets +onlyGivenNames t; first | (refine Touch.cut t ?_ fun _ => ?_; subst t; rotate_left; clear_value t) | subst t)
    | refine (complete_touch ..).step ?_ | refine (place_touch ..).step ?_ | split

theorem completeLocal_touch (s : State) (e : Nat) (h : HeldDesc) (more : Bool) :
    Touch [.one .fresh, .one .tileMem, .one .scratch, .one .const, .one .stack, .one .hostMem, .one .lines, .one
      .passes, .one .engines, .one .waits, .one .records, .one .opened, .one .firings, .one .turns, .one .dampers,
      .one .watermarks, dmaBytesReg.grain, dmaRingCtlReg.grain, fluNearTimeoutReg.grain, fluRecordUseReg.grain,
      fluSigValueReg.grain, fluStatusReg.grain, grxCntReg.grain, grxGatherReg.grain, grxInstReg.grain,
      grxStatusReg.grain, shfAbandonReg.grain, shfFeedStallReg.grain, shfInfZeroReg.grain, shfIntSatReg.grain,
      stkUeAddrReg.grain, stkUeReg.grain] s (s.completeLocal e h more) := by
  unfold State.completeLocal
  with_reducible repeat' first
    | exact .refl _ _ | assumption
    | (extract_lets +onlyGivenNames t; first | (refine Touch.cut t ?_ fun _ => ?_; subst t; rotate_left; clear_value t) | (refine Touch.cut t.1 ?_ fun _ => ?_; subst t; rotate_left; clear_value t) | (refine Touch.cut t.2 ?_ fun _ => ?_; subst t; rotate_left; clear_value t) | subst t)
    | refine (readLines_touch (by assumption)).step ?_ | refine (complete_touch ..).step ?_
    | refine (descLost_touch ..).step ?_ | refine (dmaPutRuns_touch ..).step ?_ | refine (place_touch ..).step ?_
    | split

theorem hostError_touch (s : State) (e : Nat) :
    Touch [.one .fresh, .one .tileMem, .one .scratch, .one .const, .one .stack, .one .hostMem, .one .passes, .one
      .engines, .one .waits, .one .firings, .one .turns, .one .dampers, dmaStatusReg.grain, shfAbandonReg.grain,
      shfFeedStallReg.grain, shfInfZeroReg.grain, shfIntSatReg.grain] s (s.hostError e) := by
  unfold State.hostError
  with_reducible repeat' first
    | exact .refl _ _ | assumption
    | (extract_lets +onlyGivenNames t; first | (refine Touch.cut t ?_ fun _ => ?_; subst t; rotate_left; clear_value t) | subst t)
    | refine (setBit_touch ..).step ?_ | refine (fault_touch ..).step ?_ | refine (giveUp_touch ..).step ?_ | split

theorem grantOp_touch (s : State) (p : Nat × Nat) :
    Touch [.one .fresh, .one .tileMem, .one .scratch, .one .const, .one .stack, .one .hostMem, .one .passes, .one
      .engines, .one .waits, .one .firings, .one .turns, .one .grants, .one .dampers, shfAbandonReg.grain,
      shfFeedStallReg.grain, shfInfZeroReg.grain, shfIntSatReg.grain] s (s.grantOp p) := by
  unfold State.grantOp
  with_reducible repeat' first
    | exact .refl _ _ | assumption
    | (extract_lets +onlyGivenNames t; first | (refine Touch.cut t ?_ fun _ => ?_; subst t; rotate_left; clear_value t) | (refine Touch.cut t.1 ?_ fun _ => ?_; subst t; rotate_left; clear_value t) | (refine Touch.cut t.2 ?_ fun _ => ?_; subst t; rotate_left; clear_value t) | subst t)
    | refine (fault_touch ..).step ?_ | refine (updFiring_touch ..).step ?_ | split | refine .set ?_

theorem grantHeld_touch (s : State) :
    Touch [.one .fresh, .one .tileMem, .one .scratch, .one .const, .one .stack, .one .hostMem, .one .passes, .one
      .engines, .one .waits, .one .firings, .one .turns, .one .grants, .one .dampers, shfAbandonReg.grain,
      shfFeedStallReg.grain, shfInfZeroReg.grain, shfIntSatReg.grain] s (s.grantHeld) := by
  unfold State.grantHeld
  with_reducible repeat' first
    | exact .refl _ _ | assumption | refine (grantOp_touch ..).step ?_ | refine .foldl _ ?_ fun _ _ _ => ?_ | split
    | refine .set ?_

theorem breakHearth_touch (s : State) (k : Nat) :
    Touch [klnGangReg.grain, shfGangReg.grain] s (s.breakHearth k) := by
  unfold State.breakHearth
  with_reducible repeat' first
    | exact .refl _ _ | assumption
    | (extract_lets +onlyGivenNames t; first | (refine Touch.cut t ?_ fun _ => ?_; subst t; rotate_left; clear_value t) | subst t)
    | refine (wr_touch ..).step ?_ | refine .foldl _ ?_ fun _ _ _ => ?_ | split

theorem breakBand_touch (s : State) (k row : Nat) :
    Touch [klnGangReg.grain, shfGangReg.grain] s (s.breakBand k row) := by
  unfold State.breakBand
  with_reducible repeat' first
    | exact .refl _ _ | assumption
    | (extract_lets +onlyGivenNames t; first | (refine Touch.cut t ?_ fun _ => ?_; subst t; rotate_left; clear_value t) | subst t)
    | refine (wr_touch ..).step ?_ | refine .foldl _ ?_ fun _ _ _ => ?_ | split

theorem breakJoin_touch (s : State) (k row : Nat) :
    Touch [klnGangReg.grain, shfGangReg.grain] s (s.breakJoin k row) := by
  unfold State.breakJoin
  with_reducible repeat' first
    | exact .refl _ _ | assumption
    | (extract_lets +onlyGivenNames t; first | (refine Touch.cut t ?_ fun _ => ?_; subst t; rotate_left; clear_value t) | subst t)
    | refine (breakBand_touch ..).step ?_ | refine (breakHearth_touch ..).step ?_ | split

theorem shelfGang_touch (s : State) (n quad whole joined : Nat) :
    Touch [shfGangReg.grain] s (s.shelfGang n quad whole joined) := by
  unfold State.shelfGang
  with_reducible repeat' first
    | exact .refl _ _ | assumption
    | (extract_lets +onlyGivenNames t; first | (refine Touch.cut t ?_ fun _ => ?_; subst t; rotate_left; clear_value t) | subst t)
    | refine (wr_touch ..).step ?_ | split

theorem formGang_touch (s : State) (w : Nat) :
    Touch [klnGangReg.grain, shfGangReg.grain] s (s.formGang w) := by
  unfold State.formGang
  with_reducible repeat' first
    | exact .refl _ _ | assumption
    | (extract_lets +onlyGivenNames t; first | (refine Touch.cut t ?_ fun _ => ?_; subst t; rotate_left; clear_value t) | subst t)
    | refine (wr_touch ..).step ?_ | refine (breakHearth_touch ..).step ?_ | refine (breakJoin_touch ..).step ?_
    | refine (shelfGang_touch ..).step ?_ | refine .foldl _ ?_ fun _ _ _ => ?_ | split

theorem load_touch (s : State) (w : Nat) (chain : List Pass) :
    Touch [.one .passes, .one .cells] s (s.load w chain) := by
  unfold State.load
  with_reducible repeat' first
    | exact .refl _ _ | assumption
    | (extract_lets +onlyGivenNames t; first | (refine Touch.cut t ?_ fun _ => ?_; subst t; rotate_left; clear_value t) | subst t)
    | refine (updCells_touch ..).step ?_ | split | refine .set ?_

theorem streams_touch (s : State) (f : Firing) (w : Nat) (chain : List Pass) :
    Touch [.one .fresh, .one .scratch, .one .passes, .one .cells, klnGangReg.grain, shfGangReg.grain] s (s.streams f
      w chain) := by
  unfold State.streams
  with_reducible repeat' first
    | exact .refl _ _ | assumption | refine (forgets_touch ..).step ?_ | refine (formGang_touch ..).step ?_
    | refine (load_touch ..).step ?_ | split

theorem chargeTile_touch (s : State) (op : Nat) (t : FailTile) :
    Touch [shfWitFailReg.grain, shfWitLastReg.grain, shfWitStatReg.grain, tileColmapReg.grain] s (s.chargeTile op t) := by
  unfold State.chargeTile
  with_reducible repeat' first
    | exact .refl _ _ | assumption
    | (extract_lets +onlyGivenNames t; first | (refine Touch.cut t ?_ fun _ => ?_; subst t; rotate_left; clear_value t) | subst t)
    | refine (wr_touch ..).step ?_ | refine (satAdd_touch ..).step ?_ | refine (setBit_touch ..).step ?_ | split

theorem countSkips_touch (s : State) (shares : List Nat) :
    Touch [shfWitSkipReg.grain, shfWitStatReg.grain] s (s.countSkips shares) := by
  unfold State.countSkips
  with_reducible repeat' first
    | exact .refl _ _ | assumption
    | (extract_lets +onlyGivenNames t; first | (refine Touch.cut t ?_ fun _ => ?_; subst t; rotate_left; clear_value t) | subst t)
    | refine (satAdd_touch ..).step ?_ | refine (setBit_touch ..).step ?_ | refine .foldl _ ?_ fun _ _ _ => ?_
    | split

theorem countRun_touch (s : State) (p : Pass) (i : PassIn) (a : PassAcc) :
    Touch [.one .fresh, shfFeedStallReg.grain, shfInfZeroReg.grain, shfIntSatReg.grain, shfWitSkipReg.grain,
      shfWitStatReg.grain] s (s.countRun p i a) := by
  unfold State.countRun
  with_reducible repeat' first
    | exact .refl _ _ | assumption
    | (extract_lets +onlyGivenNames t; first | (refine Touch.cut t ?_ fun _ => ?_; subst t; rotate_left; clear_value t) | subst t)
    | refine (countSkips_touch ..).step ?_ | refine (feedStall_touch ..).step ?_ | refine (shfAdds_touch ..).step ?_
    | split

theorem discard_touch (s : State) (f : Firing) (p : Pass) (failing : List FailTile) :
    Touch [.one .fresh, .one .tileMem, .one .scratch, .one .const, .one .stack, .one .hostMem, .one .passes, .one
      .engines, .one .waits, .one .graphs, .one .copies, .one .firings, .one .turns, .one .dampers, .one .buckets,
      .one .watermarks, .one .events, .one .vectors, .one .persistent, .one .repair, feGaugeReg.grain,
      feLadderReg.grain, feRuleReg.grain, feSqCfgReg.grain, grxGatherReg.grain, grxInstReg.grain,
      klnSpareMap0Reg.grain, klnSpareMap1Reg.grain, modGeomReg.grain, modSparesReg.grain, prsCopySelReg.grain,
      prsStatusReg.grain, .block .shf, tileColmapReg.grain] s (s.discard f p failing) := by
  unfold State.discard
  with_reducible repeat' first
    | exact .refl _ _ | assumption
    | (extract_lets +onlyGivenNames t; first | (refine Touch.cut t ?_ fun _ => ?_; subst t; rotate_left; clear_value t) | subst t)
    | refine (satAdd_touch ..).step ?_ | refine (chargeTile_touch ..).step ?_ | refine (forgets_touch ..).step ?_
    | refine (haltPasses_touch ..).step ?_ | refine (hardFault_touch ..).step ?_
    | refine .foldl _ ?_ fun _ _ _ => ?_ | split | refine .set ?_

theorem seal_touch (s : State) (p : Pass) (i : PassIn) (a : PassAcc) :
    Touch [.one .fresh, .one .scratch, .one .passes, .one .firings, shfPassCntReg.grain] s (s.seal p i a) := by
  unfold State.seal
  with_reducible repeat' first
    | exact .refl _ _ | assumption
    | (extract_lets +onlyGivenNames t; first | (refine Touch.cut t ?_ fun _ => ?_; subst t; rotate_left; clear_value t) | subst t)
    | refine (wrapAdd_touch ..).step ?_ | refine (updFiring_touch ..).step ?_
    | refine (writesSpace_touch ..).step ?_ | refine (writesSpace_any ..).step ?_
    | refine .foldl _ ?_ fun _ _ _ => ?_ | split | refine .set ?_

theorem drained_touch (s : State) (p : Pass) (a : PassAcc) :
    Touch [.one .cells] s (s.drained p a) := by
  unfold State.drained
  with_reducible repeat' first
    | exact .refl _ _ | assumption
    | (extract_lets +onlyGivenNames t; first | (refine Touch.cut t ?_ fun _ => ?_; subst t; rotate_left; clear_value t) | subst t)
    | refine (updCells_touch ..).step ?_ | split | refine .set ?_

theorem setSlot_touch (s : State) (q n w : Nat) :
    Touch [.one .slots] s (s.setSlot q n w) := by
  unfold State.setSlot
  with_reducible repeat' first
    | exact .refl _ _ | assumption | split | refine .set ?_

theorem slotReturn_touch (s : State) (q n st : Nat) :
    Touch [.one .slots, .one .boxes, .one .vectors, .one .frames] s (s.slotReturn q n st) := by
  unfold State.slotReturn
  with_reducible repeat' first
    | exact .refl _ _ | assumption
    | (extract_lets +onlyGivenNames t; first | (refine Touch.cut t ?_ fun _ => ?_; subst t; rotate_left; clear_value t) | subst t)
    | refine (reply_touch ..).step ?_ | refine (setSlot_touch ..).step ?_ | split | refine .set ?_

theorem wakeQueue_touch (s : State) (q : Nat) :
    Touch [.one .slots] s (s.wakeQueue q) := by
  unfold State.wakeQueue
  with_reducible repeat' first
    | exact .refl _ _ | assumption | split | refine .set ?_

theorem reserveFseq_touch (s : State) :
    Touch [.one .events, .one .vectors, .one .persistent, .one .repair, feFseqEndReg.grain, modSparesReg.grain,
      prsStatusReg.grain] s (s.reserveFseq) := by
  unfold State.reserveFseq
  with_reducible repeat' first
    | exact .refl _ _ | assumption | refine (persistKept_touch _ 0 _ (g := feFseqEndReg) rfl (by decide)).step ?_
    | split

theorem accept_touch (s : State) (q n w fslot : Nat) :
    Touch [.one .firings, .one .log, feFseqReg.grain] s (s.accept q n w fslot) := by
  unfold State.accept
  with_reducible repeat' first
    | exact .refl _ _ | assumption
    | (extract_lets +onlyGivenNames t; first | (refine Touch.cut t ?_ fun _ => ?_; subst t; rotate_left; clear_value t) | subst t)
    | refine (wrapAdd_touch ..).step ?_ | refine (logBegin_touch ..).step ?_ | split | refine .set ?_

theorem releaseDone_touch (s : State) :
    Touch [.one .firings, .one .turns] s (s.releaseDone) := by
  unfold State.releaseDone
  with_reducible repeat' first
    | exact .refl _ _ | assumption | refine (noteRelease_touch ..).step ?_ | refine (updFiring_touch ..).step ?_
    | refine .foldl _ ?_ fun _ _ _ => ?_ | split | refine .set ?_

theorem noteHolds_touch (s : State) :
    Touch [.one .firings] s (s.noteHolds) := by
  unfold State.noteHolds
  with_reducible repeat' first
    | exact .refl _ _ | assumption
    | (extract_lets +onlyGivenNames t; first | (refine Touch.cut t ?_ fun _ => ?_; subst t; rotate_left; clear_value t) | subst t)
    | refine (updFiring_touch ..).step ?_ | refine .foldl _ ?_ fun _ _ _ => ?_ | split | refine .set ?_

theorem startCopy_touch (s : State) (q : Nat) (sn : Snap) (r : Nat) :
    Touch [.one .fresh, .one .tileMem, .one .scratch, .one .const, .one .stack, .one .hostMem, .one .lines, .one
      .passes, .one .engines, .one .waits, .one .firings, .one .turns, .one .dampers, shfAbandonReg.grain,
      shfFeedStallReg.grain, shfInfZeroReg.grain, shfIntSatReg.grain, stkUeAddrReg.grain, stkUeReg.grain] s
      (s.startCopy q sn r) := by
  unfold State.startCopy
  with_reducible repeat' first
    | exact .refl _ _ | assumption
    | (extract_lets +onlyGivenNames t; first | (refine Touch.cut t ?_ fun _ => ?_; subst t; rotate_left; clear_value t) | subst t)
    | refine (readLines_touch (by assumption)).step ?_ | refine (forget_touch ..).step ?_
    | refine (forget_any ..).step ?_ | refine (readLines_touch ..).step ?_ | refine (store_touch ..).step ?_
    | refine (uncorrectable_touch ..).step ?_ | split | refine .set ?_

theorem startGreen_touch (s : State) (q no : Nat) (g : Graph) (sn : Snap) :
    Touch [.one .fresh, .one .tileMem, .one .scratch, .one .const, .one .stack, .one .hostMem, .one .lines, .one
      .passes, .one .engines, .one .waits, .one .firings, .one .turns, .one .dampers, shfAbandonReg.grain,
      shfFeedStallReg.grain, shfInfZeroReg.grain, shfIntSatReg.grain, stkUeAddrReg.grain, stkUeReg.grain] s
      (s.startGreen q no g sn) := by
  unfold State.startGreen
  with_reducible repeat' first
    | exact .refl _ _ | assumption
    | (extract_lets +onlyGivenNames t; first | (refine Touch.cut t ?_ fun _ => ?_; subst t; rotate_left; clear_value t) | subst t)
    | refine (forget_touch ..).step ?_ | refine (forget_any ..).step ?_ | refine (startCopy_touch ..).step ?_
    | refine .foldl _ ?_ fun _ _ _ => ?_ | split

theorem ringsOn_touch (s : State) (g : Graph) :
    Touch [dmaRingCtlReg.grain] s (s.ringsOn g) := by
  unfold State.ringsOn
  with_reducible repeat' first
    | exact .refl _ _ | assumption | refine (wr_touch ..).step ?_ | refine .foldl _ ?_ fun _ _ _ => ?_ | split

theorem attempt_touch (s : State) (f : Firing) (g : Graph) (sn : Snap) :
    Touch [.one .fresh, .one .tileMem, .one .scratch, .one .const, .one .stack, .one .hostMem, .one .lines, .one
      .passes, .one .engines, .one .waits, .one .barriers, .one .opened, .one .firings, .one .turns, .one .dampers,
      dmaRingCtlReg.grain, fluSigValueReg.grain, shfAbandonReg.grain, shfFeedStallReg.grain, shfInfZeroReg.grain,
      shfIntSatReg.grain, stkUeAddrReg.grain, stkUeReg.grain] s (s.attempt f g sn) := by
  unfold State.attempt
  with_reducible repeat' first
    | exact .refl _ _ | assumption
    | (extract_lets +onlyGivenNames t; first | (refine Touch.cut t ?_ fun _ => ?_; subst t; rotate_left; clear_value t) | subst t)
    | refine (ringsOn_touch ..).step ?_ | refine (startGreen_touch ..).step ?_ | refine (startSync_touch ..).step ?_
    | refine (updFiring_touch ..).step ?_ | split | refine .set ?_

theorem setGauge_touch (s : State) (n : Nat) (g : Gauge) :
    Touch [feGaugeReg.grain] s (s.setGauge n g) := by
  unfold State.setGauge
  with_reducible repeat' first
    | exact .refl _ _ | assumption | refine (wr_touch ..).step ?_ | split

theorem mergeGauges_touch (s : State) (t : Tab Gauge) :
    Touch [feGaugeReg.grain] s (s.mergeGauges t) := by
  unfold State.mergeGauges
  with_reducible repeat' first
    | exact .refl _ _ | assumption | refine (setGauge_touch ..).step ?_ | refine .foldl _ ?_ fun _ _ _ => ?_ | split

theorem resetAll_touch (s : State) (r : Reg) : Touch [r.grain] s (s.resetAll r) := by
  refine .regs (regsCanon_filter _) fun n hn => ?_
  simp only [covered, List.any_cons, List.any_nil, Bool.or_false, Reg.grain, Grain.covers, decide_eq_false_iff_not] at hn
  rw [List.filter_filter]
  refine List.filter_congr fun p _ => ?_
  by_cases e : keyReg p.1 = n
  · have : n ≠ regNo r.block r.off := fun q => hn (by rw [q])
    simp [e, this]
  · simp [e]

theorem evaluate_touch (s : State) (merged : Tab Gauge) :
    Touch [feGaugeReg.grain, feLadderCtlReg.grain, feLadderReg.grain, feLadderStatReg.grain] s (s.evaluate merged) := by
  unfold State.evaluate
  with_reducible repeat' first
    | exact .refl _ _ | assumption
    | (extract_lets +onlyGivenNames t; first | (refine Touch.cut t ?_ fun _ => ?_; subst t; rotate_left; clear_value t) | subst t)
    | refine (wr_touch ..).step ?_ | refine (wrapAdd_touch ..).step ?_ | refine (setBit_touch ..).step ?_
    | refine (resetAll_touch ..).step ?_ | refine (setRegWord_touch ..).step ?_ | refine .foldl _ ?_ fun _ _ _ => ?_
    | split

theorem initSlot_touch (s : State) (n : Nat) :
    Touch [feLadderReg.grain] s (s.initSlot n) := by
  unfold State.initSlot
  with_reducible repeat' first
    | exact .refl _ _ | assumption
    | (extract_lets +onlyGivenNames t; first | (refine Touch.cut t ?_ fun _ => ?_; subst t; rotate_left; clear_value t) | subst t)
    | refine (setRegWord_touch ..).step ?_ | split

theorem sendJoins_touch (s : State) (f : Firing) (g : Graph) (e : Nat) :
    Touch [.one .fresh, .one .tileMem, .one .scratch, .one .const, .one .stack, .one .hostMem, .one .lines, .one
      .passes, .one .engines, .one .waits, .one .firings, .one .turns, .one .dampers, .one .ports, .one .flows, .one
      .sent, .one .inbox, dmpReqStatReg.grain, dmpStatusReg.grain, fabHoldReg.grain, fabPortCntReg.grain,
      fabStatusReg.grain, shfAbandonReg.grain, shfFeedStallReg.grain, shfInfZeroReg.grain, shfIntSatReg.grain,
      stkUeAddrReg.grain, stkUeReg.grain] s (s.sendJoins f g e) := by
  unfold State.sendJoins
  with_reducible repeat' first
    | exact .refl _ _ | assumption
    | (extract_lets +onlyGivenNames t; first | (refine Touch.cut t ?_ fun _ => ?_; subst t; rotate_left; clear_value t) | (refine Touch.cut t.1 ?_ fun _ => ?_; subst t; rotate_left; clear_value t) | (refine Touch.cut t.2 ?_ fun _ => ?_; subst t; rotate_left; clear_value t) | subst t)
    | refine (sendSeq_touch ..).step ?_ | refine (store_touch ..).step ?_ | refine (updFiring_touch ..).step ?_
    | refine .foldl _ ?_ fun _ _ _ => ?_ | refine .foldlOn Prod.fst _ ?_ fun _ _ _ => ?_ | split | refine .set ?_

theorem beginCommit_touch (s : State) (f : Firing) :
    Touch [.one .firings, .one .log, .one .ledger, .one .turns] s (s.beginCommit f) := by
  unfold State.beginCommit
  with_reducible repeat' first
    | exact .refl _ _ | assumption
    | (extract_lets +onlyGivenNames t; first | (refine Touch.cut t ?_ fun _ => ?_; subst t; rotate_left; clear_value t) | subst t)
    | refine (logBegin_touch ..).step ?_ | refine (noteRelease_touch ..).step ?_
    | refine (updFiring_touch ..).step ?_ | split | refine .set ?_

theorem meterEnd_touch (s : State) (f : Firing) (code : Nat) :
    Touch [.one .meter] s (s.meterEnd f code) := by
  unfold State.meterEnd
  with_reducible repeat' first
    | exact .refl _ _ | assumption
    | (extract_lets +onlyGivenNames t; first | (refine Touch.cut t ?_ fun _ => ?_; subst t; rotate_left; clear_value t) | subst t)
    | split | refine .set ?_

theorem flip_touch (s : State) (f : Firing) (g : Graph) :
    Touch [.one .copies, feGaugeReg.grain, feLadderCtlReg.grain, feLadderReg.grain, feLadderStatReg.grain] s (s.flip
      f g) := by
  unfold State.flip
  with_reducible repeat' first
    | exact .refl _ _ | assumption
    | (extract_lets +onlyGivenNames t; first | (refine Touch.cut t ?_ fun _ => ?_; subst t; rotate_left; clear_value t) | subst t)
    | refine (evaluate_touch ..).step ?_ | refine (mergeGauges_touch ..).step ?_
    | refine .foldl _ ?_ fun _ _ _ => ?_ | split | refine .set ?_

theorem clearExchange_touch (s : State) (f : Firing) :
    Touch [.one .stack, .one .lines, .one .watermarks, grxGatherReg.grain, grxInstReg.grain, stkUeAddrReg.grain,
      stkUeReg.grain] s (s.clearExchange f) := by
  unfold State.clearExchange
  with_reducible repeat' first
    | exact .refl _ _ | assumption
    | (extract_lets +onlyGivenNames t; first | (refine Touch.cut t ?_ fun _ => ?_; subst t; rotate_left; clear_value t) | subst t)
    | refine (clearCopy_touch ..).step ?_ | refine (clearInst_touch ..).step ?_ | refine .foldl _ ?_ fun _ _ _ => ?_
    | split

theorem retireFlow_touch (s : State) (q dst o : Nat) (action : Bool) :
    Touch [.one .fresh, .one .tileMem, .one .scratch, .one .const, .one .stack, .one .hostMem, .one .passes, .one
      .engines, .one .waits, .one .records, .one .firings, .one .turns, .one .dampers, .one .ports, .one .flows,
      .one .sent, .one .inbox, dmpReqStatReg.grain, dmpStatusReg.grain, fabHoldReg.grain, fabPortCntReg.grain,
      fabStatusReg.grain, shfAbandonReg.grain, shfFeedStallReg.grain, shfInfZeroReg.grain, shfIntSatReg.grain] s
      (s.retireFlow q dst o action) := by
  unfold State.retireFlow
  with_reducible repeat' first
    | exact .refl _ _ | assumption
    | (extract_lets +onlyGivenNames t; first | (refine Touch.cut t ?_ fun _ => ?_; subst t; rotate_left; clear_value t) | subst t)
    | refine (retireKey_touch ..).step ?_ | refine (sendAgain_touch ..).step ?_ | refine (sendSeq_touch ..).step ?_
    | split

theorem perform_touch (s : State) (a : Action) :
    Touch [.one .fresh, .one .tileMem, .one .scratch, .one .const, .one .stack, .one .hostMem, .one .passes, .one
      .engines, .one .waits, .one .records, .one .opened, .one .firings, .one .actions, .one .turns, .one .dampers,
      .one .ports, .one .flows, .one .sent, .one .inbox, .one .events, .one .vectors, dmpReqStatReg.grain,
      dmpStatusReg.grain, fabHoldReg.grain, fabPortCntReg.grain, fabStatusReg.grain, fluNearTimeoutReg.grain,
      fluRecordUseReg.grain, fluSigValueReg.grain, fluStatusReg.grain, shfAbandonReg.grain, shfFeedStallReg.grain,
      shfInfZeroReg.grain, shfIntSatReg.grain] s (s.perform a) := by
  unfold State.perform
  with_reducible repeat' first
    | exact .refl _ _ | assumption
    | (extract_lets +onlyGivenNames t; first | (refine Touch.cut t ?_ fun _ => ?_; subst t; rotate_left; clear_value t) | (refine Touch.cut t.1 ?_ fun _ => ?_; subst t; rotate_left; clear_value t) | (refine Touch.cut t.2 ?_ fun _ => ?_; subst t; rotate_left; clear_value t) | subst t)
    | refine (hostGrant_touch ..).step ?_ | refine (incKeyed_touch ..).step ?_ | refine (post_touch ..).step ?_
    | refine (sendSeq_touch ..).step ?_ | refine (writeSpace_touch ..).step ?_ | refine (writeSpace_any ..).step ?_
    | split | refine .set ?_

theorem finish_touch (s : State) (f : Firing) (rec_ : LogRec) (outcome : Nat) :
    Touch [.one .fresh, .one .tileMem, .one .scratch, .one .const, .one .stack, .one .hostMem, .one .passes, .one
      .engines, .one .waits, .one .records, .one .barriers, .one .opened, .one .firings, .one .ledger, .one
      .actions, .one .turns, .one .dampers, .one .ports, .one .flows, .one .sent, .one .inbox, .one .events, .one
      .vectors, dmpReqStatReg.grain, dmpStatusReg.grain, fabHoldReg.grain, fabPortCntReg.grain, fabStatusReg.grain,
      fluNearTimeoutReg.grain, fluRecordUseReg.grain, fluSigValueReg.grain, fluStatusReg.grain, shfAbandonReg.grain,
      shfFeedStallReg.grain, shfInfZeroReg.grain, shfIntSatReg.grain] s (s.finish f rec_ outcome) := by
  unfold State.finish
  with_reducible repeat' first
    | exact .refl _ _ | assumption
    | (extract_lets +onlyGivenNames t; first | (refine Touch.cut t ?_ fun _ => ?_; subst t; rotate_left; clear_value t) | (refine Touch.cut t.1 ?_ fun _ => ?_; subst t; rotate_left; clear_value t) | (refine Touch.cut t.2 ?_ fun _ => ?_; subst t; rotate_left; clear_value t) | subst t)
    | refine (freeBars_touch ..).step ?_ | refine (perform_touch ..).step ?_ | refine (retireFlow_touch ..).step ?_
    | refine .foldl _ ?_ fun _ _ _ => ?_ | split | refine .set ?_

theorem endAbandoned_touch (s : State) (f : Firing) :
    Touch [.one .fresh, .one .tileMem, .one .scratch, .one .const, .one .stack, .one .hostMem, .one .passes, .one
      .engines, .one .waits, .one .records, .one .barriers, .one .opened, .one .firings, .one .log, .one .ledger,
      .one .actions, .one .turns, .one .dampers, .one .ports, .one .flows, .one .sent, .one .inbox, .one .events,
      .one .vectors, .one .meter, dmpReqStatReg.grain, dmpStatusReg.grain, fabHoldReg.grain, fabPortCntReg.grain,
      fabStatusReg.grain, fluNearTimeoutReg.grain, fluRecordUseReg.grain, fluSigValueReg.grain, fluStatusReg.grain,
      shfAbandonReg.grain, shfFeedStallReg.grain, shfInfZeroReg.grain, shfIntSatReg.grain] s (s.endAbandoned f) := by
  unfold State.endAbandoned
  with_reducible repeat' first
    | exact .refl _ _ | assumption
    | (extract_lets +onlyGivenNames t; first | (refine Touch.cut t ?_ fun _ => ?_; subst t; rotate_left; clear_value t) | subst t)
    | refine (finish_touch ..).step ?_ | refine (logNow_touch ..).step ?_ | refine (meterEnd_touch ..).step ?_
    | split | refine .set ?_

theorem cursor_touch (s : State) :
    Touch [.one .log] s (s.cursor) := by
  unfold State.cursor
  with_reducible repeat' first
    | exact .refl _ _ | assumption
    | (extract_lets +onlyGivenNames t; first | (refine Touch.cut t ?_ fun _ => ?_; subst t; rotate_left; clear_value t) | subst t)
    | refine (logNow_touch ..).step ?_ | split | refine .set ?_

theorem fillLedger_touch (s : State) :
    Touch [.one .ledger] s (s.fillLedger) := by
  unfold State.fillLedger
  with_reducible repeat' first
    | exact .refl _ _ | assumption
    | (extract_lets +onlyGivenNames t; first | (refine Touch.cut t ?_ fun _ => ?_; subst t; rotate_left; clear_value t) | subst t)
    | split | refine .set ?_

theorem restoreSpace_touch (s : State) (claim sp : Nat) (saved : Memory) :
    Touch [spaceGrain sp] s (s.restoreSpace claim sp saved) :=
  .foldl _ (.refl _ _) fun _ _ h => h.trans (setSpaceMem_touch _ _ _ (mrestore_wf _ _ _))

theorem switchOut_touch (s : State) (f : Firing) :
    Touch [.one .fresh, .one .tileMem, .one .scratch, .one .const, .one .stack, .one .hostMem, .one .passes, .one
      .engines, .one .waits, .one .barriers, .one .opened, .one .firings, .one .turns, .one .dampers,
      fluNearTimeoutReg.grain, fluSigValueReg.grain, fluStatusReg.grain, shfAbandonReg.grain, shfFeedStallReg.grain,
      shfInfZeroReg.grain, shfIntSatReg.grain] s (s.switchOut f) := by
  unfold State.switchOut
  with_reducible repeat' first
    | exact .refl _ _ | assumption
    | (extract_lets +onlyGivenNames t; first | (refine Touch.cut t ?_ fun _ => ?_; subst t; rotate_left; clear_value t) | (refine Touch.cut t.1 ?_ fun _ => ?_; subst t; rotate_left; clear_value t) | (refine Touch.cut t.2 ?_ fun _ => ?_; subst t; rotate_left; clear_value t) | subst t)
    | refine (closeCycle_touch ..).step ?_ | refine (dropDescs_touch ..).step ?_ | refine (forget_touch ..).step ?_
    | refine (forget_any ..).step ?_ | refine (noteRelease_touch ..).step ?_ | refine (updFiring_touch ..).step ?_
    | refine .foldl _ ?_ fun _ _ _ => ?_ | split | refine .set ?_

theorem arriveAgain_touch (s : State) (p : Nat × List Nat) :
    Touch [.one .fresh, .one .tileMem, .one .scratch, .one .const, .one .stack, .one .hostMem, .one .passes, .one
      .engines, .one .waits, .one .barriers, .one .opened, .one .sitterSync, .one .firings, .one .turns, .one
      .dampers, .one .boxes, .one .vectors, .one .frames, fluBarRestartReg.grain, fluNearTimeoutReg.grain,
      fluSigValueReg.grain, fluStatusReg.grain, shfAbandonReg.grain, shfFeedStallReg.grain, shfInfZeroReg.grain,
      shfIntSatReg.grain] s (s.arriveAgain p) := by
  unfold State.arriveAgain
  with_reducible repeat' first
    | exact .refl _ _ | assumption
    | (extract_lets +onlyGivenNames t; first | (refine Touch.cut t ?_ fun _ => ?_; subst t; rotate_left; clear_value t) | (refine Touch.cut t.1 ?_ fun _ => ?_; subst t; rotate_left; clear_value t) | (refine Touch.cut t.2 ?_ fun _ => ?_; subst t; rotate_left; clear_value t) | subst t)
    | refine (satAdd_touch ..).step ?_ | refine (setBar_touch ..).step ?_ | refine (settle_touch ..).step ?_
    | refine .foldl _ ?_ fun _ _ _ => ?_ | split

theorem switchIn_touch (s : State) (f : Firing) (c : Context) :
    Touch [.one .fresh, .one .tileMem, .one .scratch, .one .const, .one .stack, .one .hostMem, .one .passes, .one
      .engines, .one .waits, .one .barriers, .one .opened, .one .sitterSync, .one .firings, .one .turns, .one
      .dampers, .one .boxes, .one .vectors, .one .frames, fluBarRestartReg.grain, fluNearTimeoutReg.grain,
      fluSigValueReg.grain, fluStatusReg.grain, shfAbandonReg.grain, shfFeedStallReg.grain, shfInfZeroReg.grain,
      shfIntSatReg.grain] s (s.switchIn f c) := by
  unfold State.switchIn
  with_reducible repeat' first
    | exact .refl _ _ | assumption
    | (extract_lets +onlyGivenNames t; first | (refine Touch.cut t ?_ fun _ => ?_; subst t; rotate_left; clear_value t) | (refine Touch.cut t.1 ?_ fun _ => ?_; subst t; rotate_left; clear_value t) | (refine Touch.cut t.2 ?_ fun _ => ?_; subst t; rotate_left; clear_value t) | subst t)
    | refine (wr_touch ..).step ?_ | refine (arriveAgain_touch ..).step ?_ | refine (register_touch ..).step ?_
    | refine (restoreSpace_touch ..).step ?_ | refine (setEngine_touch ..).step ?_
    | refine (updFiring_touch ..).step ?_ | refine .foldl _ ?_ fun _ _ _ => ?_ | split | refine .set ?_

theorem useRules_touch (s : State) (g : Graph) (keep : List Nat) :
    Touch [feGaugeReg.grain, feLadderReg.grain, feRuleReg.grain] s (s.useRules g keep) := by
  unfold State.useRules
  with_reducible repeat' first
    | exact .refl _ _ | assumption
    | (extract_lets +onlyGivenNames t; first | (refine Touch.cut t ?_ fun _ => ?_; subst t; rotate_left; clear_value t) | subst t)
    | refine (resetReg_touch ..).step ?_ | refine (initSlot_touch ..).step ?_ | refine (setRegWord_touch ..).step ?_
    | refine .foldl _ ?_ fun _ _ _ => ?_ | split

theorem takeBuckets_touch (s : State) (no : Nat) (g : Graph) :
    Touch [.one .stack, .one .lines, .one .buckets, .one .watermarks, grxGatherReg.grain, grxInstReg.grain,
      stkUeAddrReg.grain, stkUeReg.grain] s (s.takeBuckets no g) := by
  unfold State.takeBuckets
  with_reducible repeat' first
    | exact .refl _ _ | assumption
    | (extract_lets +onlyGivenNames t; first | (refine Touch.cut t ?_ fun _ => ?_; subst t; rotate_left; clear_value t) | (refine Touch.cut t.1 ?_ fun _ => ?_; subst t; rotate_left; clear_value t) | (refine Touch.cut t.2 ?_ fun _ => ?_; subst t; rotate_left; clear_value t) | subst t)
    | refine (clearCopy_touch ..).step ?_ | refine (clearInst_touch ..).step ?_ | refine .foldl _ ?_ fun _ _ _ => ?_
    | split | refine .set ?_

theorem install_touch (s : State) (no : Nat) (g : Graph) (image : Bytes) :
    Touch [.one .fresh, .one .stack, .one .lines, .one .graphs, .one .copies, .one .dampers, .one .buckets, .one
      .watermarks, .one .pieces, feGaugeReg.grain, feLadderReg.grain, feRuleReg.grain, feSqCfgReg.grain,
      grxGatherReg.grain, grxInstReg.grain, stkUeAddrReg.grain, stkUeReg.grain] s (s.install no g image) := by
  unfold State.install
  with_reducible repeat' first
    | exact .refl _ _ | assumption
    | (extract_lets +onlyGivenNames t; first | (refine Touch.cut t ?_ fun _ => ?_; subst t; rotate_left; clear_value t) | subst t)
    | refine (leaveGraph_touch ..).step ?_ | refine (sitterMoves_touch ..).step ?_ | refine (store_touch ..).step ?_
    | refine (takeBuckets_touch ..).step ?_ | refine (useRules_touch ..).step ?_ | split | refine .set ?_

end Sys2Proof.Machine
end

