-- ==== Sys2Proof/Laws/TouchPorts.lean ====
section
/-! SUPPORT. Laws/TouchPorts.lean: what the operations of the stacks, the wheel, the dampers, the ports and the Sitter touch. -/

namespace Sys2Proof.Machine

set_option Elab.async false

theorem lineFound_touch (s : State) (line : Nat) (found : LineState) :
    Touch [.one .fresh, .one .tileMem, .one .scratch, .one .const, .one .stack, .one .hostMem, .one .lines, .one
      .passes, .one .engines, .one .waits, .one .firings, .one .turns, .one .dampers, shfAbandonReg.grain,
      shfFeedStallReg.grain, shfInfZeroReg.grain, shfIntSatReg.grain, stkCeCntReg.grain, stkUeAddrReg.grain,
      stkUeReg.grain] s (s.lineFound line found) := by
  unfold State.lineFound
  with_reducible repeat' first
    | exact .refl _ _ | assumption | refine (satAdd_touch ..).step ?_ | refine (uncorrectable_touch ..).step ?_
    | split | refine .set ?_

theorem lineRead_touch (s : State) (line : Nat) (q : Option Nat) :
    Touch [.one .fresh, .one .tileMem, .one .scratch, .one .const, .one .stack, .one .hostMem, .one .lines, .one
      .passes, .one .engines, .one .waits, .one .firings, .one .turns, .one .dampers, shfAbandonReg.grain,
      shfFeedStallReg.grain, shfInfZeroReg.grain, shfIntSatReg.grain, stkUeAddrReg.grain, stkUeReg.grain] s
      (s.lineRead line q) := by
  unfold State.lineRead
  with_reducible repeat' first
    | exact .refl _ _ | assumption | refine (lineRebuilt_touch ..).step ?_ | refine (uncorrectable_touch ..).step ?_
    | split

theorem loseStack_touch (s : State) (n : Nat) :
    Touch [.one .fresh, .one .power, .one .tileMem, .one .scratch, .one .const, .one .stack, .one .hostMem, .one
      .passes, .one .engines, .one .waits, .one .dampers, .one .events, .one .vectors, .one .persistent, .one
      .repair, .one .phase, modGeomReg.grain, modSparesReg.grain, prsCopySelReg.grain, prsStatusReg.grain,
      shfAbandonReg.grain, shfFeedStallReg.grain, shfInfZeroReg.grain, shfIntSatReg.grain] s (s.loseStack n) := by
  unfold State.loseStack
  with_reducible repeat' first
    | exact .refl _ _ | assumption
    | (extract_lets +onlyGivenNames t; first | (refine Touch.cut t ?_ fun _ => ?_; subst t; rotate_left; clear_value t) | subst t)
    | refine (wr_touch ..).step ?_ | refine (commitRepair_touch ..).step ?_ | refine (moduleFault_touch ..).step ?_
    | refine (post_touch ..).step ?_ | split | refine .set ?_

theorem channelOut_touch (s : State) (n c : Nat) :
    Touch [.one .events, .one .vectors, .one .persistent, .one .repair, modSparesReg.grain, prsCopySelReg.grain,
      prsStatusReg.grain, stkStatusReg.grain] s (s.channelOut n c) := by
  unfold State.channelOut
  with_reducible repeat' first
    | exact .refl _ _ | assumption
    | (extract_lets +onlyGivenNames t; first | (refine Touch.cut t ?_ fun _ => ?_; subst t; rotate_left; clear_value t) | subst t)
    | refine (wr_touch ..).step ?_ | refine (commitRepair_touch ..).step ?_ | refine (exhaust_touch ..).step ?_
    | refine (repEvent_touch ..).step ?_ | split | refine .set ?_

theorem noParity_touch (s : State) (n : Nat) :
    Touch [.one .lines, stkStatusReg.grain] s (s.noParity n) := by
  unfold State.noParity
  with_reducible repeat' first
    | exact .refl _ _ | assumption
    | (extract_lets +onlyGivenNames t; first | (refine Touch.cut t ?_ fun _ => ?_; subst t; rotate_left; clear_value t) | subst t)
    | refine (wr_touch ..).step ?_ | split | refine .set ?_

theorem failChannel_touch (s : State) (n c : Nat) (outstanding : List Nat) :
    Touch [.one .fresh, .one .power, .one .tileMem, .one .scratch, .one .const, .one .stack, .one .hostMem, .one
      .lines, .one .passes, .one .engines, .one .waits, .one .firings, .one .turns, .one .dampers, .one .events,
      .one .vectors, .one .persistent, .one .repair, .one .phase, modGeomReg.grain, modSparesReg.grain,
      prsCopySelReg.grain, prsStatusReg.grain, shfAbandonReg.grain, shfFeedStallReg.grain, shfInfZeroReg.grain,
      shfIntSatReg.grain, stkStatusReg.grain] s (s.failChannel n c outstanding) := by
  unfold State.failChannel
  with_reducible repeat' first
    | exact .refl _ _ | assumption
    | (extract_lets +onlyGivenNames t; first | (refine Touch.cut t ?_ fun _ => ?_; subst t; rotate_left; clear_value t) | subst t)
    | refine (wr_touch ..).step ?_ | refine (channelOut_touch ..).step ?_ | refine (fault_touch ..).step ?_
    | refine (loseStack_touch ..).step ?_ | refine (noParity_touch ..).step ?_ | refine .foldl _ ?_ fun _ _ _ => ?_
    | split | refine .set ?_

theorem rebuildTo_touch (s : State) (n c k : Nat) :
    Touch [.one .lines] s (s.rebuildTo n c k) := by
  unfold State.rebuildTo
  with_reducible repeat' first
    | exact .refl _ _ | assumption
    | (extract_lets +onlyGivenNames t; first | (refine Touch.cut t ?_ fun _ => ?_; subst t; rotate_left; clear_value t) | subst t)
    | split | refine .set ?_

theorem rebuildOn_touch (s : State) :
    Touch [.one .fresh, .one .lines] s (s.rebuildOn) := by
  unfold State.rebuildOn
  with_reducible repeat' first
    | exact .refl _ _ | assumption
    | (extract_lets +onlyGivenNames t; first | (refine Touch.cut t ?_ fun _ => ?_; subst t; rotate_left; clear_value t) | subst t)
    | refine (rebuildTo_touch ..).step ?_ | refine .foldl _ ?_ fun _ _ _ => ?_ | split | refine .set ?_

theorem setUnsync_touch (s : State) :
    Touch [.one .wheel, whlStatusReg.grain] s (s.setUnsync) := by
  unfold State.setUnsync
  with_reducible repeat' first
    | exact .refl _ _ | assumption
    | (extract_lets +onlyGivenNames t; first | (refine Touch.cut t ?_ fun _ => ?_; subst t; rotate_left; clear_value t) | subst t)
    | refine (wr_touch ..).step ?_ | refine (setBit_touch ..).step ?_ | split | refine .set ?_

theorem clearUnsync_touch (s : State) :
    Touch [whlErrReg.grain, whlStatusReg.grain] s (s.clearUnsync) := by
  unfold State.clearUnsync
  with_reducible repeat' first
    | exact .refl _ _ | assumption | refine (wr_touch ..).step ?_ | split

theorem settleSync_touch (s : State) :
    Touch [whlErrReg.grain, whlStatusReg.grain] s (s.settleSync) := by
  unfold State.settleSync
  with_reducible repeat' first
    | exact .refl _ _ | assumption | refine (clearUnsync_touch ..).step ?_ | split

theorem measure_touch (s : State) (e : Int) :
    Touch [.one .fresh, whlErrReg.grain] s (s.measure e) := by
  unfold State.measure
  with_reducible repeat' first
    | exact .refl _ _ | assumption
    | (extract_lets +onlyGivenNames t; first | (refine Touch.cut t ?_ fun _ => ?_; subst t; rotate_left; clear_value t) | subst t)
    | refine (wr_touch ..).step ?_ | split | refine .set ?_

theorem judge_touch (s : State) (e : Int) :
    Touch [.one .wheel, whlStatusReg.grain] s (s.judge e) := by
  unfold State.judge
  with_reducible repeat' first
    | exact .refl _ _ | assumption | refine (setUnsync_touch ..).step ?_ | split | refine .set ?_

theorem changeOver_touch (s : State) :
    Touch [.one .wheel, modCradleReg.grain, whlStatusReg.grain] s (s.changeOver) := by
  unfold State.changeOver
  with_reducible repeat' first
    | exact .refl _ _ | assumption
    | (extract_lets +onlyGivenNames t; first | (refine Touch.cut t ?_ fun _ => ?_; subst t; rotate_left; clear_value t) | subst t)
    | refine (wr_touch ..).step ?_ | refine (satAdd_touch ..).step ?_ | split | refine .set ?_

theorem setSteps_touch (s : State) (l : List (Nat × Nat × Nat)) (h : s.wheel.steps.length ≤ 16 → l.length ≤ 16) :
    Touch [.one .wheel, whlStatusReg.grain] s (s.setSteps l) :=
  (wr_touch ..).step (.set (.refl _ _) (b1 := h))

theorem takeSteps_touch (s : State) :
    Touch [.one .wheel, modClkStepReg.grain, whlStatusReg.grain] s (s.takeSteps) := by
  have le : ∀ t : State, t.wheel = s.wheel → t.wheel.steps.length ≤ 16 →
      (s.wheel.steps.filter fun p => !s.stepDue p).length ≤ 16 := fun t e h => by
    rw [e] at h
    exact Nat.le_trans (List.length_filter_le ..) h
  unfold State.takeSteps
  dsimp only
  cases (s.wheel.steps.filter s.stepDue).foldl laterStep none with
  | none => exact Touch.step (setSteps_touch _ _ (le s rfl)) (.refl _ _)
  | some p => exact Touch.step (setSteps_touch _ _ (le (s.wr modClkStepCapStep 0 p.1) rfl)) ((wr_touch ..).step (.refl _ _))

theorem nextTurn_touch (s : State) :
    Touch [.one .wheel, whlPosReg.grain, whlTurnLenReg.grain, whlTurnStartReg.grain] s (s.nextTurn) := by
  unfold State.nextTurn
  with_reducible repeat' first
    | exact .refl _ _ | assumption
    | (extract_lets +onlyGivenNames t; first | (refine Touch.cut t ?_ fun _ => ?_; subst t; rotate_left; clear_value t) | subst t)
    | refine (wr_touch ..).step ?_ | refine (wrapAdd_touch ..).step ?_ | split | refine .set ?_

theorem retryPackets_touch (s : State) :
    Touch [.one .fresh, .one .tileMem, .one .scratch, .one .const, .one .stack, .one .hostMem, .one .passes, .one
      .engines, .one .waits, .one .firings, .one .turns, .one .dampers, .one .ports, .one .flows, .one .sent, .one
      .inbox, dmpReqStatReg.grain, dmpStatusReg.grain, fabHoldReg.grain, fabPortCntReg.grain, fabStatusReg.grain,
      shfAbandonReg.grain, shfFeedStallReg.grain, shfInfZeroReg.grain, shfIntSatReg.grain] s (s.retryPackets) := by
  unfold State.retryPackets
  with_reducible repeat' first
    | exact .refl _ _ | assumption
    | (extract_lets +onlyGivenNames t; first | (refine Touch.cut t ?_ fun _ => ?_; subst t; rotate_left; clear_value t) | (refine Touch.cut t.1 ?_ fun _ => ?_; subst t; rotate_left; clear_value t) | (refine Touch.cut t.2 ?_ fun _ => ?_; subst t; rotate_left; clear_value t) | subst t)
    | refine (sendAgain_touch ..).step ?_ | refine (sendSeq_touch ..).step ?_ | refine .foldl _ ?_ fun _ _ _ => ?_
    | split | refine .set ?_

theorem restTurn_touch (s : State) :
    Touch [.one .phase] s (s.restTurn) := by
  unfold State.restTurn
  with_reducible repeat' first
    | exact .refl _ _ | assumption
    | (extract_lets +onlyGivenNames t; first | (refine Touch.cut t ?_ fun _ => ?_; subst t; rotate_left; clear_value t) | subst t)
    | split | refine .set ?_

theorem loseCopy_touch (s : State) (copy : Nat) (turnSignal : Bool) :
    Touch [.one .wheel, whlStatusReg.grain] s (s.loseCopy copy turnSignal) := by
  unfold State.loseCopy
  with_reducible repeat' first
    | exact .refl _ _ | assumption
    | (extract_lets +onlyGivenNames t; first | (refine Touch.cut t ?_ fun _ => ?_; subst t; rotate_left; clear_value t) | subst t)
    | refine (setUnsync_touch ..).step ?_ | split | refine .set ?_

theorem sendMark_touch (s : State) (m : Mark) (except : Option Nat) :
    Touch [.one .wheel] s (s.sendMark m except) := by
  unfold State.sendMark
  with_reducible repeat' first
    | exact .refl _ _ | assumption
    | (extract_lets +onlyGivenNames t; first | (refine Touch.cut t ?_ fun _ => ?_; subst t; rotate_left; clear_value t) | subst t)
    | split | refine .set ?_

theorem takeLength_touch (s : State) (m : Mark) :
    Touch [.one .wheel, whlTurnLenReg.grain] s (s.takeLength m) := by
  unfold State.takeLength
  with_reducible repeat' first
    | exact .refl _ _ | assumption
    | (extract_lets +onlyGivenNames t; first | (refine Touch.cut t ?_ fun _ => ?_; subst t; rotate_left; clear_value t) | subst t)
    | refine (wr_touch ..).step ?_ | split | refine .set ?_

theorem takeMark_touch (s : State) (port : Nat) (m : Mark) :
    Touch [.one .fresh, .one .wheel, whlErrReg.grain, whlStatusReg.grain, whlTurnLenReg.grain] s (s.takeMark port m) := by
  unfold State.takeMark
  with_reducible repeat' first
    | exact .refl _ _ | assumption
    | (extract_lets +onlyGivenNames t; first | (refine Touch.cut t ?_ fun _ => ?_; subst t; rotate_left; clear_value t) | subst t)
    | refine (judge_touch ..).step ?_ | refine (measure_touch ..).step ?_ | refine (sendMark_touch ..).step ?_
    | refine (settleSync_touch ..).step ?_ | refine (takeLength_touch ..).step ?_ | split | refine .set ?_

theorem stepTo_touch (s : State) (loc : Nat) (m : Mark) :
    Touch [.one .waits, .one .wheel, .one .dampers, .one .repair, whlCountReg.grain, whlPosReg.grain,
      whlStatusReg.grain, whlTurnLenReg.grain, whlTurnStartReg.grain] s (s.stepTo loc m) := by
  unfold State.stepTo
  with_reducible repeat' first
    | exact .refl _ _ | assumption
    | (extract_lets +onlyGivenNames t; first | (refine Touch.cut t ?_ fun _ => ?_; subst t; rotate_left; clear_value t) | subst t)
    | refine (wr_touch ..).step ?_ | refine (setBit_touch ..).step ?_ | refine (hint_touch ..).step ?_
    | refine (repEvent_touch ..).step ?_ | split | refine .set ?_

theorem cutOff_touch (s : State) (d : Nat) (q : Waiting) (g : Nat) :
    Touch [.one .dampers, .one .ports, .one .sent, .one .events, .one .vectors, dmpCutReg.grain,
      dmpReqStatReg.grain, dmpStatusReg.grain] s (s.cutOff d q g) := by
  unfold State.cutOff
  with_reducible repeat' first
    | exact .refl _ _ | assumption
    | (extract_lets +onlyGivenNames t; first | (refine Touch.cut t ?_ fun _ => ?_; subst t; rotate_left; clear_value t) | subst t)
    | refine (wr_touch ..).step ?_ | refine (setBit_touch ..).step ?_ | refine (countStop_touch ..).step ?_
    | refine (post_touch ..).step ?_ | refine (reqSlot_touch ..).step ?_ | refine (setDamper_touch ..).step ?_
    | refine (showHeld_touch ..).step ?_ | refine (stopHolder_touch ..).step ?_ | split | refine .set ?_

theorem releaseReq_touch (s : State) (d r : Nat) :
    Touch [.one .dampers, dmpCutReg.grain, dmpReqStatReg.grain] s (s.releaseReq d r) := by
  unfold State.releaseReq
  with_reducible repeat' first
    | exact .refl _ _ | assumption
    | (extract_lets +onlyGivenNames t; first | (refine Touch.cut t ?_ fun _ => ?_; subst t; rotate_left; clear_value t) | subst t)
    | refine (setDamper_touch ..).step ?_ | refine (showHeld_touch ..).step ?_ | split | refine .set ?_

theorem idle_touch (s : State) :
    Touch [.one .fresh, .one .tileMem, .one .scratch, .one .const, .one .stack, .one .hostMem, .one .lines, .one
      .passes, .one .engines, .one .waits, .one .barriers, .one .opened, .one .sitterSync, .one .firings, .one
      .turns, .one .grants, .one .dampers, .one .boxes, .one .vectors, .one .frames, fluNearTimeoutReg.grain,
      fluSigValueReg.grain, fluStatusReg.grain, shfAbandonReg.grain, shfFeedStallReg.grain, shfInfZeroReg.grain,
      shfIntSatReg.grain, whlCountReg.grain] s (s.idle) := by
  unfold State.idle
  with_reducible repeat' first
    | exact .refl _ _ | assumption
    | (extract_lets +onlyGivenNames t; first | (refine Touch.cut t ?_ fun _ => ?_; subst t; rotate_left; clear_value t) | subst t)
    | refine (closeCycle_touch ..).step ?_ | refine (grantHeld_touch ..).step ?_
    | refine (raiseOwed_touch ..).step ?_ | refine (rebuildOn_touch ..).step ?_ | refine (sitterOn_touch ..).step ?_
    | refine (tick_touch ..).step ?_ | split

theorem boot_touch (s : State) :
    Touch [.one .events, .one .vectors, .one .firmware, secStateReg.grain] s (s.boot).1 := by
  unfold State.boot
  with_reducible repeat' first
    | exact .refl _ _ | assumption
    | (extract_lets +onlyGivenNames t; first | (refine Touch.cut t ?_ fun _ => ?_; subst t; rotate_left; clear_value t) | subst t)
    | refine (wr_touch ..).step ?_ | refine (post_touch ..).step ?_ | split | refine .set ?_

theorem rewriteCopy_touch (s : State) (k : Nat) :
    Touch [.one .keys, .one .tables, .one .repair] s (s.rewriteCopy k) := by
  unfold State.rewriteCopy
  dsimp only
  split
  · refine Touch.set (.refl _ _) (b5 := fun r h => mapsCanon_set _ h ?_)
    cases e : s.maps[s.rd prsCopySelRepair 0]? with
    | none => exact regsCanon_filter _ r
    | some m =>
      simp only [mapsCanon, List.all_eq_true] at h
      exact h m (List.mem_of_getElem? e)
  all_goals first | exact .set (.refl _ _) | exact .refl _ _

theorem trainH_touch (s : State) :
    Touch [pciHStatusReg.grain] s (s.trainH) := by
  unfold State.trainH
  with_reducible repeat' first
    | exact .refl _ _ | assumption
    | (extract_lets +onlyGivenNames t; first | (refine Touch.cut t ?_ fun _ => ?_; subst t; rotate_left; clear_value t) | subst t)
    | refine (wr_touch ..).step ?_ | split

theorem downH_touch (s : State) :
    Touch [pciHStatusReg.grain] s (s.downH) := by
  unfold State.downH
  with_reducible repeat' first
    | exact .refl _ _ | assumption | refine (wr_touch ..).step ?_ | split

theorem takeRequest_touch (s : State) (o : Origin) (req : MbReq) :
    Touch [.one .boxes, .one .vectors, .one .frames, sitMbStateReg.grain] s (s.takeRequest o req) := by
  unfold State.takeRequest
  with_reducible repeat' first
    | exact .refl _ _ | assumption
    | (extract_lets +onlyGivenNames t; first | (refine Touch.cut t ?_ fun _ => ?_; subst t; rotate_left; clear_value t) | subst t)
    | refine (satAdd_touch ..).step ?_ | refine (refuse_touch ..).step ?_ | refine (setBox_touch ..).step ?_
    | refine (signalReply_touch ..).step ?_ | split | refine .set ?_

theorem ringDoorbell_touch (s : State) (o : Origin) (req : MbReq) :
    Touch [.one .boxes, .one .vectors, .one .sitter, .one .frames, sitMbStateReg.grain] s (s.ringDoorbell o req) := by
  unfold State.ringDoorbell
  with_reducible repeat' first
    | exact .refl _ _ | assumption | refine (takeRequest_touch ..).step ?_ | split | refine .set ?_

theorem writeDoorbell_touch (s : State) (fn m : Nat) :
    Touch [.one .boxes, .one .vectors, .one .sitter, .one .frames, sitMbStateReg.grain] s (s.writeDoorbell fn m) := by
  unfold State.writeDoorbell
  with_reducible repeat' first
    | exact .refl _ _ | assumption | refine (ringDoorbell_touch ..).step ?_ | split

theorem skipFseqs_touch (s : State) :
    Touch [feFseqReg.grain] s (s.skipFseqs) := by
  unfold State.skipFseqs
  with_reducible repeat' first
    | exact .refl _ _ | assumption | refine (wr_touch ..).step ?_ | split

theorem dropSync_touch (s : State) (fn : Nat) :
    Touch [.one .barriers, .one .sitterSync] s (s.dropSync fn) := by
  unfold State.dropSync
  with_reducible repeat' first
    | exact .refl _ _ | assumption
    | (extract_lets +onlyGivenNames t; first | (refine Touch.cut t ?_ fun _ => ?_; subst t; rotate_left; clear_value t) | (refine Touch.cut t.1 ?_ fun _ => ?_; subst t; rotate_left; clear_value t) | (refine Touch.cut t.2 ?_ fun _ => ?_; subst t; rotate_left; clear_value t) | subst t)
    | refine (setBar_touch ..).step ?_ | refine .foldl _ ?_ fun _ _ _ => ?_ | split | refine .set ?_

theorem clearFn_touch (s : State) (fn : Nat) :
    Touch [.one .barriers, .one .sitterSync, .one .slots, .one .functions, .one .storage, .one .boxes, .one .events,
      .one .vectors, .one .sitter, .one .signing, sitMbStateReg.grain] s (s.clearFn fn) := by
  unfold State.clearFn
  with_reducible repeat' first
    | exact .refl _ _ | assumption
    | (extract_lets +onlyGivenNames t; first | (refine Touch.cut t ?_ fun _ => ?_; subst t; rotate_left; clear_value t) | (refine Touch.cut t.1 ?_ fun _ => ?_; subst t; rotate_left; clear_value t) | (refine Touch.cut t.2 ?_ fun _ => ?_; subst t; rotate_left; clear_value t) | subst t)
    | refine (wr_touch ..).step ?_ | refine (dropSync_touch ..).step ?_ | refine (postTo_touch ..).step ?_
    | refine .foldl _ ?_ fun _ _ _ => ?_ | split | refine .set ?_

theorem repeatActions_touch (s : State) :
    Touch [.one .fresh, .one .tileMem, .one .scratch, .one .const, .one .stack, .one .hostMem, .one .passes, .one
      .engines, .one .waits, .one .records, .one .opened, .one .firings, .one .actions, .one .turns, .one .dampers,
      .one .ports, .one .flows, .one .sent, .one .inbox, .one .events, .one .vectors, dmpReqStatReg.grain,
      dmpStatusReg.grain, fabHoldReg.grain, fabPortCntReg.grain, fabStatusReg.grain, fluNearTimeoutReg.grain,
      fluRecordUseReg.grain, fluSigValueReg.grain, fluStatusReg.grain, shfAbandonReg.grain, shfFeedStallReg.grain,
      shfInfZeroReg.grain, shfIntSatReg.grain] s (s.repeatActions) := by
  unfold State.repeatActions
  with_reducible repeat' first
    | exact .refl _ _ | assumption
    | (extract_lets +onlyGivenNames t; first | (refine Touch.cut t ?_ fun _ => ?_; subst t; rotate_left; clear_value t) | subst t)
    | refine (perform_touch ..).step ?_ | refine .foldl _ ?_ fun _ _ _ => ?_ | split | refine .set ?_

theorem stopF0_touch (s : State) :
    Touch [.one .fresh, .one .tileMem, .one .scratch, .one .const, .one .stack, .one .hostMem, .one .passes, .one
      .engines, .one .waits, .one .records, .one .opened, .one .firings, .one .ledger, .one .actions, .one .turns,
      .one .dampers, .one .ports, .one .flows, .one .sent, .one .inbox, .one .events, .one .vectors,
      dmpReqStatReg.grain, dmpStatusReg.grain, fabHoldReg.grain, fabPortCntReg.grain, fabStatusReg.grain,
      feHringCtlReg.grain, feHringPtrReg.grain, feSqCfgReg.grain, fluNearTimeoutReg.grain, fluRecordUseReg.grain,
      fluSigValueReg.grain, fluStatusReg.grain, shfAbandonReg.grain, shfFeedStallReg.grain, shfInfZeroReg.grain,
      shfIntSatReg.grain] s (s.stopF0) := by
  unfold State.stopF0
  with_reducible repeat' first
    | exact .refl _ _ | assumption
    | (extract_lets +onlyGivenNames t; first | (refine Touch.cut t ?_ fun _ => ?_; subst t; rotate_left; clear_value t) | subst t)
    | refine (wr_touch ..).step ?_ | refine (resetReg_touch ..).step ?_ | refine (repeatActions_touch ..).step ?_
    | refine (replay_touch ..).step ?_ | refine .foldl _ ?_ fun _ _ _ => ?_ | split | refine .set ?_

theorem resetFn_touch (s : State) (fn : Nat) :
    Touch [.one .fresh, .one .tileMem, .one .scratch, .one .const, .one .stack, .one .hostMem, .one .passes, .one
      .engines, .one .waits, .one .records, .one .barriers, .one .opened, .one .sitterSync, .one .slots, .one
      .firings, .one .ledger, .one .actions, .one .turns, .one .dampers, .one .ports, .one .flows, .one .sent, .one
      .inbox, .one .functions, .one .storage, .one .boxes, .one .events, .one .vectors, .one .sitter, .one .signing,
      dmpReqStatReg.grain, dmpStatusReg.grain, fabHoldReg.grain, fabPortCntReg.grain, fabStatusReg.grain,
      feFseqReg.grain, feHringCtlReg.grain, feHringPtrReg.grain, feSqCfgReg.grain, fluNearTimeoutReg.grain,
      fluRecordUseReg.grain, fluSigValueReg.grain, fluStatusReg.grain, shfAbandonReg.grain, shfFeedStallReg.grain,
      shfInfZeroReg.grain, shfIntSatReg.grain, sitMbStateReg.grain] s (s.resetFn fn) := by
  unfold State.resetFn
  with_reducible repeat' first
    | exact .refl _ _ | assumption
    | (extract_lets +onlyGivenNames t; first | (refine Touch.cut t ?_ fun _ => ?_; subst t; rotate_left; clear_value t) | subst t)
    | refine (clearFn_touch ..).step ?_ | refine (skipFseqs_touch ..).step ?_ | refine (stopF0_touch ..).step ?_
    | split

theorem resetFns_touch (s : State) :
    Touch [.one .fresh, .one .tileMem, .one .scratch, .one .const, .one .stack, .one .hostMem, .one .passes, .one
      .engines, .one .waits, .one .records, .one .barriers, .one .opened, .one .sitterSync, .one .slots, .one
      .firings, .one .ledger, .one .actions, .one .turns, .one .dampers, .one .ports, .one .flows, .one .sent, .one
      .inbox, .one .functions, .one .storage, .one .boxes, .one .events, .one .vectors, .one .sitter, .one .signing,
      dmpReqStatReg.grain, dmpStatusReg.grain, fabHoldReg.grain, fabPortCntReg.grain, fabStatusReg.grain,
      feFseqReg.grain, feHringCtlReg.grain, feHringPtrReg.grain, feSqCfgReg.grain, fluNearTimeoutReg.grain,
      fluRecordUseReg.grain, fluSigValueReg.grain, fluStatusReg.grain, shfAbandonReg.grain, shfFeedStallReg.grain,
      shfInfZeroReg.grain, shfIntSatReg.grain, sitMbStateReg.grain] s (s.resetFns) := by
  unfold State.resetFns
  with_reducible repeat' first
    | exact .refl _ _ | assumption | refine (resetFn_touch ..).step ?_ | split

theorem loseHLane_touch (s : State) (lane : Nat) :
    Touch [.one .fresh, .one .tileMem, .one .scratch, .one .const, .one .stack, .one .hostMem, .one .passes, .one
      .engines, .one .waits, .one .records, .one .barriers, .one .opened, .one .sitterSync, .one .slots, .one
      .firings, .one .ledger, .one .actions, .one .turns, .one .dampers, .one .ports, .one .flows, .one .sent, .one
      .inbox, .one .functions, .one .storage, .one .boxes, .one .events, .one .vectors, .one .sitter, .one .signing,
      .one .persistent, .one .repair, dmpReqStatReg.grain, dmpStatusReg.grain, fabHoldReg.grain,
      fabPortCntReg.grain, fabStatusReg.grain, feFseqReg.grain, feHringCtlReg.grain, feHringPtrReg.grain,
      feSqCfgReg.grain, fluNearTimeoutReg.grain, fluRecordUseReg.grain, fluSigValueReg.grain, fluStatusReg.grain,
      modSparesReg.grain, pciHStatusReg.grain, prsCopySelReg.grain, prsStatusReg.grain, shfAbandonReg.grain,
      shfFeedStallReg.grain, shfInfZeroReg.grain, shfIntSatReg.grain, sitMbStateReg.grain] s (s.loseHLane lane) := by
  unfold State.loseHLane
  with_reducible repeat' first
    | exact .refl _ _ | assumption
    | (extract_lets +onlyGivenNames t; first | (refine Touch.cut t ?_ fun _ => ?_; subst t; rotate_left; clear_value t) | subst t)
    | refine (commitRepair_touch ..).step ?_ | refine (downH_touch ..).step ?_ | refine (exhaust_touch ..).step ?_
    | refine (repEvent_touch ..).step ?_ | refine (resetFns_touch ..).step ?_ | refine (trainH_touch ..).step ?_
    | split | refine .set ?_

theorem startRestart_touch (s : State) (cause : Nat) :
    Touch [.one .fresh, .one .tileMem, .one .scratch, .one .const, .one .stack, .one .hostMem, .one .engines, .one
      .dampers, .one .sitter, feFseqReg.grain, sitCoreReg.grain] s (s.startRestart cause) := by
  unfold State.startRestart
  with_reducible repeat' first
    | exact .refl _ _ | assumption
    | (extract_lets +onlyGivenNames t; first | (refine Touch.cut t ?_ fun _ => ?_; subst t; rotate_left; clear_value t) | subst t)
    | refine (wr_touch ..).step ?_ | refine (satAdd_touch ..).step ?_ | refine (dmaUndone_touch ..).step ?_
    | refine (leaveDampers_touch ..).step ?_ | refine (setEngine_touch ..).step ?_
    | refine (skipFseqs_touch ..).step ?_ | refine .foldl _ ?_ fun _ _ _ => ?_ | split | refine .set ?_

theorem sitterLost_touch (s : State) :
    Touch [.one .fresh, .one .power, .one .tileMem, .one .scratch, .one .const, .one .stack, .one .hostMem, .one
      .passes, .one .engines, .one .waits, .one .dampers, .one .events, .one .vectors, .one .phase,
      shfAbandonReg.grain, shfFeedStallReg.grain, shfInfZeroReg.grain, shfIntSatReg.grain] s (s.sitterLost) := by
  unfold State.sitterLost
  with_reducible repeat' first
    | exact .refl _ _ | assumption | refine (moduleFault_touch ..).step ?_ | refine (post_touch ..).step ?_ | split

theorem retireCore_touch (s : State) (first : Bool) :
    Touch [.one .events, .one .vectors, .one .persistent, .one .repair, modSparesReg.grain, prsCopySelReg.grain,
      prsStatusReg.grain, sitCoreReg.grain] s (s.retireCore first) := by
  unfold State.retireCore
  with_reducible repeat' first
    | exact .refl _ _ | assumption
    | (extract_lets +onlyGivenNames t; first | (refine Touch.cut t ?_ fun _ => ?_; subst t; rotate_left; clear_value t) | subst t)
    | refine (wr_touch ..).step ?_ | refine (commitRepair_touch ..).step ?_ | refine (exhaust_touch ..).step ?_
    | refine (repEvent_touch ..).step ?_ | split | refine .set ?_

theorem settleBox_touch (s : State) (k : Nat) (b : Box) (o : Origin) :
    Touch [.one .fresh, .one .storage, .one .boxes, .one .vectors, .one .frames, .one .signing] s (s.settleBox k b o) := by
  unfold State.settleBox
  with_reducible repeat' first
    | exact .refl _ _ | assumption
    | (extract_lets +onlyGivenNames t; first | (refine Touch.cut t ?_ fun _ => ?_; subst t; rotate_left; clear_value t) | subst t)
    | refine (reply_touch ..).step ?_ | split | refine .set ?_

theorem serveLatched_touch (s : State) :
    Touch [.one .fresh, .one .storage, .one .boxes, .one .vectors, .one .sitter, .one .frames, .one .signing,
      sitMbStateReg.grain] s (s.serveLatched) := by
  unfold State.serveLatched
  with_reducible repeat' first
    | exact .refl _ _ | assumption
    | (extract_lets +onlyGivenNames t; first | (refine Touch.cut t ?_ fun _ => ?_; subst t; rotate_left; clear_value t) | (refine Touch.cut t.1 ?_ fun _ => ?_; subst t; rotate_left; clear_value t) | (refine Touch.cut t.2 ?_ fun _ => ?_; subst t; rotate_left; clear_value t) | subst t)
    | refine (settleBox_touch ..).step ?_ | refine (takeRequest_touch ..).step ?_
    | refine .foldl _ ?_ fun _ _ _ => ?_ | split | refine .set ?_

theorem endStores_touch (s : State) (link : Nat) (c : Code) :
    Touch [.one .storage, .one .boxes, .one .vectors, .one .frames] s (s.endStores link c) := by
  unfold State.endStores
  with_reducible repeat' first
    | exact .refl _ _ | assumption
    | (extract_lets +onlyGivenNames t; first | (refine Touch.cut t ?_ fun _ => ?_; subst t; rotate_left; clear_value t) | subst t)
    | refine (refuse_touch ..).step ?_ | refine .foldl _ ?_ fun _ _ _ => ?_ | split | refine .set ?_

theorem trainS_touch (s : State) (link : Nat) :
    Touch [.one .storage, pciSStatusReg.grain] s (s.trainS link) := by
  unfold State.trainS
  with_reducible repeat' first
    | exact .refl _ _ | assumption
    | (extract_lets +onlyGivenNames t; first | (refine Touch.cut t ?_ fun _ => ?_; subst t; rotate_left; clear_value t) | subst t)
    | refine (wr_touch ..).step ?_ | split | refine .set ?_

theorem downS_touch (s : State) (link : Nat) :
    Touch [.one .storage, .one .boxes, .one .vectors, .one .frames, pciSStatusReg.grain] s (s.downS link) := by
  unfold State.downS
  with_reducible repeat' first
    | exact .refl _ _ | assumption
    | (extract_lets +onlyGivenNames t; first | (refine Touch.cut t ?_ fun _ => ?_; subst t; rotate_left; clear_value t) | subst t)
    | refine (wr_touch ..).step ?_ | refine (endStores_touch ..).step ?_ | split | refine .set ?_

theorem applySplit_touch (s : State) :
    Touch [.one .storage, .one .boxes, .one .vectors, .one .frames, pciSStatusReg.grain] s (s.applySplit) := by
  unfold State.applySplit
  with_reducible repeat' first
    | exact .refl _ _ | assumption
    | (extract_lets +onlyGivenNames t; first | (refine Touch.cut t ?_ fun _ => ?_; subst t; rotate_left; clear_value t) | subst t)
    | refine (downS_touch ..).step ?_ | refine (trainS_touch ..).step ?_ | refine .foldl _ ?_ fun _ _ _ => ?_
    | split | refine .set ?_

theorem queueNvme_touch (s : State) (c : NvmeCmd) :
    Touch [.one .storage, .one .boxes] s (s.queueNvme c) := by
  unfold State.queueNvme
  with_reducible repeat' first
    | exact .refl _ _ | assumption
    | (extract_lets +onlyGivenNames t; first | (refine Touch.cut t ?_ fun _ => ?_; subst t; rotate_left; clear_value t) | subst t)
    | refine (setBox_touch ..).step ?_ | split | refine .set ?_

theorem loseSLane_touch (s : State) (link lane : Nat) :
    Touch [.one .storage, .one .boxes, .one .events, .one .vectors, .one .frames, .one .persistent, .one .repair,
      modSparesReg.grain, pciSStatusReg.grain, prsCopySelReg.grain, prsStatusReg.grain] s (s.loseSLane link lane) := by
  unfold State.loseSLane
  with_reducible repeat' first
    | exact .refl _ _ | assumption
    | (extract_lets +onlyGivenNames t; first | (refine Touch.cut t ?_ fun _ => ?_; subst t; rotate_left; clear_value t) | subst t)
    | refine (wr_touch ..).step ?_ | refine (commitRepair_touch ..).step ?_ | refine (downS_touch ..).step ?_
    | refine (exhaust_touch ..).step ?_ | refine (post_touch ..).step ?_ | refine (repEvent_touch ..).step ?_
    | split | refine .set ?_

theorem dropFrame_touch (s : State) (f : Fld) (ok : f.ok = true := by decide) :
    Touch [.one .events, .one .vectors, f.grain] s (s.dropFrame f) := by
  have n : ∀ t, Touch [.one .events, .one .vectors, f.grain] t (State.satAdd t f 0 1) := fun t =>
    (satAdd_touch t f 0 1 ok).mono (subsumes_cons _ (by simp [subsumes, under_self]))
  have e : ∀ t c, Touch [.one .events, .one .vectors, f.grain] t (State.post t c []) := fun t c =>
    (post_touch ..).mono (by simp [subsumes, Grain.under, Grain.covers])
  have v : ∀ t l, Touch [.one .events, .one .vectors, f.grain] t ({ t with sit := { t.sit with nextAt := l } }) :=
    fun t l => Touch.mono (gs := [.one .vectors]) (.set (.refl _ _)) (by simp [subsumes, Grain.under, Grain.covers])
  unfold State.dropFrame
  dsimp only
  split
  · exact n _
  · exact ((n _).trans (v _ _)).trans (e _ _)

theorem peerRequest_touch (s : State) (sci : Nat) (req : MbReq) :
    Touch [.one .boxes, .one .vectors, .one .frames, sitMbStateReg.grain] s (s.peerRequest sci req) := by
  unfold State.peerRequest
  with_reducible repeat' first
    | exact .refl _ _ | assumption | refine (takeRequest_touch ..).step ?_ | split

theorem peerTime_touch (s : State) (sci tai : Nat) :
    Touch [.one .bus] s (s.peerTime sci tai) := by
  unfold State.peerTime
  with_reducible repeat' first
    | exact .refl _ _ | assumption | split | refine .set ?_

theorem idFlags_touch (s : State) :
    Touch [.one .events, .one .vectors, secStateReg.grain] s (s.idFlags) := by
  unfold State.idFlags
  with_reducible repeat' first
    | exact .refl _ _ | assumption
    | (extract_lets +onlyGivenNames t; first | (refine Touch.cut t ?_ fun _ => ?_; subst t; rotate_left; clear_value t) | subst t)
    | refine (wr_touch ..).step ?_ | refine (post_touch ..).step ?_ | split

theorem waitsFor_touch (s : State) (o : Origin) (i : SignItem) :
    Touch [.one .boxes, .one .signing] s (s.waitsFor o i) := by
  unfold State.waitsFor
  with_reducible repeat' first
    | exact .refl _ _ | assumption
    | (extract_lets +onlyGivenNames t; first | (refine Touch.cut t ?_ fun _ => ?_; subst t; rotate_left; clear_value t) | subst t)
    | refine (setBox_touch ..).step ?_ | split | refine .set ?_

theorem largeDone_touch (s : State) (o : Origin) (b : Bytes) :
    Touch [.one .hostMem, .one .boxes, .one .vectors, .one .frames] s (s.largeDone o b) := by
  unfold State.largeDone
  with_reducible repeat' first
    | exact .refl _ _ | assumption
    | (extract_lets +onlyGivenNames t; first | (refine Touch.cut t ?_ fun _ => ?_; subst t; rotate_left; clear_value t) | subst t)
    | refine (done_touch ..).step ?_ | refine (setBox_touch ..).step ?_ | refine (writeSpace_touch ..).step ?_
    | refine (writeSpace_any ..).step ?_ | split | refine .set ?_

/-- A command with a large reply touches what it does, or its mailbox. -/
theorem large_touch {gs : List Grain} (s : State) (o : Origin) (k : State → State) (h : ∀ t, Touch gs t (k t))
    (w : subsumes gs [.one .boxes, .one .vectors, .one .frames] = true := by decide) : Touch gs s (s.large o k) := by
  unfold State.large
  dsimp only
  split
  · exact h s
  · split
    · exact h s
    · exact (done_touch ..).mono w

theorem signed_touch (s : State) (idx : Nat) (item : SignItem) :
    Touch [.one .hostMem, .one .boxes, .one .vectors, .one .frames, .one .meter] s (s.signed idx item) := by
  unfold State.signed
  with_reducible repeat' first
    | exact .refl _ _ | assumption
    | (extract_lets +onlyGivenNames t; first | (refine Touch.cut t ?_ fun _ => ?_; subst t; rotate_left; clear_value t) | subst t)
    | refine (largeDone_touch ..).step ?_ | split | refine .set ?_

/-- A token touches its nonce, its answer and what it puts into effect. -/
theorem applyToken_touch {gs : List Grain} (s : State) (o : Origin) (kind : Nat) (t : Token) (k : State → State × Bool)
    (extra : State → Bytes) (h : ∀ u, Touch gs u (k u).1)
    (w : subsumes gs [.one .boxes, .one .vectors, .one .frames, .one .signing] = true := by decide) :
    Touch gs s (s.applyToken o kind t k extra) := by
  unfold State.applyToken
  have box : subsumes gs [.one .boxes, .one .vectors, .one .frames] = true := subsumes_trans w (by decide)
  refine command_touch _ _ _ _ (fun v => large_touch _ _ _ (fun u => ?_) box) box
  dsimp only
  split
  · exact (refuse_touch ..).mono box
  · split
    · exact (h u).trans ((refuse_touch ..).mono box)
    · refine Touch.trans (h u) (Touch.mono (gs := [.one .boxes, .one .signing]) ?_ (subsumes_trans w (by decide)))
      with_reducible repeat' first | exact .refl _ _ | refine (waitsFor_touch ..).step ?_ | refine .set ?_

theorem commitKeys_touch (s : State) (idEnd : Nat) (f : Keys → Keys) :
    Touch [.one .events, .one .vectors, .one .bus, .one .keys, .one .persistent, .one .repair, modSparesReg.grain,
      prsStatusReg.grain, secKeystateReg.grain] s (s.commitKeys idEnd f).1 := by
  unfold State.commitKeys
  with_reducible repeat' first
    | exact .refl _ _ | assumption
    | (extract_lets +onlyGivenNames t; first | (refine Touch.cut t ?_ fun _ => ?_; subst t; rotate_left; clear_value t) | (refine Touch.cut t.1 ?_ fun _ => ?_; subst t; rotate_left; clear_value t) | (refine Touch.cut t.2 ?_ fun _ => ?_; subst t; rotate_left; clear_value t) | subst t)
    | refine (prsKept_touch _ 2 _ (g := secKeystateReg) rfl (by decide)).step ?_ | split | refine .set ?_

theorem dropPeers_touch (s : State) :
    Touch [.one .boxes, .one .events] s (s.dropPeers) := by
  unfold State.dropPeers
  with_reducible repeat' first
    | exact .refl _ _ | assumption
    | (extract_lets +onlyGivenNames t; first | (refine Touch.cut t ?_ fun _ => ?_; subst t; rotate_left; clear_value t) | (refine Touch.cut t.1 ?_ fun _ => ?_; subst t; rotate_left; clear_value t) | (refine Touch.cut t.2 ?_ fun _ => ?_; subst t; rotate_left; clear_value t) | subst t)
    | split | refine .set ?_

theorem setDebug_touch (s : State) (v : Nat) :
    Touch [.one .power, secStateReg.grain] s (s.setDebug v) := by
  unfold State.setDebug
  with_reducible repeat' first
    | exact .refl _ _ | assumption
    | (extract_lets +onlyGivenNames t; first | (refine Touch.cut t ?_ fun _ => ?_; subst t; rotate_left; clear_value t) | subst t)
    | refine (wr_touch ..).step ?_ | split | refine .set ?_

end Sys2Proof.Machine
end

