-- ==== Sys2Proof/Laws/TouchModule.lean ====
section
/-! SUPPORT. Laws/TouchModule.lean: what the operations of the meter, the power path, start-up and register access touch. -/

namespace Sys2Proof.Machine

set_option Elab.async false

theorem addShare_touch (s : State) (payer : Nat) (x : Share) (flags unc t0 t1 : Nat) :
    Touch [.one .meter] s (s.addShare payer x flags unc t0 t1) := by
  unfold State.addShare
  with_reducible repeat' first
    | exact .refl _ _ | assumption
    | (extract_lets +onlyGivenNames t; first | (refine Touch.cut t ?_ fun _ => ?_; subst t; rotate_left; clear_value t) | subst t)
    | split | refine .set ?_

theorem addShares_touch (s : State) (ein : Nat) (l : Tab Share) (flags unc t0 t1 : Nat) :
    Touch [.one .meter] s (s.addShares ein l flags unc t0 t1) := by
  unfold State.addShares
  with_reducible repeat' first
    | exact .refl _ _ | assumption
    | (extract_lets +onlyGivenNames t; first | (refine Touch.cut t ?_ fun _ => ?_; subst t; rotate_left; clear_value t) | (refine Touch.cut t.1 ?_ fun _ => ?_; subst t; rotate_left; clear_value t) | (refine Touch.cut t.2 ?_ fun _ => ?_; subst t; rotate_left; clear_value t) | subst t)
    | refine (addShare_touch ..).step ?_ | refine .foldl _ ?_ fun _ _ _ => ?_ | split

theorem sendNotice_touch (s : State) (b : Sealing) :
    Touch [.one .frames] s (s.sendNotice b) := by
  unfold State.sendNotice
  with_reducible repeat' first
    | exact .refl _ _ | assumption
    | (extract_lets +onlyGivenNames t; first | (refine Touch.cut t ?_ fun _ => ?_; subst t; rotate_left; clear_value t) | subst t)
    | split | refine .set ?_

theorem newBatch_touch (s : State) :
    Touch [.one .meter] s (s.newBatch) := by
  unfold State.newBatch
  with_reducible repeat' first
    | exact .refl _ _ | assumption
    | (extract_lets +onlyGivenNames t; first | (refine Touch.cut t ?_ fun _ => ?_; subst t; rotate_left; clear_value t) | subst t)
    | split | refine .set ?_

theorem sealBatch_touch (s : State) (extra : Nat) :
    Touch [.one .fresh, .one .events, .one .vectors, .one .frames, .one .signing, .one .meter, mtrBatchReg.grain,
      mtrStatusReg.grain] s (s.sealBatch extra) := by
  unfold State.sealBatch
  with_reducible repeat' first
    | exact .refl _ _ | assumption
    | (extract_lets +onlyGivenNames t; first | (refine Touch.cut t ?_ fun _ => ?_; subst t; rotate_left; clear_value t) | subst t)
    | refine (wr_touch ..).step ?_ | refine (setBit_touch ..).step ?_ | refine (newBatch_touch ..).step ?_
    | refine (post_touch ..).step ?_ | refine (sendNotice_touch ..).step ?_ | refine .foldl _ ?_ fun _ _ _ => ?_
    | split | refine .set ?_

theorem showWindow_touch (s : State) (x : Win) :
    Touch [.one .fresh, mtrStatusReg.grain, mtrWinReg.grain] s (s.showWindow x) := by
  unfold State.showWindow
  with_reducible repeat' first
    | exact .refl _ _ | assumption
    | (extract_lets +onlyGivenNames t; first | (refine Touch.cut t ?_ fun _ => ?_; subst t; rotate_left; clear_value t) | subst t)
    | refine (wr_touch ..).step ?_ | split | refine .set ?_

theorem closeFail_touch (s : State) (x : Win) :
    Touch [.one .events, .one .vectors, .one .meter, mtrStatusReg.grain] s (s.closeFail x) := by
  unfold State.closeFail
  with_reducible repeat' first
    | exact .refl _ _ | assumption
    | (extract_lets +onlyGivenNames t; first | (refine Touch.cut t ?_ fun _ => ?_; subst t; rotate_left; clear_value t) | subst t)
    | refine (setBit_touch ..).step ?_ | refine (post_touch ..).step ?_ | split | refine .set ?_

theorem countWindow_touch (s : State) (x : Win) (stop : Nat) (failing : Bool) :
    Touch [.one .meter] s (s.countWindow x stop failing) := by
  unfold State.countWindow
  with_reducible repeat' first
    | exact .refl _ _ | assumption
    | (extract_lets +onlyGivenNames t; first | (refine Touch.cut t ?_ fun _ => ?_; subst t; rotate_left; clear_value t) | subst t)
    | split | refine .set ?_

theorem setCap_touch (s : State) (v : Nat) :
    Touch [modClkStepReg.grain] s (s.setCap v) := by
  unfold State.setCap
  with_reducible repeat' first
    | exact .refl _ _ | assumption | refine (wr_touch ..).step ?_ | split

theorem startPowerFail_touch (s : State) (seq code cause : Nat) :
    Touch [.one .power, .one .phase] s (s.startPowerFail seq code cause) := by
  unfold State.startPowerFail
  with_reducible repeat' first
    | exact .refl _ _ | assumption
    | (extract_lets +onlyGivenNames t; first | (refine Touch.cut t ?_ fun _ => ?_; subst t; rotate_left; clear_value t) | subst t)
    | split | refine .set ?_

theorem powerFailBy_touch {gs : List Grain} (s : State) (seq code cause : Nat) (seen : Option Fld)
    (h : ∀ f, seen = some f → f.ok = true ∧ subsumes gs [f.grain] = true)
    (w : subsumes gs [.one .power, .one .phase] = true := by decide) : Touch gs s (s.powerFailBy seq code cause seen) := by
  unfold State.powerFailBy
  split
  · exact .refl _ _
  · split
    · obtain ⟨o, u⟩ := h _ rfl
      exact Touch.trans ((setBit_touch _ _ _ o).mono u) ((startPowerFail_touch ..).mono w)
    · exact (startPowerFail_touch ..).mono w

theorem recordFault_touch (s : State) (c : Code) :
    Touch [.one .power, .one .events, .one .vectors] s (s.recordFault c) := by
  unfold State.recordFault
  with_reducible repeat' first
    | exact .refl _ _ | assumption | refine (post_touch ..).step ?_ | split | refine .set ?_

theorem tripInSequence_touch (s : State) :
    Touch [.one .power, .one .phase] s (s.tripInSequence) := by
  unfold State.tripInSequence
  with_reducible repeat' first
    | exact .refl _ _ | assumption | split | refine .set ?_

theorem loseWriting_touch (s : State) :
    Touch [.one .log] s (s.loseWriting) := by
  unfold State.loseWriting
  with_reducible repeat' first
    | exact .refl _ _ | assumption
    | (extract_lets +onlyGivenNames t; first | (refine Touch.cut t ?_ fun _ => ?_; subst t; rotate_left; clear_value t) | subst t)
    | split | refine .set ?_

theorem loseBatch_touch (s : State) :
    Touch [.one .meter] s (s.loseBatch) := by
  unfold State.loseBatch
  with_reducible repeat' first
    | exact .refl _ _ | assumption
    | (extract_lets +onlyGivenNames t; first | (refine Touch.cut t ?_ fun _ => ?_; subst t; rotate_left; clear_value t) | subst t)
    | split | refine .set ?_

theorem losePhase_touch (s : State) (rail : Nat) :
    Touch [.one .fresh, .one .power, .one .tileMem, .one .scratch, .one .const, .one .stack, .one .hostMem, .one
      .passes, .one .engines, .one .waits, .one .dampers, .one .events, .one .vectors, .one .persistent, .one
      .repair, .one .phase, modPwrStatusReg.grain, modSparesReg.grain, prsCopySelReg.grain, prsStatusReg.grain,
      shfAbandonReg.grain, shfFeedStallReg.grain, shfInfZeroReg.grain, shfIntSatReg.grain] s (s.losePhase rail) := by
  unfold State.losePhase
  with_reducible repeat' first
    | exact .refl _ _ | assumption
    | (extract_lets +onlyGivenNames t; first | (refine Touch.cut t ?_ fun _ => ?_; subst t; rotate_left; clear_value t) | subst t)
    | refine (wr_touch ..).step ?_ | refine (commitRepair_touch ..).step ?_ | refine (exhaust_touch ..).step ?_
    | refine (moduleFault_touch ..).step ?_ | refine (repEvent_touch ..).step ?_ | split | refine .set ?_

theorem loseKiln_touch (s : State) (k : Nat) :
    Touch [.one .fresh, .one .power, .one .tileMem, .one .scratch, .one .const, .one .stack, .one .hostMem, .one
      .passes, .one .engines, .one .waits, .one .dampers, .one .events, .one .vectors, .one .persistent, .one
      .repair, .one .phase, modGeomReg.grain, modSparesReg.grain, prsCopySelReg.grain, prsStatusReg.grain,
      shfAbandonReg.grain, shfFeedStallReg.grain, shfInfZeroReg.grain, shfIntSatReg.grain] s (s.loseKiln k) := by
  unfold State.loseKiln
  with_reducible repeat' first
    | exact .refl _ _ | assumption
    | (extract_lets +onlyGivenNames t; first | (refine Touch.cut t ?_ fun _ => ?_; subst t; rotate_left; clear_value t) | subst t)
    | refine (wr_touch ..).step ?_ | refine (commitRepair_touch ..).step ?_ | refine (moduleFault_touch ..).step ?_
    | refine (post_touch ..).step ?_ | split | refine .set ?_

theorem idleColumns_touch (s : State) (t : TileId) (third : Bool) :
    Touch [.one .events, .one .vectors, .one .repair, modSparesReg.grain, shfSpareMapReg.grain, tileColmapReg.grain]
      s (s.idleColumns t third) := by
  unfold State.idleColumns
  with_reducible repeat' first
    | exact .refl _ _ | assumption | refine (wr_tileSpare ..).step ?_ | refine (wr_touch ..).step ?_
    | refine (swapTile_touch ..).step ?_ | refine (tileGone_touch ..).step ?_ | split

theorem secondColumn_touch (s : State) (t : TileId) (c : Nat) :
    Touch [.one .fresh, .one .tileMem, .one .scratch, .one .events, .one .vectors, .one .repair,
      klnSpareMap0Reg.grain, klnSpareMap1Reg.grain, modSparesReg.grain, shfSpareMapReg.grain, tileColmapReg.grain] s
      (s.secondColumn t c) := by
  unfold State.secondColumn
  with_reducible repeat' first
    | exact .refl _ _ | assumption
    | (extract_lets +onlyGivenNames t; first | (refine Touch.cut t ?_ fun _ => ?_; subst t; rotate_left; clear_value t) | subst t)
    | refine (wr_touch ..).step ?_ | refine (idleColumns_touch ..).step ?_ | refine (relist_touch ..).step ?_
    | refine (replaceTile_touch ..).step ?_ | split

theorem badColumn_touch (s : State) (t : TileId) (c : Nat) :
    Touch [.one .fresh, .one .tileMem, .one .scratch, .one .events, .one .vectors, .one .repair,
      klnSpareMap0Reg.grain, klnSpareMap1Reg.grain, modSparesReg.grain, shfSpareMapReg.grain, tileColmapReg.grain] s
      (s.badColumn t c) := by
  unfold State.badColumn
  with_reducible repeat' first
    | exact .refl _ _ | assumption
    | (extract_lets +onlyGivenNames t; first | (refine Touch.cut t ?_ fun _ => ?_; subst t; rotate_left; clear_value t) | subst t)
    | refine (wr_touch ..).step ?_ | refine (exhaust_touch ..).step ?_ | refine (idleColumns_touch ..).step ?_
    | refine (repEvent_touch ..).step ?_ | refine (replaceTile_touch ..).step ?_
    | refine (secondColumn_touch ..).step ?_ | split

theorem retireTile_touch (s : State) (i : Nat) :
    Touch [.one .fresh, .one .tileMem, .one .scratch, .one .events, .one .vectors, .one .repair,
      klnSpareMap0Reg.grain, klnSpareMap1Reg.grain, modSparesReg.grain, shfSpareMapReg.grain, tileColmapReg.grain] s
      (s.retireTile i) := by
  unfold State.retireTile
  with_reducible repeat' first
    | exact .refl _ _ | assumption | refine (replaceTile_touch ..).step ?_ | split

theorem remapRow_touch (s : State) (k sh : Nat) :
    Touch [.one .fresh, .one .tileMem, .one .scratch, .one .const, .one .stack, .one .hostMem, .one .passes, .one
      .engines, .one .waits, .one .graphs, .one .copies, .one .firings, .one .turns, .one .dampers, .one .buckets,
      .one .watermarks, .one .events, .one .vectors, .one .persistent, .one .repair, feGaugeReg.grain,
      feLadderReg.grain, feRuleReg.grain, feSqCfgReg.grain, grxGatherReg.grain, grxInstReg.grain,
      klnSpareMap0Reg.grain, klnSpareMap1Reg.grain, modGeomReg.grain, modSparesReg.grain, prsCopySelReg.grain,
      prsStatusReg.grain, shfAbandonReg.grain, shfFeedStallReg.grain, shfInfZeroReg.grain, shfIntSatReg.grain,
      shfSpareMapReg.grain, shfWitStatReg.grain, tileColmapReg.grain] s (s.remapRow k sh) := by
  unfold State.remapRow
  with_reducible repeat' first
    | exact .refl _ _ | assumption
    | (extract_lets +onlyGivenNames t; first | (refine Touch.cut t ?_ fun _ => ?_; subst t; rotate_left; clear_value t) | subst t)
    | refine (exhaust_touch ..).step ?_ | refine (hardFault_touch ..).step ?_ | refine (repEvent_touch ..).step ?_
    | split | refine .set ?_

theorem spareDq_touch (s : State) (n c : Nat) :
    Touch [.one .events, .one .vectors, .one .repair, modSparesReg.grain, stkDqSpareReg.grain] s (s.spareDq n c) := by
  unfold State.spareDq
  with_reducible repeat' first
    | exact .refl _ _ | assumption
    | (extract_lets +onlyGivenNames t; first | (refine Touch.cut t ?_ fun _ => ?_; subst t; rotate_left; clear_value t) | subst t)
    | refine (wr_touch ..).step ?_ | refine (exhaust_touch ..).step ?_ | refine (repEvent_touch ..).step ?_ | split

theorem retireSpareCore_touch (s : State) :
    Touch [.one .events, .one .vectors, .one .repair, modSparesReg.grain, sitCoreReg.grain] s (s.retireSpareCore) := by
  unfold State.retireSpareCore
  with_reducible repeat' first
    | exact .refl _ _ | assumption
    | (extract_lets +onlyGivenNames t; first | (refine Touch.cut t ?_ fun _ => ?_; subst t; rotate_left; clear_value t) | subst t)
    | refine (wr_touch ..).step ?_ | refine (exhaust_touch ..).step ?_ | refine (repEvent_touch ..).step ?_ | split
    | refine .set ?_

theorem failSpareTile_touch (s : State) (k b i : Nat) :
    Touch [.one .events, .one .vectors, .one .repair, modSparesReg.grain, shfSpareMapReg.grain] s (s.failSpareTile k
      b i) := by
  unfold State.failSpareTile
  with_reducible repeat' first
    | exact .refl _ _ | assumption
    | (extract_lets +onlyGivenNames t; first | (refine Touch.cut t ?_ fun _ => ?_; subst t; rotate_left; clear_value t) | subst t)
    | refine (wr_tileSpare ..).step ?_ | refine (wr_touch ..).step ?_ | refine (exhaust_touch ..).step ?_ | split

theorem failSpareShelf_touch (s : State) (k i : Nat) :
    Touch [.one .events, .one .vectors, .one .repair, klnSpareMap0Reg.grain, klnSpareMap1Reg.grain,
      modSparesReg.grain] s (s.failSpareShelf k i) := by
  unfold State.failSpareShelf
  with_reducible repeat' first
    | exact .refl _ _ | assumption
    | (extract_lets +onlyGivenNames t; first | (refine Touch.cut t ?_ fun _ => ?_; subst t; rotate_left; clear_value t) | subst t)
    | refine (wr_shelfSpare ..).step ?_ | refine (wr_touch ..).step ?_ | refine (exhaust_touch ..).step ?_ | split

theorem restWork_touch (s : State) (f : RestFindings) :
    Touch [.one .fresh, .one .tileMem, .one .scratch, .one .const, .one .stack, .one .hostMem, .one .passes, .one
      .engines, .one .waits, .one .graphs, .one .copies, .one .firings, .one .turns, .one .dampers, .one .buckets,
      .one .watermarks, .one .events, .one .vectors, .one .persistent, .one .repair, feGaugeReg.grain,
      feLadderReg.grain, feRuleReg.grain, feSqCfgReg.grain, grxGatherReg.grain, grxInstReg.grain,
      klnSpareMap0Reg.grain, klnSpareMap1Reg.grain, modGeomReg.grain, modRestStatusReg.grain, modSparesReg.grain,
      prsCopySelReg.grain, prsStatusReg.grain, shfAbandonReg.grain, shfFeedStallReg.grain, shfInfZeroReg.grain,
      shfIntSatReg.grain, shfSpareMapReg.grain, shfWitStatReg.grain, sitCoreReg.grain, stkDqSpareReg.grain,
      tileColmapReg.grain] s (s.restWork f) := by
  unfold State.restWork
  with_reducible repeat' first
    | exact .refl _ _ | assumption
    | (extract_lets +onlyGivenNames t; first | (refine Touch.cut t ?_ fun _ => ?_; subst t; rotate_left; clear_value t) | (refine Touch.cut t.1 ?_ fun _ => ?_; subst t; rotate_left; clear_value t) | (refine Touch.cut t.2 ?_ fun _ => ?_; subst t; rotate_left; clear_value t) | subst t)
    | refine (wr_touch ..).step ?_ | refine (badColumn_touch ..).step ?_ | refine (commitRepair_touch ..).step ?_
    | refine (failSpareShelf_touch ..).step ?_ | refine (failSpareTile_touch ..).step ?_
    | refine (newGeometry_touch ..).step ?_ | refine (remapRow_touch ..).step ?_
    | refine (retireSpareCore_touch ..).step ?_ | refine (retireTile_touch ..).step ?_
    | refine (spareDq_touch ..).step ?_ | refine .foldl _ ?_ fun _ _ _ => ?_ | split | refine .set ?_

theorem switchAllOut_touch (s : State) :
    Touch [.one .fresh, .one .tileMem, .one .scratch, .one .const, .one .stack, .one .hostMem, .one .passes, .one
      .engines, .one .waits, .one .barriers, .one .opened, .one .firings, .one .turns, .one .dampers,
      fluNearTimeoutReg.grain, fluSigValueReg.grain, fluStatusReg.grain, shfAbandonReg.grain, shfFeedStallReg.grain,
      shfInfZeroReg.grain, shfIntSatReg.grain] s (s.switchAllOut) := by
  unfold State.switchAllOut
  with_reducible repeat' first
    | exact .refl _ _ | assumption | refine (switchOut_touch ..).step ?_ | refine .foldl _ ?_ fun _ _ _ => ?_
    | split

theorem switchAllIn_touch (s : State) :
    Touch [.one .fresh, .one .tileMem, .one .scratch, .one .const, .one .stack, .one .hostMem, .one .passes, .one
      .engines, .one .waits, .one .barriers, .one .opened, .one .sitterSync, .one .firings, .one .turns, .one
      .dampers, .one .boxes, .one .vectors, .one .frames, fluBarRestartReg.grain, fluNearTimeoutReg.grain,
      fluSigValueReg.grain, fluStatusReg.grain, shfAbandonReg.grain, shfFeedStallReg.grain, shfInfZeroReg.grain,
      shfIntSatReg.grain] s (s.switchAllIn) := by
  unfold State.switchAllIn
  with_reducible repeat' first
    | exact .refl _ _ | assumption | refine (switchIn_touch ..).step ?_ | refine .foldl _ ?_ fun _ _ _ => ?_ | split

theorem warmDone_touch (s : State) :
    Touch [.one .fresh, .one .tileMem, .one .scratch, .one .const, .one .stack, .one .hostMem, .one .passes, .one
      .engines, .one .waits, .one .records, .one .opened, .one .firings, .one .actions, .one .turns, .one .dampers,
      .one .ports, .one .flows, .one .sent, .one .inbox, .one .events, .one .vectors, .one .phase,
      dmpReqStatReg.grain, dmpStatusReg.grain, fabHoldReg.grain, fabPortCntReg.grain, fabStatusReg.grain,
      fluNearTimeoutReg.grain, fluRecordUseReg.grain, fluSigValueReg.grain, fluStatusReg.grain, shfAbandonReg.grain,
      shfFeedStallReg.grain, shfInfZeroReg.grain, shfIntSatReg.grain] s (s.warmDone) := by
  unfold State.warmDone
  with_reducible repeat' first
    | exact .refl _ _ | assumption
    | (extract_lets +onlyGivenNames t; first | (refine Touch.cut t ?_ fun _ => ?_; subst t; rotate_left; clear_value t) | subst t)
    | refine (repeatActions_touch ..).step ?_ | split | refine .set ?_

theorem flag_touch (s : State) (f : Repair → Repair) :
    Touch [.one .repair] s (s.flag f) := by
  unfold State.flag
  exact .set (.refl _ _)

theorem clearLocals_touch (s : State) :
    Touch [fluSigValueReg.grain] s (s.clearLocals) := by
  unfold State.clearLocals
  with_reducible repeat' first
    | exact .refl _ _ | assumption
    | (extract_lets +onlyGivenNames t; first | (refine Touch.cut t ?_ fun _ => ?_; subst t; rotate_left; clear_value t) | subst t)
    | refine (wr_touch ..).step ?_ | refine .foldl _ ?_ fun _ _ _ => ?_ | split

theorem loseKilnMemory_touch (s : State) :
    Touch [.one .fresh, .one .tileMem, .one .scratch, .one .const] s (s.loseKilnMemory) := by
  unfold State.loseKilnMemory
  with_reducible repeat' first
    | exact .refl _ _ | assumption | refine (forget_touch ..).step ?_ | refine (forget_any ..).step ?_ | split

theorem resetEngines_touch (s : State) :
    Touch [.one .engines, dmaHeadReg.grain, dmaRingBaseReg.grain, dmaRingCtlReg.grain, dmaStatusReg.grain] s
      (s.resetEngines) := by
  unfold State.resetEngines
  extract_lets t
  refine Touch.cut t ?_ fun h => ?_
  case refine_2 => clear_value t; exact .set h
  subst t
  dsimp only [List.foldl_cons, List.foldl_nil]
  with_reducible repeat' first
    | exact .refl _ _ | assumption | refine (resetReg_touch ..).step ?_ | refine .foldl _ ?_ fun _ _ _ => ?_

theorem warmReset_touch (s : State) (cause : Nat) :
    Touch [.one .fresh, .one .power, .one .tileMem, .one .scratch, .one .const, .one .stack, .one .hostMem, .one
      .passes, .one .cells, .one .engines, .one .waits, .one .barriers, .one .opened, .one .firings, .one .ledger,
      .one .turns, .one .dampers, .one .sitter, .one .meter, .one .phase, dmaHeadReg.grain, dmaRingBaseReg.grain,
      dmaRingCtlReg.grain, dmaStatusReg.grain, feFseqReg.grain, fluNearTimeoutReg.grain, fluSigValueReg.grain,
      fluStatusReg.grain, klnGangReg.grain, modResetReg.grain, shfAbandonReg.grain, shfFeedStallReg.grain,
      shfGangReg.grain, shfInfZeroReg.grain, shfIntSatReg.grain, sitCoreReg.grain] s (s.warmReset cause) := by
  unfold State.warmReset
  with_reducible repeat' first
    | exact .refl _ _ | assumption
    | (extract_lets +onlyGivenNames t; first | (refine Touch.cut t ?_ fun _ => ?_; subst t; rotate_left; clear_value t) | subst t)
    | refine (wr_touch ..).step ?_ | refine (satAdd_touch ..).step ?_ | refine (resetReg_touch ..).step ?_
    | refine (clearLocals_touch ..).step ?_ | refine (closeCycle_touch ..).step ?_
    | refine (freeBars_touch ..).step ?_ | refine (loseKilnMemory_touch ..).step ?_
    | refine (replay_touch ..).step ?_ | refine (resetEngines_touch ..).step ?_
    | refine (startRestart_touch ..).step ?_ | refine (stopAll_touch ..).step ?_
    | refine .foldl _ ?_ fun _ _ _ => ?_ | split | refine .set ?_

theorem coldReset_touch (s : State) :
    Touch [.one .fresh, .one .power, .one .tileMem, .one .scratch, .one .const, .one .stack, .one .hostMem, .one
      .passes, .one .engines, .one .waits, .one .log, .one .dampers, .one .phase, shfAbandonReg.grain,
      shfFeedStallReg.grain, shfInfZeroReg.grain, shfIntSatReg.grain] s (s.coldReset) := by
  unfold State.coldReset
  with_reducible repeat' first
    | exact .refl _ _ | assumption | refine (endService_touch ..).step ?_ | refine (logNow_touch ..).step ?_ | split

/-- Everything but the queue, the keys and the tables of the meter. -/
def bootGrains : List Grain :=
  [.registers, .one .fresh, .one .power, .one .tileMem, .one .scratch, .one .const, .one .stack, .one .hostMem,
    .one .lines, .one .passes, .one .nextPass, .one .cells, .one .engines, .one .waits, .one .records,
    .one .barriers, .one .opened, .one .sitterSync, .one .graphs, .one .copies, .one .slots, .one .firings,
    .one .log, .one .ledger, .one .actions, .one .turns, .one .grants, .one .wheel, .one .dampers, .one .topology,
    .one .ports, .one .flows, .one .sent, .one .inbox, .one .buckets, .one .watermarks, .one .functions,
    .one .storage, .one .boxes, .one .events, .one .vectors, .one .sitter, .one .pieces, .one .bus, .one .frames,
    .one .firmware, .one .signing, .one .persistent, .one .meter, .one .repair, .one .phase]

/-- Everything but the queue. -/
def powerGrains : List Grain := .one .keys :: .one .tables :: bootGrains

theorem loseAll_touch (s : State) :
    Touch bootGrains s (s.loseAll) := by
  unfold State.loseAll
  dsimp only
  refine .set ?_
  refine (forget_touch ..).step ((loseKilnMemory_touch ..).step ?_)
  exact .regs (regsCanon_filter _) fun n hn => by simp [covered, bootGrains, Grain.covers] at hn

theorem loadMap_touch (s : State) :
    Touch [.registers, .one .repair] s (s.loadMap) := by
  unfold State.loadMap
  with_reducible repeat' first
    | exact .refl _ _ | assumption
    | (extract_lets +onlyGivenNames t; first | (refine Touch.cut t ?_ fun _ => ?_; subst t; rotate_left; clear_value t) | (refine Touch.cut t.1 ?_ fun _ => ?_; subst t; rotate_left; clear_value t) | (refine Touch.cut t.2 ?_ fun _ => ?_; subst t; rotate_left; clear_value t) | subst t)
    | refine (wr_touch ..).step ?_ | refine (loadRepair_touch ..).step ?_ | refine .foldl _ ?_ fun _ _ _ => ?_
    | split

theorem loadCradle_touch (s : State) (c : Option CradleId) :
    Touch [.one .power, .one .events, .one .vectors, fabPortStatusReg.grain, fabStatusReg.grain, modCradleReg.grain]
      s (s.loadCradle c) := by
  unfold State.loadCradle
  with_reducible repeat' first
    | exact .refl _ _ | assumption
    | (extract_lets +onlyGivenNames t; first | (refine Touch.cut t ?_ fun _ => ?_; subst t; rotate_left; clear_value t) | subst t)
    | refine (wr_touch ..).step ?_ | refine (setBit_touch ..).step ?_ | refine (post_touch ..).step ?_
    | refine .foldl _ ?_ fun _ _ _ => ?_ | split | refine .set ?_

theorem stayDown_touch (s : State) (c : Nat) (fault : Code) (cause : Nat) :
    Touch [.one .fresh, .one .power, .one .tileMem, .one .scratch, .one .const, .one .stack, .one .hostMem, .one
      .passes, .one .engines, .one .waits, .one .firings, .one .turns, .one .dampers, .one .events, .one .vectors,
      .one .phase, shfAbandonReg.grain, shfFeedStallReg.grain, shfInfZeroReg.grain, shfIntSatReg.grain] s
      (s.stayDown c fault cause) := by
  unfold State.stayDown
  with_reducible repeat' first
    | exact .refl _ _ | assumption
    | (extract_lets +onlyGivenNames t; first | (refine Touch.cut t ?_ fun _ => ?_; subst t; rotate_left; clear_value t) | subst t)
    | refine (fault_touch ..).step ?_ | refine (post_touch ..).step ?_ | split | refine .set ?_

theorem trainStacks_touch (s : State) (bad : List Nat) :
    Touch [.one .fresh, .one .power, .one .tileMem, .one .scratch, .one .const, .one .stack, .one .hostMem, .one
      .passes, .one .engines, .one .waits, .one .graphs, .one .copies, .one .firings, .one .turns, .one .dampers,
      .one .buckets, .one .watermarks, .one .events, .one .vectors, .one .persistent, .one .repair,
      feGaugeReg.grain, feLadderReg.grain, feRuleReg.grain, feSqCfgReg.grain, grxGatherReg.grain, grxInstReg.grain,
      modGeomReg.grain, modSparesReg.grain, prsCopySelReg.grain, prsStatusReg.grain, shfAbandonReg.grain,
      shfFeedStallReg.grain, shfInfZeroReg.grain, shfIntSatReg.grain] s (s.trainStacks bad) := by
  unfold State.trainStacks
  with_reducible repeat' first
    | exact .refl _ _ | assumption
    | (extract_lets +onlyGivenNames t; first | (refine Touch.cut t ?_ fun _ => ?_; subst t; rotate_left; clear_value t) | subst t)
    | refine (commitRepair_touch ..).step ?_ | refine (newGeometry_touch ..).step ?_
    | refine (recordFault_touch ..).step ?_ | refine .foldl _ ?_ fun _ _ _ => ?_ | split | refine .set ?_

theorem abandonRec_touch (s : State) (a : LogRec) (code : Nat) :
    Touch [.one .log, .one .ledger] s (s.abandonRec a code) := by
  unfold State.abandonRec
  with_reducible repeat' first
    | exact .refl _ _ | assumption
    | (extract_lets +onlyGivenNames t; first | (refine Touch.cut t ?_ fun _ => ?_; subst t; rotate_left; clear_value t) | subst t)
    | refine (logNow_touch ..).step ?_ | split | refine .set ?_

theorem scanLog_touch (s : State) (code : Nat) :
    Touch [.one .graphs, .one .copies, .one .slots, .one .firings, .one .log, .one .ledger, .one .actions, .one
      .turns, .one .grants, feFseqReg.grain] s (s.scanLog code) := by
  unfold State.scanLog
  with_reducible repeat' first
    | exact .refl _ _ | assumption
    | (extract_lets +onlyGivenNames t; first | (refine Touch.cut t ?_ fun _ => ?_; subst t; rotate_left; clear_value t) | subst t)
    | refine (abandonRec_touch ..).step ?_ | refine (fillLedger_touch ..).step ?_
    | refine (skipFseqs_touch ..).step ?_ | refine .foldl _ ?_ fun _ _ _ => ?_ | split | refine .set ?_

theorem resendRetires_touch (s : State) :
    Touch [.one .fresh, .one .tileMem, .one .scratch, .one .const, .one .stack, .one .hostMem, .one .passes, .one
      .engines, .one .waits, .one .records, .one .firings, .one .turns, .one .dampers, .one .ports, .one .flows,
      .one .sent, .one .inbox, dmpReqStatReg.grain, dmpStatusReg.grain, fabHoldReg.grain, fabPortCntReg.grain,
      fabStatusReg.grain, shfAbandonReg.grain, shfFeedStallReg.grain, shfInfZeroReg.grain, shfIntSatReg.grain] s
      (s.resendRetires) := by
  unfold State.resendRetires
  with_reducible repeat' first
    | exact .refl _ _ | assumption | refine (retireFlow_touch ..).step ?_ | refine .foldl _ ?_ fun _ _ _ => ?_
    | split

theorem meterUp_touch (s : State) (owed : List LogRec) (code : Nat) :
    Touch [.one .fresh, .one .events, .one .vectors, .one .frames, .one .signing, .one .meter, mtrBatchReg.grain,
      mtrStatusReg.grain] s (s.meterUp owed code) := by
  unfold State.meterUp
  with_reducible repeat' first
    | exact .refl _ _ | assumption
    | (extract_lets +onlyGivenNames t; first | (refine Touch.cut t ?_ fun _ => ?_; subst t; rotate_left; clear_value t) | subst t)
    | refine (newBatch_touch ..).step ?_ | refine (sealBatch_touch ..).step ?_ | split | refine .set ?_

theorem bringUp_touch (s : State) (c : Nat) (env : PowerUpEnv) :
    Touch bootGrains s (s.bringUp c env) := by
  unfold State.bringUp
  with_reducible repeat' first
    | exact .refl _ _ | assumption
    | (extract_lets +onlyGivenNames t; first | (refine Touch.cut t ?_ fun _ => ?_; subst t; rotate_left; clear_value t) | subst t)
    | refine (applySplit_touch ..).step ?_ | refine (idFlags_touch ..).step ?_
    | refine (loadCradle_touch ..).step ?_ | refine (loadMap_touch ..).step ?_ | refine (meterUp_touch ..).step ?_
    | refine (perform_touch ..).step ?_ | refine (persist_touch ..).step ?_ | refine (prsLost_touch ..).step ?_
    | refine (resendRetires_touch ..).step ?_ | refine (restWork_touch ..).step ?_
    | refine (scanLog_touch ..).step ?_ | refine (stayDown_touch ..).step ?_ | refine (trainH_touch ..).step ?_
    | refine (trainPort_touch ..).step ?_ | refine (trainStacks_touch ..).step ?_
    | refine .foldl _ ?_ fun _ _ _ => ?_ | split | refine .set ?_

theorem coldStart_touch (s : State) (c : Nat) (env : PowerUpEnv) :
    Touch powerGrains s (s.coldStart c env) := by
  unfold State.coldStart
  with_reducible repeat' first
    | exact .refl _ _ | assumption
    | (extract_lets +onlyGivenNames t; first | (refine Touch.cut t ?_ fun _ => ?_; subst t; rotate_left; clear_value t) | (refine Touch.cut t.1 ?_ fun _ => ?_; subst t; rotate_left; clear_value t) | (refine Touch.cut t.2 ?_ fun _ => ?_; subst t; rotate_left; clear_value t) | subst t)
    | refine (wr_touch ..).step ?_ | refine (boot_touch ..).step ?_ | refine (bringUp_touch ..).step ?_
    | refine (idFlags_touch ..).step ?_ | refine (loseAll_touch ..).step ?_ | refine (loseWriting_touch ..).step ?_
    | refine (prsShowAll_touch ..).step ?_ | refine (rewriteCopy_touch ..).step ?_
    | refine (stayDown_touch ..).step ?_ | refine .foldl _ ?_ fun _ _ _ => ?_ | split | refine .set ?_

theorem writeField_touch (s : State) (f : Fld) (i v : Nat) (ok : f.ok = true := by decide) :
    Touch [f.grain] s (s.writeField f i v) := by
  unfold State.writeField
  (repeat' split) <;> first | exact .refl _ _ | exact wr_touch _ _ _ _ ok

theorem writePlain_touch (s : State) (r : Reg) (i v : Nat) (ok : r.ok = true := by decide) :
    Touch [r.grain] s (s.writePlain r i v) := by
  simp only [Reg.ok, List.all_eq_true, Bool.and_eq_true, decide_eq_true_eq] at ok
  have fold : ∀ (l : List Fld) (t : State), (∀ f ∈ l, f ∈ r.fields) → Touch [r.grain] s t →
      Touch [r.grain] s (l.foldl (fun s f => s.writeField f i v) t) := by
    intro l
    induction l with
    | nil => exact fun _ _ h => h
    | cons f l ih =>
      intro t m h
      obtain ⟨⟨o, eb⟩, eo⟩ := ok f (m f (by simp))
      have w := writeField_touch t f i v o
      rw [show f.grain = r.grain from by simp [Fld.grain, Reg.grain, eb, eo]] at w
      exact ih _ (fun g hg => m g (List.mem_cons_of_mem _ hg)) (h.trans w)
  exact fold _ _ (fun _ h => h) (.refl _ _)

theorem allRegs_ok : ∀ r ∈ allRegs, r.ok = true := by decide

theorem writeRingBase_touch (s : State) (e v : Nat) :
    Touch [dmaRingBaseReg.grain] s (s.writeRingBase e v) := by
  unfold State.writeRingBase
  with_reducible repeat' first
    | exact .refl _ _ | assumption
    | (extract_lets +onlyGivenNames t; first | (refine Touch.cut t ?_ fun _ => ?_; subst t; rotate_left; clear_value t) | subst t)
    | refine (writeField_touch ..).step ?_ | split

theorem writeRingCtl_touch (s : State) (e v : Nat) :
    Touch [.one .engines, dmaRingCtlReg.grain] s (s.writeRingCtl e v) := by
  unfold State.writeRingCtl
  with_reducible repeat' first
    | exact .refl _ _ | assumption
    | (extract_lets +onlyGivenNames t; first | (refine Touch.cut t ?_ fun _ => ?_; subst t; rotate_left; clear_value t) | subst t)
    | refine (ringEnable_touch ..).step ?_ | refine (writeField_touch ..).step ?_ | split

theorem writeHring_touch (s : State) (v : Nat) :
    Touch [feHringBaseReg.grain] s (s.writeHring v) := by
  unfold State.writeHring
  with_reducible repeat' first
    | exact .refl _ _ | assumption | refine (writeField_touch ..).step ?_ | split

/-- A register write touches the register written and what writing it starts. -/
theorem writeReg_touch (s : State) (r : Reg) (inst i v : Nat) (ok : r.ok = true) :
    Touch [r.grain, .one .engines, .one .slots, .one .dampers, dmpCutReg.grain, dmpReqStatReg.grain, .one .boxes,
      .one .vectors, .one .sitter, .one .frames, sitMbStateReg.grain] s (s.writeReg r inst i v) := by
  unfold State.writeReg
  split
  · rename_i e; subst e; exact (setCap_touch ..).step (.refl _ _)
  split
  · rename_i e; subst e; exact (writeRingBase_touch ..).step (.refl _ _)
  split
  · rename_i e; subst e; exact (writeRingCtl_touch ..).step (.refl _ _)
  split
  · rename_i e; subst e; exact (ringEngine_touch ..).step (.refl _ _)
  split
  · rename_i e; subst e; exact (writeHring_touch ..).step (.refl _ _)
  split
  · rename_i e; subst e
    split
    · exact (wakeQueue_touch ..).step (.refl _ _)
    · exact .refl _ _
  split
  · rename_i e; subst e; exact (writeDoorbell_touch ..).step (.refl _ _)
  split
  · rename_i e; subst e; exact (releaseReq_touch ..).step (.refl _ _)
  · exact (writePlain_touch _ _ _ _ ok).mono (by simp [subsumes, under_self])

theorem writeReg_any (s : State) (r : Reg) (inst i v : Nat) (ok : r.ok = true) :
    Touch [.registers, .one .engines, .one .slots, .one .dampers, .one .boxes, .one .vectors, .one .sitter, .one .frames]
      s (s.writeReg r inst i v) :=
  (writeReg_touch s r inst i v ok).mono rfl

/-- The register that an offset names is one of the manual's. -/
theorem findReg_mem {b : Block} {off : Nat} {r : Reg} {e : Nat} (h : findReg b off = some (r, e)) : r ∈ allRegs := by
  obtain ⟨q, hq, hr⟩ := List.exists_of_findSome?_eq_some h
  dsimp only at hr
  split at hr
  · split at hr <;> split at hr <;> first | (cases hr; exact hq) | cases hr
  · cases hr

theorem findAt_ok {s : State} {b : Block} {inst off : Nat} {r : Reg} {i : Nat} (h : s.findAt b inst off = some (r, i)) :
    r.ok = true := by
  unfold State.findAt at h
  split at h
  · rename_i e f
    cases g : s.regAt _ inst e with
    | none => rw [g] at h; cases h
    | some j => rw [g] at h; cases h; exact allRegs_ok _ (findReg_mem f)
  · cases h

theorem writeAny_touch (s : State) (r : Reg) (inst i v : Nat) (viaSitter : Bool) (ok : r.ok = true) :
    Touch [.registers, .one .fresh, .one .power, .one .tileMem, .one .scratch, .one .const, .one .stack, .one
      .hostMem, .one .passes, .one .engines, .one .waits, .one .slots, .one .dampers, .one .boxes, .one .events,
      .one .vectors, .one .sitter, .one .frames, .one .persistent, .one .repair, .one .phase] s (s.writeAny r inst i
      v viaSitter).1 := by
  unfold State.writeAny
  with_reducible repeat' first
    | exact .refl _ _ | assumption
    | (extract_lets +onlyGivenNames t; first | (refine Touch.cut t ?_ fun _ => ?_; subst t; rotate_left; clear_value t) | (refine Touch.cut t.1 ?_ fun _ => ?_; subst t; rotate_left; clear_value t) | (refine Touch.cut t.2 ?_ fun _ => ?_; subst t; rotate_left; clear_value t) | subst t)
    | refine (writeReg_any _ _ _ _ _ ok).step ?_ | refine (prsHostWrite_touch ..).step ?_
    | refine (prsWrite_touch ..).step ?_ | refine (writeReg_touch ..).step ?_ | split

theorem barWrite_touch (s : State) (fn : Nat) (b : Block) (inst off value : Nat) :
    Touch [.registers, .one .fresh, .one .power, .one .tileMem, .one .scratch, .one .const, .one .stack, .one
      .hostMem, .one .passes, .one .engines, .one .waits, .one .slots, .one .dampers, .one .boxes, .one .events,
      .one .vectors, .one .sitter, .one .frames, .one .persistent, .one .repair, .one .phase] s (s.barWrite fn b
      inst off value) := by
  unfold State.barWrite
  with_reducible repeat' first
    | exact .refl _ _ | assumption
    | (extract_lets +onlyGivenNames t; first | (refine Touch.cut t ?_ fun _ => ?_; subst t; rotate_left; clear_value t) | (refine Touch.cut t.1 ?_ fun _ => ?_; subst t; rotate_left; clear_value t) | (refine Touch.cut t.2 ?_ fun _ => ?_; subst t; rotate_left; clear_value t) | subst t)
    | refine (writeAny_touch _ _ _ _ _ _ (findAt_ok (by assumption))).step ?_ | refine (setSlot_touch ..).step ?_
    | refine (writeAny_touch ..).step ?_ | split

theorem vuRun_touch (s : State) (j : VuJob) (f : Firing) (g : Graph) :
    Touch [.one .fresh, .one .scratch, .one .firings] s (s.vuRun j f g) := by
  unfold State.vuRun
  with_reducible repeat' first
    | exact .refl _ _ | assumption
    | (extract_lets +onlyGivenNames t; first | (refine Touch.cut t ?_ fun _ => ?_; subst t; rotate_left; clear_value t) | subst t)
    | refine (updFiring_touch ..).step ?_ | refine (writesSpace_touch ..).step ?_
    | refine (writesSpace_any ..).step ?_ | split | refine .set ?_

end Sys2Proof.Machine
end

