-- ==== Sys2Proof/Laws/Registers.lean ====
section
/-! SUPPORT. Laws/Registers.lean: what a register write does to each field of the register (R15, R16, R346). -/

namespace Sys2Proof.Machine

set_option Elab.async false

/-- Different entries of a field are kept apart. -/
theorem key_entry_ne (f : Fld) {i j : Nat} (h : j ≠ i) : f.key j ≠ f.key i := by
  unfold Fld.key; omega

theorem rd_wr_entry (s : State) (f : Fld) {i j : Nat} (v : Nat) (h : j ≠ i) : (s.wr f i v).rd f j = s.rd f j :=
  rd_wr_other s v (key_entry_ne f h)

theorem bits_lt (x lo w : Nat) : bits x lo w < 2 ^ w := Nat.mod_lt _ (Nat.two_pow_pos w)

/-- A saturating counter reads the sum, at most its greatest value. -/
theorem rd_satAdd_same (s : State) (f : Fld) (i n : Nat) :
    (s.satAdd f i n).rd f i = min (2 ^ f.width - 1) (s.rd f i + n) := by
  have := Nat.two_pow_pos f.width
  rw [State.satAdd, rd_wr_lt _ _ _ (by omega), Nat.min_comm]

/-- What a field reads after a write of v: RW takes its bits, W1C clears on a 1, others stay (Table 0.3). -/
def Fld.after (f : Fld) (v old : Nat) : Nat :=
  if f.acc = .rw then bits v f.lo f.width else if f.acc = .w1c ∧ bit v f.lo = true then 0 else old

theorem writeField_rd (s : State) (f : Fld) (i v : Nat) : (s.writeField f i v).rd f i = f.after v (s.rd f i) := by
  unfold State.writeField Fld.after
  cases h : f.acc <;> simp only [if_true, reduceCtorEq, false_and, true_and, if_false]
  · exact rd_wr_lt _ _ _ (bits_lt ..)
  · split
    · exact rd_wr_lt _ _ _ (Nat.two_pow_pos _)
    · rfl

theorem writeField_rd_ne (s : State) {f g : Fld} (i j v : Nat) (h : f.apart g = true) :
    (s.writeField f i v).rd g j = s.rd g j := by
  unfold State.writeField
  (repeat' split) <;> first | rfl | exact rd_wr_ne _ _ _ _ h

theorem writeField_rd_entry (s : State) (f : Fld) {i j : Nat} (v : Nat) (h : j ≠ i) :
    (s.writeField f i v).rd f j = s.rd f j := by
  unfold State.writeField
  (repeat' split) <;> first | rfl | exact rd_wr_entry _ _ _ h

/-- No two fields of a register share their place. -/
def fieldsApart : List Fld → Bool
  | [] => true
  | f :: l => l.all (fun g => f.apart g && g.apart f) && fieldsApart l

theorem allRegs_apart : ∀ r ∈ allRegs, fieldsApart r.fields = true := by decide

theorem findAt_mem {s : State} {b : Block} {inst off i : Nat} {r : Reg} (h : s.findAt b inst off = some (r, i)) :
    r ∈ allRegs := by
  unfold State.findAt at h
  split at h
  · next q e k =>
    cases g : s.regAt q inst e with
    | none => rw [g] at h; cases h
    | some x => rw [g] at h; cases h; exact findReg_mem k
  · cases h

/-- A plain write, field by field. -/
theorem writeFields_rd (l : List Fld) (s : State) (i v : Nat) (a : fieldsApart l = true) :
    (∀ f ∈ l, (l.foldl (fun s f => s.writeField f i v) s).rd f i = f.after v (s.rd f i)) ∧
    (∀ f ∈ l, ∀ j, j ≠ i → (l.foldl (fun s f => s.writeField f i v) s).rd f j = s.rd f j) ∧
    ∀ g, (∀ f ∈ l, f.apart g = true) → ∀ j, (l.foldl (fun s f => s.writeField f i v) s).rd g j = s.rd g j := by
  induction l generalizing s with
  | nil => simp
  | cons x l ih =>
    simp only [fieldsApart, Bool.and_eq_true, List.all_eq_true] at a
    obtain ⟨k1, k2, k3⟩ := ih (s.writeField x i v) a.2
    simp only [List.foldl_cons]
    refine ⟨fun f hf => ?_, fun f hf j hj => ?_, fun g hg j => ?_⟩
    · rcases List.mem_cons.1 hf with rfl | hf
      · rw [k3 f (fun y hy => (a.1 y hy).2), writeField_rd]
      · rw [k1 f hf, writeField_rd_ne _ _ _ _ (a.1 f hf).1]
    · rcases List.mem_cons.1 hf with rfl | hf
      · rw [k3 f (fun y hy => (a.1 y hy).2), writeField_rd_entry _ _ _ hj]
      · rw [k2 f hf j hj, writeField_rd_ne _ _ _ _ (a.1 f hf).1]
    · rw [k3 g (fun y hy => hg y (List.mem_cons_of_mem _ hy)), writeField_rd_ne _ _ _ _ (hg x (List.mem_cons_self ..))]

end Sys2Proof.Machine
end

