-- ==== Sys2Proof/Laws/Spaces.lean ====
section
/-! SUPPORT. Laws/Spaces.lean: what a read and a write of an address space does to the memory behind it. -/

namespace Sys2Proof.Machine

set_option Elab.async false

theorem writeSpace_tile (s : State) (a : Nat) (b : Bytes) : (s.writeSpace 0 a b).mem.tile = mwriteN s.mem.tile a b := rfl
theorem writeSpace_scratch (s : State) (a : Nat) (b : Bytes) :
    (s.writeSpace 1 a b).mem.scratch = mwriteN s.mem.scratch (scratchKey a) b := by
  simp [State.writeSpace, State.setSpaceMem, State.spaceMem, spaceKey]
theorem writeSpace_stack (s : State) (a : Nat) (b : Bytes) : (s.writeSpace 3 a b).mem.stack = mwriteN s.mem.stack a b := rfl
theorem readSpace_tile (s : State) (a n : Nat) : s.readSpace 0 a n = mreadN s.mem.tile a n := rfl
theorem readSpace_scratch (s : State) (a n : Nat) : s.readSpace 1 a n = mreadN s.mem.scratch (scratchKey a) n := by
  simp [State.readSpace, State.spaceMem, spaceKey]
theorem readSpace_stack (s : State) (a n : Nat) : s.readSpace 3 a n = mreadN s.mem.stack a n := rfl

@[simp] theorem natLe_length (n v : Nat) : (natLe n v).length = n := by
  induction n generalizing v with
  | zero => rfl
  | succ n ih => simp [natLe, ih]

theorem spaceMem_scratch (s : State) : s.spaceMem 1 = s.mem.scratch := rfl
theorem spaceMem_const (s : State) : s.spaceMem 2 = s.mem.const := rfl
theorem spaceMem_stack (s : State) : s.spaceMem 3 = s.mem.stack := rfl
theorem spaceKey_scratch (a : Nat) : spaceKey 1 a = scratchKey a := if_pos rfl
theorem spaceKey_other {sp : Nat} (a : Nat) (h : sp ≠ 1) : spaceKey sp a = a := if_neg h
theorem put_scratch (s : State) (a : Nat) (b : Bytes) : s.put 1 a b = s.writeSpace 1 a b := if_neg (by decide)
theorem put_stack (s : State) (a : Nat) (b : Bytes) : s.put 3 a b = s.store a b := if_pos rfl

/-- A run reads back as it was written. -/
theorem mreadN_of_mwriteN (m : Memory) (a : Nat) (l : Bytes) {n : Nat} (h : l.length = n) : mreadN (mwriteN m a l) a n = l := by
  subst h; exact mreadN_mwriteN m a l

/-- A list of writes to scratchpad leaves every byte outside its runs. -/
theorem writesSpace_scratch_other (l : List (Nat × Bytes)) (s : State) (c : Nat)
    (h : ∀ x ∈ l, c < scratchKey x.1 ∨ scratchKey x.1 + x.2.length ≤ c) :
    mread (s.writesSpace 1 l).mem.scratch c = mread s.mem.scratch c := by
  unfold State.writesSpace
  induction l generalizing s with
  | nil => rfl
  | cons p l ih =>
    simp only [List.foldl_cons]
    rw [ih _ fun x hx => h x (List.mem_cons_of_mem _ hx), writeSpace_scratch]
    exact mread_mwriteN_other _ _ _ (h p (List.mem_cons_self ..))

/-- What writes to scratchpad leave depends on scratchpad alone. -/
theorem writesSpace_scratch_congr (l : List (Nat × Bytes)) (s t : State) (h : t.mem.scratch = s.mem.scratch) :
    (t.writesSpace 1 l).mem.scratch = (s.writesSpace 1 l).mem.scratch := by
  unfold State.writesSpace
  induction l generalizing s t with
  | nil => exact h
  | cons p l ih =>
    simp only [List.foldl_cons]
    exact ih _ _ (by rw [writeSpace_scratch, writeSpace_scratch, h])

end Sys2Proof.Machine
end

