-- ==== Sys2Proof/Tests/Slice0.lean ====
section
/-! SUPPORT. Tests/Slice0.lean: commands that are not well formed, small checks of single steps against the manual, and for each
statement states and operands that meet the hypotheses of its clauses. -/

namespace Sys2Proof.Machine.Tests

set_option Elab.async false
set_option maxRecDepth 20000
set_option exponentiation.threshold 2048

/-! ### States to test on -/

/-- In normal service with the wheel running and nothing accepted. -/
def up : State :=
  { State.reset with
    power := { State.reset.power with input := true }
    wheel := { State.reset.wheel with running := true }
    svc := { State.reset.svc with phase := .service }
    pci := { State.reset.pci with fns := [⟨true, false⟩, ⟨true, false⟩, ⟨true, false⟩] } }

def f0 : Origin := .box 0 0
def f1 : Origin := .box 1 0
def f2 : Origin := .box 2 0

/-- The next state, or none. -/
def after (i : Instr) (s : State) : Option State :=
  match exec i s with
  | .next t => some t
  | _ => none

/-- A graph that claims shelf 0 and kiln engine 0. -/
def graph1 : Graph :=
  { header := 0, base := 0, work := [], regions := [], params := [], signals := [], barriers := [], rules := [], bindings := []
    claim := 1 + 2 ^ 1280, slots := [], layouts := [], pblock := [], buckets := [], joinBase := 0, joinSlots := 0 }

def snap1 : Snap := ⟨[], [], 0, []⟩

/-- Firing 5 of graph 1, running, with a work list for one observer. -/
def fir (o : Nat) (l : List Nat) : Firing :=
  { fseq := 5, fslot := 0, graph := 1, queue := 0, slot := 0, word := 0, st := .running, logged := true, tickAccept := 0
    tickEnd := 0, attempts := 1, code := 0, snap := some snap1, claimHeld := true, granted := [0], joinSent := 0
    work := [(o, l.map fun w => (w, .waiting))], arith := .empty, gauges := [], issued := [], retire := [], copyWait := false
    merged := [], counts := [], lines := [], notBefore := none, heldFor := none, ctx := none }

/-- The module with that firing in flight. -/
def withFir (f : Firing) (g : Graph) : State :=
  { up with fe := { up.fe with graphs := [(1, g)], firings := [f] } }

/-- A sync operation (Table 8.4) on signal or group 7. -/
def sync (op value timeout : Nat) : Nat := op + 2 ^ 8 * 7 + 2 ^ 24 * 7 + 2 ^ 32 * value + 2 ^ 64 * timeout

/-- Signal 7 as FABRIC. -/
def graphFabric : Graph := { graph1 with signals := [7 + 2 ^ 13] }
/-- Signal 7 as LOCAL. -/
def graphLocal : Graph := { graph1 with signals := [7] }

/-! ### Witnesses: the machine, signals and barriers -/

theorem wit_machine : State.reset.pending = [] ∧ (after .powerFailSequence up).isSome = true ∧
    (Instr.sigInc 0 5 7 1 0 false).wf = true ∧ (∀ a ∈ (Instr.sigInc 0 5 7 1 0 false).stackAddrs, has up.rep.lostStacks (stackOf a) = false) ∧
    (Instr.sigInc 1417 5 8191 1 0 false).wf = true ∧ (Instr.sigInc 1418 5 7 1 0 false).wf = false ∧
    (Instr.sigInc 0 5 8192 1 0 false).wf = false := by decide

theorem wit_EmptyQueueTicks : up.powered = true ∧ up.power.input = true ∧ up.wheel.running = true ∧ up.flue.opened = [] ∧
    up.flue.sitter = [] ∧ up.fe.grants = [] ∧ up.sit.owed = [] ∧ (∀ n, n < 16 → up.on stkStatusRebuilding n = false) ∧
    State.reset.powered = false ∧ State.reset.power.input = false := by decide

theorem reset_canon : State.reset.Canon := ⟨by decide, by decide, by decide, by decide, by decide, by decide, by decide⟩
theorem reset_bounds : State.reset.Bounds := ⟨by decide, by decide, by decide, by decide⟩
theorem up_canon : up.Canon := ⟨by decide, by decide, by decide, by decide, by decide, by decide, by decide⟩
theorem up_bounds : up.Bounds := ⟨by decide, by decide, by decide, by decide⟩

/-- An invariant's hypotheses: a state that holds it, and a step that answers. -/
theorem wit_Every : State.reset.Canon ∧ State.reset.Bounds ∧ ∃ t, step State.reset = .next t :=
  ⟨reset_canon, reset_bounds, _, rfl⟩

theorem wit_OnlyTokens : (after .powerMark up).isSome = true ∧ (∀ o k, Instr.powerMark ≠ .tokenApplyCal o k) ∧
    ∀ e, Instr.powerMark ≠ .powerUp e := ⟨by decide, (fun _ _ h => by cases h), (fun _ h => by cases h)⟩

/-- Firing 5 with one SIG_INC of 3 on signal 7, of the class that the graph gives it. -/
def fInc : Firing := fir 0 [sync 0x10 3 0]
def sInc : State := withFir fInc graph1
def sIncFabric : State := withFir fInc graphFabric

theorem wit_SigIncAdds : sInc.issuer 0 5 = some fInc ∧ fInc.syncNext 0 0x10 = some (0, sync 0x10 3 0) ∧
    synSig (sync 0x10 3 0) = 7 ∧ synValue (sync 0x10 3 0) = 3 ∧ synOpIndex (sync 0x10 3 0) = 0 ∧ fInc.earlierDone 0 0 = true ∧
    sInc.sigFabric 7 = false ∧ (∀ x ∈ sInc.flue.waits, x.sig ≠ 7) := by decide

/-- Both sides of the edge at 2^32: a sum that still fits and one that does not, with the firing among the issuers. -/
theorem wit_SigIncAdds_edge :
    (sInc.wr fluSigValueValue 7 (2 ^ 32 - 4)).sigVal 7 + ((tget noneOpen sInc.flue.opened 7).sum + 3) < 2 ^ 32 ∧
    2 ^ 32 ≤ (sInc.wr fluSigValueValue 7 (2 ^ 32 - 3)).sigVal 7 + ((tget noneOpen sInc.flue.opened 7).sum + 3) ∧
    5 ∈ ((tget noneOpen sInc.flue.opened 7).add 3 (some 5)).issuers ∧
    (sInc.wr fluSigValueValue 7 (2 ^ 32 - 3)).firing? 5 = some fInc ∧ fInc.ending = false := by decide


/-- The key of that increment, and the table with it. -/
def key7 : RecKey := ⟨sIncFabric.self, 0, 5, fInc.issueIndex 0⟩
def recorded (l : List RecKey) : State := { sIncFabric with flue := { sIncFabric.flue with records := l } }

theorem wit_KeyedIncrements : sIncFabric.issuer 0 5 = some fInc ∧ sIncFabric.sigFabric 7 = true ∧
    (∀ e ∈ (recorded []).flue.records, key7.same e = false) ∧ (recorded []).flue.records.length < 16384 ∧
    (recorded [key7]).flue.records.find? (key7.same ·) = some key7 ∧ key7.index ≤ key7.index ∧
    (∀ x ∈ (recorded []).flue.waits, x.sig ≠ 7) ∧
    (recorded []).sigVal 7 + ((tget noneOpen (recorded []).flue.opened 7).sum + 3) < 2 ^ 32 := by decide

theorem wit_KeyedIncrements_full : (∀ e ∈ (recorded (List.replicate 16384 ⟨1, 0, 0, 0⟩)).flue.records, key7.same e = false) ∧
    16384 ≤ (recorded (List.replicate 16384 ⟨1, 0, 0, 0⟩)).flue.records.length :=
  ⟨fun e h => by rw [List.eq_of_mem_replicate h]; decide, Nat.le_of_eq List.length_replicate.symm⟩

/-- Signal 7 waited for by a WAIT_GE 3 and a WAIT_CON 2 of firing 5. -/
def wGe : Wait := ⟨0, some 5, 7, false, 3, 0, 0, 0⟩
def wCon : Wait := ⟨1, some 5, 7, true, 2, 0, 9, 0⟩
def waiting : State := { up with flue := { up.flue with waits := [wGe, wCon] } }
def localHeld : State := withFir (fir 0 []) graphLocal

theorem wit_SignalIncServesWaits : waiting.sitterUp = true ∧ waiting.gate f0 0x0130 = none ∧ waiting.flue.sitter = [] ∧
    waiting.sigHolder 7 = none ∧ waiting.sigVal 7 + ((tget noneOpen waiting.flue.opened 7).sum + 3) < 2 ^ 32 ∧
    waiting.flue.waits.Nodup ∧ waiting.flue.waits.find? (fun w => w.sig == 7 && w.consuming) = some wCon ∧
    (localHeld.sigHolder 7).isSome = true ∧ localHeld.sitterUp = true ∧ localHeld.gate f0 0x0130 = none ∧
    localHeld.flue.sitter = [] := by decide

def waitAt (op value timeout : Nat) : State := withFir (fir 0 [sync op value timeout]) graph1

theorem wit_WaitsRegister : isEngineObs 0 = false ∧ (waitAt 0x11 3 0).issuer 0 5 = some (fir 0 [sync 0x11 3 0]) ∧
    synTimeout (sync 0x12 3 4) = 4 ∧ (∀ x ∈ (waitAt 0x11 3 0).flue.waits, x.sig ≠ 7) ∧
    (waitAt 0x11 3 0).sigVal 7 + (tget noneOpen (waitAt 0x11 3 0).flue.opened 7).sum = 0 ∧
    (fir 0 [sync 0x11 0 0]).syncNext 0 0x11 = some (0, sync 0x11 0 0) ∧
    (fir 0 [sync 0x12 0 0]).syncNext 0 0x12 = some (0, sync 0x12 0 0) ∧
    (fir 0 [sync 0x11 1 0]).syncNext 0 0x11 = some (0, sync 0x11 1 0) ∧
    (fir 0 [sync 0x12 3 4]).syncNext 0 0x12 = some (0, sync 0x12 3 4) := by decide

theorem wit_WaitsRegister_canon : (waitAt 0x11 3 0).Canon :=
  ⟨by decide, by decide, by decide, by decide, by decide, by decide, by decide⟩

/-- The WAIT_CON registered, with n faults of F-152 behind it and the increments l of the ctl cycle. -/
def expiring (n : Nat) (l : Tab Opening) : State :=
  let s := withFir { fir 0 [] with counts := if n = 0 then [] else [(152, n)] } graph1
  { s with flue := { s.flue with waits := [wCon], opened := l } }

theorem wit_WaitExpires : (expiring 0 []).flue.waits.find? (fun w => w.observer == 1 && w.sig == 7 && w.timeout != 0) = some wCon ∧
    (expiring 0 []).firing? 5 = some (fir 0 []) ∧ (fir 0 []).ending = false ∧ (fir 0 []).launched = true ∧
    wCon.tick + 1024 * wCon.timeout < 2 ^ 64 ∧ (∀ p ∈ (expiring 0 []).flue.opened, p.1 ≠ 7) ∧
    tget 0 (fir 0 []).counts 152 = 0 ∧ (((expiring 1 []).firing? 5).map fun f => tget 0 f.counts 152) = some 1 := by decide

theorem wit_WaitExpires_met : (expiring 0 [(7, ⟨2, []⟩)]).flue.opened.find? (fun p => p.1 == 7) = some (7, ⟨2, []⟩) ∧
    isEngineObs 1 = false ∧ (expiring 0 [(7, ⟨2, []⟩)]).sigVal 7 + 2 < 2 ^ 32 ∧ wCon.value ≤ (expiring 0 []).sigVal 7 + 2 ∧
    (∀ x ∈ (expiring 0 [(7, ⟨2, []⟩)]).flue.waits, x.sig = 7 → x = wCon) ∧ (expiring 0 []).flue.waits.Nodup ∧
    (expiring 0 []).now ≤ wCon.tick + 1024 * wCon.timeout := by decide

/-- Group 7 of firing 5 with observers 0 and 1. -/
def group7 (arrived : List Nat) (gen : Nat) : Barrier := ⟨5, 3, gen, arrived, [], [(1, gen)], []⟩

def atBar (f : Firing) (b : Barrier) : State :=
  let s := withFir f graph1
  { s with flue := { s.flue with bars := [(7, b)] } }

theorem wit_BarrierArrivals : (atBar (fir 0 [sync 0x13 0 0]) (group7 [] 0)).bar? 7 = some (group7 [] 0) ∧
    (atBar (fir 0 [sync 0x13 0 0]) (group7 [] 0)).sitterSettled = true ∧
    (atBar (fir 0 [sync 0x13 0 0]) (group7 [] 0)).issuer 0 5 = some (fir 0 [sync 0x13 0 0]) ∧
    synBar (sync 0x13 0 0) = 7 ∧ (fir 0 [sync 0x13 0 0]).syncNext 0 0x13 = some (0, sync 0x13 0 0) ∧
    (fir 0 [sync 0x13 0 0]).earlierDone 0 0 = true ∧ has (group7 [] 0).arrived 0 = false ∧
    ((group7 [] 0).arrive 0).complete = false ∧ ((group7 [1] 0).arrive 0).complete = true ∧ (group7 [1] 0).second = [] ∧
    (∀ p ∈ (group7 [1] 0).waiting, p.2 ≤ (group7 [1] 0).gen) ∧ bit (group7 [1] 0).mask 0 = true ∧
    (fir 0 [sync 0x15 0 0]).syncNext 0 0x15 = some (0, sync 0x15 0 0) ∧
    (fir 0 [sync 0x14 0 0]).syncNext 0 0x14 = some (0, sync 0x14 0 0) ∧
    (({ group7 [] 1 with latest := [(0, 0)] } : Barrier).latestOf 0).getD 1 < 1 ∧
    (group7 [] 1).gen ≤ ((group7 [] 1).latestOf 0).getD (group7 [] 1).gen := by decide

def engineGroup : Barrier := { group7 [] 0 with mask := 2 ^ 1280 + 1 }

theorem wit_EngineAndSecondArrivals : (atBar (fir 0 []) engineGroup).bar? 7 = some engineGroup ∧
    (atBar (fir 0 []) engineGroup).sitterSettled = true ∧ (atBar (fir 0 []) engineGroup).inService = true ∧
    (atBar (fir 0 []) engineGroup).firing? 5 = some (fir 0 []) ∧ (fir 0 []).running = true ∧ (fir 0 []).claimHeld = true ∧
    bit engineGroup.mask (engineObserver 0) = true ∧ has engineGroup.arrived (engineObserver 0) = false ∧
    (atBar (fir 0 []) engineGroup).engineIdle 0 = true ∧ (engineGroup.arrive (engineObserver 0)).complete = false ∧
    (atBar (fir 0 [sync 0x13 0 0]) (group7 [0] 0)).bar? 7 = some (group7 [0] 0) ∧ has (group7 [0] 0).arrived 0 = true := by decide

def fabricNamed : State := withFir (fir 0 []) graphFabric
/-- The Sitter is held at group 9, of firing 5. -/
def sitterHeld : State :=
  let s := withFir (fir 0 []) graph1
  { s with flue := { s.flue with bars := [(9, { group7 [1417] 0 with second := [1417], mask := 2 ^ 1417 + 1 })]
                                 sitter := [(f0, .arrive 9, true)] } }

theorem wit_SitterReadsAndSetsSignals : up.flue.sitter = [] ∧ up.sitterUp = true ∧ up.gate f0 0x0131 = none ∧
    up.gate f0 0x0132 = none ∧ (∀ x ∈ up.flue.waits, x.sig ≠ 7) ∧
    up.sigVal 7 + (tget noneOpen up.flue.opened 7).sum < 2 ^ 32 ∧ (2 ^ 32 - 1) + (tget noneOpen up.flue.opened 7).sum < 2 ^ 32 ∧
    up.sigFabric 7 = false ∧ up.sigHolder 7 = none ∧ fabricNamed.sigFabric 7 = true ∧ fabricNamed.sigNamed 7 = true ∧
    localHeld.sigFabric 7 = false ∧ (localHeld.sigHolder 7).isSome = true ∧ localHeld.gate f0 0x0132 = none ∧
    sitterHeld.sitterSettled = true ∧ sitterHeld.flue.sitter ≠ [] ∧ sitterHeld.gate f0 0x0130 = none := by decide

def sitterGroup (arrived : List Nat) : Barrier := { group7 arrived 0 with mask := 2 ^ 1417 + 1 }

theorem wit_SitterArrivesAtBarriers : up.gate f0 0x0133 = none ∧ up.sitterUp = true ∧ up.flue.sitter = [] ∧ up.bar? 7 = none ∧
    (atBar (fir 0 []) (group7 [] 0)).bar? 7 = some (group7 [] 0) ∧ bit (group7 [] 0).mask 1417 = false ∧
    (atBar (fir 0 []) (sitterGroup [])).bar? 7 = some (sitterGroup []) ∧ bit (sitterGroup []).mask 1417 = true ∧
    has (sitterGroup []).arrived 1417 = false ∧ (atBar (fir 0 []) (sitterGroup [])).arrivalSaved 7 1417 (sitterGroup []) = false ∧
    ((sitterGroup []).arrive 1417).complete = false ∧
    (has (sitterGroup [1417]).arrived 1417 || (atBar (fir 0 []) (sitterGroup [1417])).arrivalSaved 7 1417 (sitterGroup [1417])) = true := by decide


/-! ### Witnesses: power, clock and cooling -/

/-- In the power-fail sequence of a cause, begun in normal service or not. -/
def failing (cause : Nat) (live below : Bool) : State :=
  { up with power := { up.power with seq := some cause, seqLive := live, below53 := below }
            svc := { up.svc with phase := .down 162 } }

def inPhase (p : Phase) : State := { up with svc := { up.svc with phase := p } }

theorem wit_PowerFailCauses : up.svc.phase = .service ∧ up.power.seq = none ∧ (52999 < 53000 ∧ 63000 < 63001) ∧
    (inPhase (.recovery 0)).svc.phase = .recovery 0 ∧ (inPhase (.down 163)).svc.phase = .down 163 ∧
    (inPhase (.down 163)).power.seq = none ∧ (failing 1 true false).power.seq = some 1 ∧
    (failing 1 false false).power.seqLive = false ∧ (failing 1 true false).powered = true ∧
    (failing 1 true false).power.seqLive = true := by decide

theorem wit_PowerFailSequenceStopsWork : (failing 1 true false).powered = true ∧ (failing 2 false true).power.seq = some 2 ∧
    (∀ c, (failing 1 true false).svc.phase ≠ .recovery c) := ⟨by decide, by decide, fun _ h => by cases h⟩

/-- The sequence with firing 5 in flight. -/
def failingFir : State := { failing 1 true false with fe := (withFir (fir 0 []) graph1).fe }

theorem wit_PowerFailReleaseIsWarmReset : (failing 1 true false).power.below53 = false ∧
    (failing 1 false false).power.seqLive = false ∧ (failing 1 true true).power.below53 = true ∧
    failingFir.flue.opened = [] ∧ failingFir.firing? 5 = some (fir 0 []) ∧ (fir 0 []).ending = false ∧
    (fir 0 []).launched = true := by decide

theorem wit_PowerLossKeepsTheArray : up.powered = true ∧ State.reset.powered = false := by decide

def boot (mv : Nat) (fail1 : Bool) : PowerUpEnv :=
  ⟨mv, fail1, false, [], ⟨true, true, []⟩, none, ⟨[], [], [], false, 0⟩⟩

def twoCopies : State := { State.reset with sec := { State.reset.sec with fw := [⟨true, 0, 0⟩, ⟨true, 0, 0⟩] } }

theorem wit_PowerUpEntersService : (boot 53999 false).vinMv < 54000 ∧ 63000 < (boot 63001 false).vinMv ∧
    State.reset.svc.phase = .off 162 ∧ State.reset.power.pwrFailN = true ∧ (boot 54000 true).railFail1 = true ∧
    (boot 63000 false).railFail4 = false ∧ (boot 63000 false).boot.keysOk = true ∧ (boot 63000 false).boot.copiesOk = true ∧
    (boot 63000 false).stacksFail = [] ∧ twoCopies.prsBroken = false ∧ (inPhase (.down 163)).svc.phase = .down 163 ∧
    (inPhase (.down 163)).power.pwrFailN = true := by decide

theorem wit_PowerUpEntersService_copies : ∀ i, i < 2 → ∃ f, twoCopies.sec.fw[i]? = some f ∧ f.valid = true ∧
    twoCopies.prsValue 3 ≤ f.version := by
  intro i h
  have : i = 0 ∨ i = 1 := by omega
  rcases this with rfl | rfl
  · exact ⟨⟨true, 0, 0⟩, rfl, rfl, by decide⟩
  · exact ⟨⟨true, 0, 0⟩, rfl, rfl, by decide⟩

/-- A pass in flight, or one that waits to run again. -/
def pass1 : Pass := ⟨0, 5, 0, 0, 0, 0, false, [], []⟩
def stoppedPass1 : Pass := { pass1 with stopped := true }

theorem wit_ClockSteps : up.powered = true ∧ (∀ p ∈ ({ up with passes := [stoppedPass1] } : State).passes, p.stopped = true) ∧
    (∃ p ∈ ({ up with passes := [pass1] } : State).passes, p.stopped = false) ∧ ThrottleCause.above10kW ≠ .junction100 := by decide

theorem wit_FastThrottle : up.powered = true ∧ ThrottleCause.junction100 = .junction100 := by decide
theorem wit_FastThrottle_bounds : up.Bounds := up_bounds

/-- A rail that has lost n phases. -/
def phases (n : Nat) : State := { up with power := { up.power with phasesLost := [(3, n)] } }

theorem wit_RegulatorPhases : up.powered = true ∧ State.reset.powered = false ∧ tget 0 up.power.phasesLost 3 = 0 ∧
    tget 0 (phases 1).power.phasesLost 3 ≤ 1 ∧ 2 ≤ tget 0 (phases 2).power.phasesLost 3 := by decide

theorem wit_LostParts : State.reset.powered = false ∧ up.powered = true ∧ up.svc.phase = .service := by decide

/-! ### Witnesses: registers, mailboxes and events -/

/-- F0 may send; a function may not; and the gate's codes outside normal service, at the edge of a warm reset too. -/
theorem wit_CommandGate : mailboxOf (.signalRead f0 7) = some (f0, 0x0131) ∧ (Instr.signalRead f0 7).wf = true ∧
    State.reset.sitterUp = false ∧ (∀ p, Instr.signalRead f0 7 ≠ .resetCold p true) ∧ up.sitterUp = true ∧
    up.gate f1 0x0131 = some (.s 301) ∧ has [0] 0 = true ∧ has [0] 1 = false ∧
    (inPhase (.recovery 0)).recovering = true ∧ (inPhase (.recovery 0)).gate f0 0x0131 = some (.s 342) ∧
    ((inPhase .warm).wr secStateRecovery 0 1).recovering = true ∧ (inPhase .warm).recovering = false ∧
    (inPhase .warm).gate f0 0x0131 = some (.s 362) :=
  ⟨by decide, by decide, by decide, (fun _ h => by cases h), by decide⟩

/-- HOLD_LIMIT and TAIL are RW; FLU_STATUS is W1C; PRS_STATUS is mixed. -/
theorem wit_RegisterAccess : up.gate f0 0x0010 = none ∧ up.gate f0 0x0011 = none ∧ up.sitterUp = true ∧ blockOf 17 = none ∧
    slotAt .dmp 0 0 = none ∧ up.findAt .dmp 0 0xFFC = none ∧ up.findAt .dmp 0 0 = some (dmpCfgReg, 0) ∧
    up.findAt .fe 0 0x150 = some (feHringPtrReg, 0) ∧ dmpCfgReg.hasAcc .pw = false ∧ dmpCfgReg.hasAcc .pw2 = false ∧
    secFloorReg.hasAcc .pw2 = true ∧ up.findAt .sec 0 secFloorReg.off = some (secFloorReg, 0) ∧
    dmpCfgReg ∉ [modClkStepReg, dmaRingBaseReg, dmaRingCtlReg, dmaDoorbellReg, feHringBaseReg, feSqDoorbellReg,
      sitMbDoorbellReg, dmpReleaseReg] ∧
    has up.pci.inReset 0 = false ∧ barWrites 0 .fe = true ∧ barWrites 0 .dmp = false := by decide

/-- The first submission slot and the last; MOD_REST_CFG is persistent, with writes left and with none. -/
theorem wit_RegisterAccess_slots : (∃ k, slotAt .fe 0 k = some (0, 0)) ∧ up.findAt .mod 0 modRestCfgReg.off = some (modRestCfgReg, 0) ∧
    modRestCfgReg.hasAcc .pw = true ∧ modRestCfgReg.hasAcc .pw2 = false ∧ slotAt .mod 0 modRestCfgReg.off = none ∧
    prsNumber modRestCfgReg = some 9 ∧ (up.prsBucket 9).1 ≠ 0 ∧ up.prsWorn 9 = false :=
  ⟨⟨0x100000, by decide⟩, by decide⟩

/-- MOD_REST_CFG (register 9) has committed a value at a COUNT, in its first slot or its last. -/
def committed (slot count : Nat) : State :=
  { up with prs := { up.prs with cells := [(2 * (36 + slot) + count % 2, some ⟨5, count⟩)] } }

/-- Its bucket is empty. -/
def drained : State := { committed 0 2 with prs := { (committed 0 2).prs with tokens := [(9, 0, 0)] } }

theorem wit_PersistentWrites : State.reset.powered = false ∧ up.powered = true ∧ (drained.prsBucket 9).1 = 0 ∧
    (up.prsBucket 9).1 ≠ 0 ∧ (committed 0 2).prsActive 9 = some (0, ⟨5, 2⟩) ∧
    (committed 0 189999998).prsActive 9 = some (0, ⟨5, 189999998⟩) ∧ (committed 0 189999999).prsActive 9 = some (0, ⟨5, 189999999⟩) ∧
    (committed 3 200000000).prsActive 9 = some (3, ⟨5, 200000000⟩) ∧ (committed 3 199999999).prsActive 9 = some (3, ⟨5, 199999999⟩) ∧
    ({ up with prs := { up.prs with cells := [(72, none)] } } : State).prsActive 9 = none ∧
    prsCritical 9 = false ∧ prsCritical 2 = true := by decide

theorem wit_PersistentWrites_bounds : (committed 3 200000000).Bounds := ⟨by decide, by decide, by decide, by decide⟩

/-- Mailbox 0 of F0 running a command, or done with SEQ 4. -/
def boxed (st : Nat) : State :=
  up.setBox f0 ⟨st, ⟨4, 0x0131, 9, false, 0⟩, if st = 2 then some ⟨4, 9, .s 0, false, []⟩ else none, [], false⟩

theorem wit_Doorbells : fnBoxes 1 ≤ 4 ∧ 7 < fnBoxes 0 ∧ has up.pci.inReset 0 = false ∧ up.powered = true ∧
    (up.wr sitCoreRestarting 0 1).on sitCoreRestarting 0 = true ∧ up.on sitCoreRestarting 0 = false ∧ ((boxed 1).box f0).st = 1 ∧
    ((boxed 2).box f0).reply = some ⟨4, 9, .s 0, false, []⟩ ∧ ((boxed 2).box f0).st ≠ 1 ∧ (up.box f0).reply = none ∧
    up.gate f0 0x0131 = none ∧ up.gate f0 0x0666 = some (.s 300) ∧
    has ({ up with pci := { up.pci with inReset := [0] } } : State).pci.inReset 0 = true := by decide

theorem wit_EventsAndPolls : up.powered = true ∧ up.gate f0 0x0001 = none ∧ up.gate f1 0x0002 = none ∧ up.sitterUp = true ∧
    eventFns (.s 346) = [0, 2] ∧ (∃ e ∈ tget [] (up.post (.s 258) []).sit.events 0, e.code = .s 258) ∧
    eventFns (.s 258) = [0] ∧ (∀ e ∈ tget [] up.sit.events 0, e.code ≠ .s 258) ∧ tget 0 up.sit.nextAt 0 ≤ up.now ∧
    up.now < tget 0 ({ up with sit := { up.sit with nextAt := [(0, 1)] } } : State).sit.nextAt 0 ∧
    (up.pci.fns[0]?).map (·.d3hot) = some false := by decide

/-! ### Witnesses: operations, passes and shelves -/

/-- Firing 5 with descriptors on shelf 0, none granted but those named. -/
def ops (granted l : List Nat) : Firing := { fir 0 l with granted := granted }

/-- A second firing of another queue whose operation 9 is in flight. -/
def other (l : List Nat) : Firing := { fir 1 l with fseq := 6, queue := 1, granted := [9] }

/-- A pass of a tile with a saggar, of operation n. -/
def sagOp (n : Nat) : Nat := 2 ^ 24 + 2 ^ 392 + 2 ^ 448 * n

/-- That graph resident, with requests held. -/
def requested (f : Firing) (l : List (Nat × Nat)) : State :=
  let s := withFir f graph1
  { s with fe := { s.fe with grants := l } }

theorem wit_OperationGrants : (failing 1 true false).issues = false ∧
    (let s := withFir (ops [] [sagOp 1]) graph1
     s.firing? 5 = some (ops [] [sagOp 1]) ∧ s.issues = true ∧ (ops [] [sagOp 1]).asks 1 = true ∧ s.fe.grants = [] ∧
       s.opsInFlight < 4096 ∧ s.accForeign (ops [] [sagOp 1]) (s.accExtents (ops [] [sagOp 1]) 1) = false ∧
       s.accEarlier (ops [] [sagOp 1]) 1 (s.accExtents (ops [] [sagOp 1]) 1) = false) ∧
    (let s := requested (ops [] [sagOp 1]) [(5, 1)]
     s.firing? 5 = some (ops [] [sagOp 1]) ∧ s.issues = true ∧ s.fe.grants = [(5, 1)] ∧ s.opsInFlight < 4096 ∧
       s.accForeign (ops [] [sagOp 1]) (s.accExtents (ops [] [sagOp 1]) 1) = false ∧
       s.accEarlier (ops [] [sagOp 1]) 1 (s.accExtents (ops [] [sagOp 1]) 1) = false) := by decide

theorem wit_OperationGrants_earlier :
    let f := ops [0] [sagOp 0, sagOp 1]
    (withFir f graph1).accEarlier f 1 ((withFir f graph1).accExtents f 1) = true ∧ f.asks 1 = true ∧
      (withFir f graph1).accForeign f ((withFir f graph1).accExtents f 1) = false := by decide

theorem wit_OperationGrants_foreign :
    let f := ops [] [sagOp 1]
    let s := { withFir f graph1 with fe := { (withFir f graph1).fe with firings := [f, other [sagOp 9]] } }
    s.accForeign f (s.accExtents f 1) = true ∧ tget 0 f.counts 160 = 0 ∧ s.opsInFlight < 4096 := by decide

theorem wit_OperationGrants_full :
    4096 ≤ (withFir { fir 0 [0] with granted := List.replicate 4096 0 } graph1).opsInFlight := by
  unfold State.opsInFlight
  show 4096 ≤ ((List.replicate 4096 0).filter (Firing.opInFlight _)).length + 0
  exact Nat.le_of_eq ((congrArg List.length
    (List.filter_replicate_of_pos (by decide))).trans List.length_replicate).symm

/-- A pass of the whole shelf of kiln 0. -/
def shelfOp : Nat := 2 ^ 11

/-- Throttled, with that firing. -/
def gated : State := let s := withFir (fir 0 [0]) graph1; { s with power := { s.power with throttled := true } }

theorem wit_PassesStart :
    let s := withFir (fir 0 [0]) graph1
    s.issues = true ∧ s.onObserver 0 = some (fir 0 [0]) ∧ s.firing? 5 = some (fir 0 [0]) ∧ s.power.throttled = false ∧
    s.stoppedPass (fir 0 [0]) 0 = none ∧ nextPass ((fir 0 [0]).items 0) 0 = some (0, 0) ∧
    has (fir 0 [0]).granted (opOpIndex 0) = true ∧ has (fir 0 [0]).granted (opOpIndex (2 ^ 448)) = false ∧
    nextPass ((fir 0 [2 ^ 448]).items 0) 0 = some (0, 2 ^ 448) ∧ (fir 0 [0]).reserves 0 0 = false ∧
    (fir 0 [0]).issuedBefore 0 0 = false ∧ s.tilesFree (fir 0 [0]) 0 0 0 = true ∧ s.earlierSealed (fir 0 [0]) 0 0 0 = true ∧
    opGang shelfOp = 2 ∧ nextPass ((fir 0 [shelfOp]).items 0) 0 = some (0, shelfOp) ∧ opOs 0 = false ∧
    s.chainOn (fir 0 [0]) 0 0 0 = [] ∧ gated.power.throttled = true ∧ gated.issues = true ∧
    gated.onObserver 0 = some (fir 0 [0]) := by decide

/-- The 16 × 16 cells of a tile have a number each. -/
theorem wit_PassesStart_cells : ((opCells 0).map fun p => (withFir (fir 0 [0]) graph1).cellKey 0 p.1 p.2).Nodup := by
  decide +kernel

theorem wit_PassesStart_again :
    let s := { withFir (fir 0 [0]) graph1 with passes := [stoppedPass1] }
    s.stoppedPass (fir 0 [0]) 0 = some stoppedPass1 ∧ s.tilesFree (fir 0 [0]) 0 0 0 = true ∧
      s.earlierSealed (fir 0 [0]) 0 0 0 = true := by decide

/-- Firing 5 with a pass in flight. -/
def streaming : State := { withFir (fir 0 [0]) graph1 with passes := [pass1] }

theorem wit_PassesDrain : streaming.passes.find? (fun p => p.id == 0) = some pass1 ∧ streaming.firing? pass1.fseq = some (fir 0 [0]) ∧
    streaming.drainsNext pass1 = true ∧ pass1.failedRuns < 2 := by decide

/-- An error of the arrays that the compare test sees, and no error. -/
def wrongSum : PassErr := ⟨0, 0, 0, 0x3F800000, 0⟩

theorem wit_PassesDrain_failing :
    (let i := streaming.passIn (fir 0 [0]) pass1 [wrongSum]; i.failing i.run = [0]) ∧
    (let i := streaming.passIn (fir 0 [0]) pass1 []; i.failing i.run = []) := by decide +kernel

theorem wit_HardFaults : streaming.shelfBusy 0 = true ∧ streaming.shelfOut 0 0 = false ∧ streaming.powered = true ∧
    State.reset.powered = false ∧ up.shelfBusy 0 = false ∧
    5 ∈ streaming.claimants 0 ∧ streaming.firing? 5 = some (fir 0 [0]) ∧ (fir 0 [0]).launched = true ∧ (fir 0 [0]).ending = false ∧
    streaming.freeShelf 0 = some 0 ∧ streaming.builtShelf 0 0 = 0 ∧
    (((((streaming.wr klnSpareMap0Failed 0 1).wr klnSpareMap0NextFailed 0 1).wr klnSpareMap1Failed 0 1).wr
      klnSpareMap1NextFailed 0 1)).freeShelf 0 = none ∧
    ({ up with rep := { up.rep with lostKilns := [0] } } : State).shelfOut 0 0 = true := by decide

/-- An elementwise sum on shelf 0. -/
def vuSum : VuJob := ⟨0, 0, 5, 0, .add, false, .rne, [.tensor 0 1 1, .tensor 4096 1 1], 16, 16, [(8192, 1)], 1⟩

theorem wit_TileAndVectorWork :
    let s := withFir (fir 0 []) graph1
    up.onObserver 0 = none ∧ s.issues = true ∧ s.onObserver 0 = some (fir 0 []) ∧ s.firing? 5 = some (fir 0 []) ∧
    s.graph? 1 = some graph1 ∧ vuSum.fits [] = true ∧ 0 + 4096 ≤ sliceBytes ∧
    s.shelfHeld (fir 0 []) 0 [(0, 4096)] = false ∧ s.shelfHeld (fir 0 []) 0 (vuSum.reads ++ vuSum.writes []) = false ∧
    s.shelfHeld { fir 0 [] with work := [(0, [(sync 0x11 3 0, .running)])] } 0 [(0, 4096)] = true := by decide

/-! ### Witnesses: stack memory and DMA -/

/-- Lines of stack 0 with uncorrectable errors. -/
def bad (l : List Nat) (s : State) : State := { s with mem := { s.mem with badLines := l } }

/-- Stripe 1 awaits its parity. -/
def stale (s : State) : State := { s with mem := { s.mem with staleParity := [1024] } }

theorem wit_StackLines : up.powered = true ∧ up.stackAddr (2 ^ 40 - 1) = true ∧ up.stackAddr (2 ^ 40) = false ∧
    up.lineBad (lineOf 70) = false ∧ (bad [64] up).lineBad (lineOf 70) = true ∧ (bad [64] up).canRebuild (lineOf 70) = true ∧
    up.canRebuild (lineOf 70) = true ∧ (stale up).canRebuild 1024 = false ∧ (stale up).lineBad 1024 = false ∧
    (bad [0, 64] up).unreadable (lineOf 70) = true ∧ (bad [0, 64] sInc).firing? 5 = some fInc ∧ fInc.ending = false ∧
    fInc.launched = true ∧ has fInc.lines 64 = false ∧ has ({ fInc with lines := [64, 128] } : Firing).lines 64 = true ∧
    up.writeBlocked 64 4 = none ∧ up.writeBlocked 64 64 = none ∧ 60 + 4 ≤ 64 ∧ (1024 : Nat) ∈ (stale up).mem.staleParity ∧
    (∀ l ∈ stripeLines 1024, (stale up).lineBad l = false) ∧ (1024 : Nat) ∉ up.mem.staleParity ∧
    (∃ l ∈ stripeLines 1024, (bad [1024] (stale up)).lineBad l = true) := by decide

/-- Stack 0 with channel 3 failed and its rebuild running. -/
def rebuilding : State := (up.wr stkStatusFailedCh 0 3).wr stkStatusRebuilding 0 1

/-- An FP32 accumulate at the last address of the stacks that takes one, and one in a line that cannot be read. -/
theorem wit_AddersAndChannels : up.powered = true ∧ accElemBytes 0 = 4 ∧ up.stackAddr (2 ^ 40 - 4) = true ∧
    up.stackAddr (2 ^ 40 - 4 + accElemBytes 0 - 1) = true ∧ up.badIn (2 ^ 40 - 4) (accElemBytes 0) = none ∧
    up.instsMeeting 0 (accElemBytes 2) = [] ∧ (bad [0, 64] up).badIn 64 (accElemBytes 2) = some 64 ∧
    has up.rep.lostStacks 0 = false ∧ up.rd stkStatusFailedCh 0 = 31 ∧ sInc.firing? 5 = some fInc ∧
    rebuilding.rd stkStatusFailedCh 0 = 3 ∧ has rebuilding.rep.lostStacks 0 = false ∧ rebuilding.on stkStatusRebuilding 0 = true ∧
    up.on stkStatusRebuilding 0 = false ∧ has ({ up with rep := { up.rep with lostStacks := [0] } } : State).rep.lostStacks 0 = true ∧
    rebuilding.rd stkStatusFailedCh 0 < 16 := by decide

/-- A copy of 64 bytes of the scratchpad, from byte 0 to 4096. -/
def copy64 : Nat := 1 + 2 ^ 8 * 1 + 2 ^ 12 * 1 + 2 ^ 32 * 64 + 2 ^ 128 * 4096

/-- The copy as a slot of a ring: OWN set, of firing slot k. -/
def ringWord (k : Nat) : Nat := copy64 + 2 ^ 400 * k + 2 ^ 511

/-- A memory ring of engine 0 at address 0 of a space, whose first slot holds a word. -/
def ringed (sp w : Nat) (s : State) : State :=
  let s := (s.wr dmaRingBaseSpace 0 sp).wr dmaRingCtlEnable 0 1
  let m := mwriteN ⟨[], []⟩ 0 (natLe 64 w)
  { s with mem := if sp = 3 then { s.mem with stack := m } else { s.mem with scratch := m }, engines := [(0, ⟨[], true, false, 0⟩)] }

theorem wit_RingsAndFetches : up.powered = true ∧ up.on dmaRingCtlEnable 0 = false ∧ (ringed 3 0 up).on dmaRingCtlEnable 0 = true ∧
    (ringed 3 0 up).engineRuns 0 = true ∧ (ringed 3 0 up).engineHere 0 = true ∧
    (ringed 3 0 up).onObserver (engineObserver 0) = none ∧ ((ringed 3 0 up).engine 0).awake = true ∧
    (ringed 3 0 up).rd dmaRingBaseSpace 0 = 3 ∧ (ringed 1 0 up).rd dmaRingBaseSpace 0 = 1 ∧
    64 * (ringed 3 0 up).rd dmaRingBaseAddr 0 + 64 * ((ringed 3 0 up).rd dmaHeadHead 0 % (ringed 3 0 up).ringSlots 0) = 0 ∧
    (bad [0, 64] (ringed 3 0 up)).badIn 0 64 = some 0 ∧ (∀ l ∈ linesOf 0 64, (ringed 3 0 up).lineBad l = false) ∧
    dmaOwn (leNat ((ringed 3 0 up).readSpace 3 0 64)) = 0 ∧ leNat ((ringed 3 (ringWord 0xFFFF) up).readSpace 3 0 64) = ringWord 0xFFFF ∧
    dmaOwn (ringWord 0xFFFF) ≠ 0 ∧ dmaFslot (ringWord 0xFFFF) = 0xFFFF ∧ (ringed 3 0 up).inService = true ∧
    (⟨[], [], [], false⟩ : DmaCtx).codes (ringWord 0xFFFF) = [] ∧
    (⟨[], [], [], false⟩ : DmaCtx).codes (ringWord 0xFFFF + 6) ≠ [] := by decide

/-- Sixteen descriptors held; the firing's own list; a firing's slot in the ring of memory. -/
theorem wit_RingsAndFetches_firing : 16 ≤ (List.replicate 16 copy64).length ∧
    (let f := fir 1280 [copy64 + 2 ^ 511]
     let s := (withFir f graph1).wr dmaRingCtlEnable 0 1
     s.onObserver (engineObserver 0) = some f ∧ f.next (engineObserver 0) = some (0, copy64 + 2 ^ 511) ∧ s.firing? 5 = some f ∧
       s.inService = true ∧ s.on dmaRingCtlEnable 0 = true ∧ dmaOwn (copy64 + 2 ^ 511) = 1 ∧ dmaOwn copy64 = 0 ∧
       s.outsideJob (copy64 + 2 ^ 511) = false ∧ f.ending = false) ∧
    (let f := fir 0 []
     let s := ringed 3 (ringWord 0) (withFir f graph1)
     dmaFslot (ringWord 0) ≠ 0xFFFF ∧ s.fe.firings.find? (fun f => f.fslot == dmaFslot (ringWord 0)) = some f ∧ f.running = true ∧
       s.firing? 5 = some f ∧ s.outsideJob (ringWord 0) = false ∧ (s.ctxOf (some f)).codes (ringWord 0) ≠ [] ∧
       (ringed 3 (ringWord 1) (withFir f graph1)).fe.firings.find? (fun f => f.fslot == dmaFslot (ringWord 1)) = none) := by decide

/-- Engine 0 with a descriptor of firing 5. -/
def held (h : HeldDesc) : State :=
  { withFir { fir 1280 [h.word] with granted := [0] } graph1 with engines := [(0, ⟨[h], true, false, 1⟩)] }

def heldCopy (w : Nat) (started waiting met readHeld : Bool) : HeldDesc :=
  ⟨0, w, some 5, some 0, 0, started, waiting, met, readHeld, 0, false, [], List.replicate 64 0, []⟩

theorem noBad (s : State) (h : s.mem.badLines = []) (hr : ∀ n, s.on stkStatusRebuilding n = false) (l : Nat) : s.lineBad l = false := by
  simp [State.lineBad, State.lineGone, h, hr, has]

/-- The copy once signal 7 reaches 1. -/
def waitCopy : Nat := copy64 + 2 + 2 ^ 352 * 7 + 2 ^ 368

def copier (w : Nat) : Firing := { fir 1280 [w] with granted := [0] }

theorem wit_LocalDescriptors :
    let h := heldCopy copy64 false false false false
    let f := copier copy64
    (held h).engineRuns 0 = true ∧ (held h).inService = true ∧ (∀ l, (held h).lineBad l = false) ∧ h.fseq = some f.fseq ∧
      (held h).firing? 5 = some f ∧ (held h).dmaRemote h.word = false ∧ splitHeld ((held h).engine 0).held = ([], some h) ∧
      dmaHost h.word = false ∧ h.granted (some f) = true ∧ h.granted (some { f with granted := [] }) = false ∧
      (held h).flue.opened = [] ∧ (held h).passes = [] ∧ (held h).gateOf (some f) ((held h).dmaTable (some f) h.word) = .free ∧
      (held h).gateOf (some f) ((held h).dmaReads (some f) h.word ((held h).dmaOffsets (some f) h.word)) = .free ∧
      (held h).badIndex (some f) h.word ((held h).dmaOffsets (some f) h.word) = false ∧ dmaOp h.word = 1 :=
  ⟨by decide, by decide, noBad _ rfl (fun n => by simp [held, withFir, up, State.on, State.rd, State.reset, tget]; decide), by decide⟩

theorem wit_LocalDescriptors_wait :
    let h := heldCopy waitCopy false false false false
    dmaOp waitCopy = 3 ∧ splitHeld ((held h).engine 0).held = ([], some h) ∧ (held h).sigVal 7 < dmaWaitVal waitCopy ∧
      (∀ x ∈ (held h).flue.waits, x.sig ≠ dmaWaitSig waitCopy) ∧ dmaWaitVal waitCopy ≤ ((held h).wr fluSigValueValue 7 1).sigVal 7 ∧
      ((held (heldCopy waitCopy false true false false)).engine 0).held.find? (·.waiting) = some (heldCopy waitCopy false true false false) ∧
      (heldCopy waitCopy false true true false).met = true := by decide

theorem wit_LocalDescriptors_readHeld :
    let h := heldCopy copy64 true false false true
    ((held h).engine 0).held.find? (·.readHeld) = some h ∧ (held h).gateOf (some (copier copy64)) [(3, 0, 64)] = .free ∧
      (copier copy64).ending = false := by decide

theorem wit_LocalDescriptors_complete :
    let h := heldCopy copy64 true false false false
    let b := ((held h).dmaMoved (some (copier copy64)) copy64 h.src).bytes
    ((held h).engine 0).held = h :: [] ∧ h.started = true ∧ h.placed = false ∧ h.todo = [] ∧
      (held h).passing (engineObserver 0) h.serial = false ∧ dmaIdx copy64 ≠ 2 ∧ dmaSigEn copy64 = 0 ∧ dmaDstSpace copy64 = 1 ∧
      (held h).shardAt ((held h).addr (some (copier copy64)) 1 true (dmaDstAddr copy64)) (b ++ dmaCrcOf copy64 b).length = none ∧
      b.length = 64 ∧ b.length % accElemBytes 0 = 0 ∧ (held h).instsMeeting 0 64 = [] := by decide

/-- The sum of 64 bytes of scratchpad into the stack. -/
def sum64 : Nat := copy64 + 1 + 2 ^ 12 * 2
theorem wit_LocalDescriptors_sum : dmaOp sum64 = 2 ∧ dmaDstSpace sum64 = 3 := by decide

/-- A copy from the host into scratch, for a firing or for the Sitter. -/
def hostCopy : Nat := copy64 + 2 ^ 8 * 4

theorem wit_HostAccessErrors :
    let h := heldCopy hostCopy true false false false
    let s := held h
    let asks := fun (h : HeldDesc) => h.started && dmaHost h.word && s.hostAsked 0 h
    (s.engine 0).held.find? asks = some h ∧ asks (heldCopy copy64 true false false false) = false ∧ asks { h with started := false } = false ∧
      s.firing? 5 = some (copier hostCopy) ∧ (copier hostCopy).launched = true ∧ (copier hostCopy).ending = false ∧
      tget 0 (copier hostCopy).counts 144 = 0 ∧ tget 0 ({ copier hostCopy with counts := [(144, 1)] } : Firing).counts 144 ≠ 0 ∧
      ({ h with fseq := none } : HeldDesc).fseq = none := by decide
/-! ### Witnesses: firings -/

/-- Queue 0 enabled, its slot 0 as given, its doorbell rung. -/
def submitted (w : Nat) : State :=
  let s := (((withFir (fir 0 []) graph1).wr feSqCfgEnable 0 1).wr feFseqEndEnd 0 100).wr feFseqNext 0 9
  { s with fe := { s.fe with firings := [], slots := tset 0 s.fe.slots (slotKey 0 0) w, woken := [0] } }

/-- A slot of graph 1, owned by the front end. -/
def ownedSlot : Nat := 2 ^ 511 + 1

theorem wit_Acceptance : up.powered = true ∧ up.power.seq.isNone = true ∧ (failing 1 true false).power.seq.isSome = true ∧ up.issues = true ∧
    (failing 1 true false).issues = false ∧ has up.fe.woken 0 = false ∧ (submitted ownedSlot).issues = true ∧
    (submitted ownedSlot).rd feSqCfgHead 0 = 0 ∧ (∀ f ∈ (submitted ownedSlot).fe.firings, f.queue = 0 → f.slot = 0 → f.logged = true) ∧
    has (submitted ownedSlot).fe.woken 0 = true ∧ (submitted ownedSlot).subSlot 0 ((submitted ownedSlot).rd feSqCfgHead 0) = ownedSlot ∧
    subOwn ownedSlot ≠ 0 ∧ subGraph ownedSlot = 1 ∧ subCplKind ownedSlot = 0 ∧ subInlineLen ownedSlot = 0 ∧
    (submitted ownedSlot).slotStatus 0 ownedSlot = 0 ∧ (submitted ownedSlot).freeFslot = some 0 ∧
    (submitted ownedSlot).rd feFseqNext 0 < (submitted ownedSlot).rd feFseqEndEnd 0 ∧
    (submitted (ownedSlot + 1)).slotStatus 0 (ownedSlot + 1) = 1 ∧ subOwn ((submitted 0).subSlot 0 0) = 0 ∧
    (submitted ownedSlot).on feSqCfgEnable 0 = true ∧ (submitted ownedSlot).on feSqCfgPtask 0 = false ∧
    up.on feSqCfgEnable 0 = false ∧ imgPersistent graph1.header ≠ 1 ∧ up.gate f0 0x0110 = none ∧ up.sitterUp = true ∧
    subOwn (up.subSlot 0 0) = 0 ∧ subOwn ((submitted ownedSlot).subSlot 0 0) ≠ 0 ∧ subOwn ((submitted ownedSlot).subSlot 0 1) = 0 ∧
    (submitted (ownedSlot + 2 ^ 40)).subSlot 0 0 = ownedSlot + 2 ^ 40 := by decide

/-- A slot refused for the persistent graph that it names, and one refused with the ledger full. -/
theorem wit_Acceptance_status :
    imgPersistent ({ graph1 with header := 2 ^ 49 } : Graph).header = 1 ∧
    (withFir (fir 0 []) { graph1 with header := 2 ^ 49 }).graph? 1 = some { graph1 with header := 2 ^ 49 } ∧
    up.graph? (subGraph (ownedSlot + 1)) = none ∧ (submitted ownedSlot).ledgerUsed < 65536 ∧ (submitted ownedSlot).logRoom = true := by decide

/-- Every FSLOT is taken. -/
theorem wit_Acceptance_full (s : State) (h : s.fe.firings = (List.range 4096).map fun k => { fir 0 [] with fslot := k }) :
    s.freeFslot = none := by
  rw [State.freeFslot, List.find?_eq_none]
  intro k hk
  have : has (s.fe.firings.map (·.fslot)) k = true := by
    simp [has, h, List.mem_range.mp hk]
  simp_all [has]

/-- A record of firing 5 being written. -/
def rec5 (kind : Nat) : LogRec := ⟨0, kind, 0, 5, 1, 0, 0, 0, 0, 1, 0, 0, 0, false, 0, 0, 0, 0, false⟩

/-- Firing 5 in a state, its record of a kind being written. -/
def writing (kind : Nat) (f : Firing) : State :=
  let s := withFir f graph1
  { s with fe := { s.fe with writing := [rec5 kind] } }

theorem wit_Acceptance_logged :
    (writing 1 { fir 0 [] with logged := false }).firing? 5 = some { fir 0 [] with logged := false } ∧
    (writing 1 (fir 0 [])).fe.asked = [] ∧ (writing 1 (fir 0 [])).fe.writing.find? (fun r => r.kind == 1 && r.fseq == 5) = some (rec5 1) ∧
    up.fe.writing.any (fun r => r.kind == 1 && r.fseq == 5) = false := by decide

/-- Firing 5 accepted. -/
def accepted : Firing := { fir 0 [] with st := .accepted, snap := none, claimHeld := false, attempts := 0, granted := [] }

theorem wit_Launches :
    (withFir accepted graph1).releaseDone.firing? 5 = some accepted ∧ (withFir accepted graph1).releaseDone.graph? 1 = some graph1 ∧
    accepted.st ≠ .switched ∧ (withFir accepted graph1).releaseDone.mayTake accepted = true ∧
    (∀ l, (withFir accepted graph1).lineBad l = false) ∧
    (withFir accepted graph1).releaseDone.exchangeReady 1 ((withFir accepted graph1).releaseDone.snapshot accepted graph1) = true ∧
    (let f := { accepted with snap := some snap1, st := .faulted }
     (withFir f graph1).releaseDone.firing? 5 = some f ∧ (withFir f graph1).releaseDone.mayTake f = true) :=
  ⟨by decide, by decide, by decide, by decide, noBad _ rfl (fun n => by simp [withFir, up, State.on, State.rd, State.reset, tget]; decide), by decide, by decide⟩

/-- A firing of another queue holds the claim, its operation not over. -/
theorem wit_Launches_waits :
    let h := { fir 0 [0] with fseq := 6, queue := 1 }
    let s := { withFir accepted graph1 with fe := { (withFir accepted graph1).fe with firings := [accepted, h] } }
    s.releaseDone.firing? 5 = some accepted ∧ h ∈ s.releaseDone.fe.firings ∧ s.releaseDone.opsOver h = false ∧
      claimsMeet (s.releaseDone.claimOf accepted) (s.releaseDone.claimOf h) = true := by decide

/-- Two things that hold an accepted firing, and a bucket whose parameter has the other copy current. -/
theorem wit_Launches_held :
    ({ withFir accepted graph1 with svc := { up.svc with resting := true } } : State).releaseDone.svc.resting = true ∧
    ({ withFir accepted graph1 with power := (failing 1 true false).power } : State).releaseDone.issues = false ∧
    (let g := { graph1 with params := [2] }
     let s := { withFir accepted g with grx := { up.grx with slots := [(0, ⟨1, 2, 0, 2, 256, 4096, 16384⟩)] } }
     let u := { s with fe := { s.fe with cur := [(parKey 1 2, 1)] } }
     u.releaseDone.mayTake accepted = true ∧ accepted.ending = false ∧
       u.releaseDone.exchangeReady 1 (u.releaseDone.snapshot accepted g) = false) := by decide

/-- Firing 5 with all its work done. -/
def finished : Firing := { fir 0 [] with work := [] }

/-- A graph that evaluates the ladder and sends a JOIN record for slot 3. -/
def joining : Graph := { graph1 with header := 2 ^ 48, rules := [3 + 2 ^ 135], joinBase := 4096, joinSlots := 1 }

theorem wit_Commits : (failing 1 true false).issues = false ∧
    (withFir finished graph1).firing? 5 = some finished ∧ (withFir finished graph1).graph? 1 = some graph1 ∧
    (withFir finished graph1).commitReady finished = true ∧ graph1.joins = false ∧
    (withFir (fir 0 [0]) graph1).opsOver (fir 0 [0]) = false ∧ imgLadderEval joining.header = 1 ∧ imgLadderEval graph1.header ≠ 1 ∧
    (graph1.writtenKeys 1).Nodup ∧
    (let f := { finished with st := .committing, claimHeld := false }
     (writing 2 f).firing? 5 = some f ∧ (writing 2 f).fe.writing.find? (fun r => r.kind == 2 && r.fseq == 5) = some (rec5 2) ∧
       f.retire = [] ∧ ((writing 2 f).logLand 2 5).acceptRec 5 = none) ∧
    (let f := { finished with st := .abandoning, claimHeld := false }
     (withFir f graph1).firing? 5 = some f ∧ f.logged = true ∧ (withFir f graph1).predecessorsEnded f = true) := by decide

/-- The completion action of firing 5 waits. -/
def acting (kind : Nat) (performed : Bool) : State :=
  { up with fe := { up.fe with log := [rec5 1], actions := [⟨5, kind, 7, up.self, 9, 64, performed⟩] }
            pci := { up.pci with fns := [⟨true, false⟩, ⟨true, false⟩, ⟨true, false⟩] } }

theorem wit_Commits_actions : (acting 2 false).inService = true ∧
    (acting 2 false).fe.actions.find? (fun a => a.fseq == 5) = some ⟨5, 2, 7, up.self, 9, 64, false⟩ ∧
    (acting 2 false).acceptRec 5 = some (rec5 1) ∧ (acting 2 false).actionAcked 5 = true ∧ (acting 2 false).hostReady = true ∧
    (acting 2 false).hostGrants = true ∧ (acting 3 true).inService = true ∧ (acting 1 false).sigFabric 7 = false ∧
    State.reset.hostReady = false := by decide

/-- A plan of one module, module 0, with dimension 0. -/
def plan1 : Bytes := natLe 8 0 ++ natLe 4 32 ++ natLe 4 33 ++ natLe 4 35 ++ natLe 12 0 ++ [1, 0, 0]

/-- Firing 5 finished in a job of module 0 alone. -/
def inAJob (s : State) : State := let s := s.wr fabStatusJobSet 0 1; { s with fab := { s.fab with plan := plan1 } }

theorem wit_Commits_joins : joining.joins = true ∧ (inAJob (withFir finished joining)).commitReady finished = true ∧
    (inAJob (withFir finished joining)).inJob 0 = true ∧ ((withFir finished joining).joinMerge joining 1).isSome = true := by decide

theorem mread_empty (a : Nat) : mread ⟨[], []⟩ a = 0 := by simp [mread, mlookup, mbackground, mundef]

theorem leNat_empty (a n : Nat) : leNat (mreadN ⟨[], []⟩ a n) = 0 := by
  induction n generalizing a with
  | zero => rfl
  | succ n ih => simp [mreadN, leNat, ih, mread_empty]

theorem wit_Commits_waits : (inAJob (withFir finished joining)).joinMerge joining 1 = none := by
  have h0 : 0 ∈ List.range (inAJob (withFir finished joining)).sources := by
    rw [List.mem_range]
    refine List.length_pos_of_mem (a := 0) ?_
    rw [State.jobMembers, if_pos (by decide), List.mem_filter]
    exact ⟨List.mem_range.mpr (by decide), wit_Commits_joins.2.2.1⟩
  have hm : (inAJob (withFir finished joining)).mem.stack = ⟨[], []⟩ := rfl
  simp only [State.joinMerge, hm, leNat_empty]
  refine if_neg fun h => ?_
  exact absurd (List.all_eq_true.mp h 0 h0) (by decide)

/-- Firing 5 committing graph 1, which evaluates the ladder: slot 3 with a rule, a format, a hold and firing 5's gauge of it. -/
def laddering (rule fmt hold : Nat) (x : Gauge) : State :=
  let s := writing 2 { finished with st := .committing, claimHeld := false, gauges := [(3, x)] }
  let s := ((s.setRegWord feRuleReg 3 rule).wr feLadderFmt 3 fmt).wr feLadderHoldLeft 3 hold
  { s with fe := { s.fe with graphs := [(1, { graph1 with header := 2 ^ 48, rules := [3] })] } }

/-- MASK of Grog4, the first and the last 8-bit format; SAT_LIM a sixteenth, HOLD 9. -/
def stepRule : Nat := 11 + 2 ^ 24 * 9 + 2 ^ 32 * 0xFFFF

theorem wit_LadderSlots : (laddering stepRule 1 0 ⟨0, 9, 0, 0, 100⟩).powered = true ∧
    (laddering stepRule 1 0 ⟨0, 9, 0, 0, 100⟩).slotsInUse = [3] ∧
    (laddering stepRule 1 0 ⟨0, 9, 0, 0, 100⟩).fe.writing.find? (fun r => r.kind == 2 && r.fseq == 5) = some (rec5 2) ∧
    (laddering stepRule 1 0 ⟨0, 9, 0, 0, 100⟩).regWord feRuleReg 3 = stepRule ∧ ruleJoin stepRule = 0 ∧
    ruleJoin (stepRule + 2 ^ 7) = 1 ∧ ruleNanAct (stepRule + 2 ^ 20) = 1 ∧ ruleNanAct (stepRule + 2 ^ 21) = 2 := by decide

/-- Each clause of an evaluation has its case: no element, a NaN, a step up at the limit, the widest format, a hold that
runs down, a step down, and no narrower format. -/
theorem wit_LadderSlots_clauses :
    let at3 := fun rule fmt hold x => ((laddering rule fmt hold x).mergeGauges [(3, x)]).gaugeAt 3
    (at3 stepRule 1 0 ⟨0, 0, 0, 0, 0⟩).elem = 0 ∧ (at3 stepRule 1 0 ⟨0, 0, 1, 0, 1⟩).nan ≠ 0 ∧
    (let x := at3 stepRule 1 0 ⟨0, 7, 0, 0, 100⟩; ruleSatLim stepRule * x.elem < x.sat * 2 ^ 20) ∧
    (let x := at3 stepRule 1 0 ⟨0, 6, 0, 0, 100⟩; ¬ ruleSatLim stepRule * x.elem < x.sat * 2 ^ 20) ∧
    bit (ruleMask stepRule) 3 = true ∧ bit (ruleMask stepRule) 2 = false ∧ bit (ruleMask stepRule) 1 = true ∧
    (laddering stepRule 3 2 ⟨0, 0, 0, 0, 1⟩).rd feLadderHoldLeft 3 = 2 ∧
    decodeFlt 1 0x3F800000 = .num false 8388608 (-23) := by decide

theorem wit_LadderSlots_canon : (laddering stepRule 1 0 ⟨0, 9, 0, 0, 100⟩).Canon :=
  ⟨by decide, by decide, by decide, by decide, by decide, by decide, by decide⟩

/-! ### Witnesses: faults, slices and switches, the host ring, graphs -/

/-- Firing 5 with shelf 0's work, its slice's end offered to other queues. -/
def leaving : State :=
  let s := withFir (fir 0 [0]) graph1
  { s with fe := { s.fe with turns := [(0, ⟨0, 0, 0, [5]⟩)] } }

/-- A firing of another queue, accepted after it, wants the claim. -/
def wanting : State :=
  let s := withFir (fir 0 [0]) graph1
  { s with fe := { s.fe with firings := [fir 0 [0], { accepted with fseq := 6, queue := 1 }] } }

theorem wit_FaultsAndSwitches : (withFir (fir 0 [0]) graph1).firing? 5 = some (fir 0 [0]) ∧ (withFir (fir 0 [0]) graph1).powered = true ∧
    (fir 0 [0]).launched = true ∧ (fir 0 [0]).ending = false ∧ tget 0 (fir 0 [0]).counts 144 < 1 ∧
    ¬ (tget 0 ({ fir 0 [0] with counts := [(144, 1)] } : Firing).counts 144 < 1) ∧
    tget 0 ({ fir 0 [0] with counts := [(150, 2)] } : Firing).counts 150 < 3 ∧
    ¬ (tget 0 ({ fir 0 [0] with counts := [(150, 3)] } : Firing).counts 150 < 3) ∧ up.gate f0 0x0111 = none ∧ up.sitterUp = true ∧
    up.firing? 5 = none ∧ ({ fir 0 [] with st := .abandoning } : Firing).ending = true ∧
    up.fe.firings.filter (fun g => g.queue == 0 && g.running && g.claimHeld) = [] ∧
    (withFir (fir 0 [0]) graph1).fe.firings.filter (fun g => g.queue == 0 && g.running && g.claimHeld) = [fir 0 [0]] ∧
    (wanting.advanceTo 1).wanted (fir 0 [0]) = true ∧ ((withFir (fir 0 [0]) graph1).advanceTo 1).wanted (fir 0 [0]) = false := by decide

theorem wit_FaultsAndSwitches_switch : leaving.firing? 5 = some (fir 0 [0]) ∧ leaving.issues = true ∧
    (has (tget idleTurn leaving.fe.turns 0).leaving 5 || leaving.svc.resting) = true ∧ leaving.canSwitch (fir 0 [0]) = true ∧
    leaving.flue.opened = [] ∧ (failing 1 true false).issues = false ∧ streaming.canSwitch (fir 0 [0]) = false ∧
    (has (tget idleTurn streaming.fe.turns 0).leaving 5 || streaming.svc.resting) = false := by decide

theorem wit_FaultsAndSwitches_canon : leaving.Canon := ⟨by decide, by decide, by decide, by decide, by decide, by decide, by decide⟩

/-- Firing 5 switched out, with the withdrawn descriptors of engine 0 and one arrival. -/
def saved : Context := ⟨[], [], [(0, [])], [(7, [0])], ⟨[], []⟩, ⟨[], []⟩, ⟨[], []⟩⟩
def switched : Firing := { fir 0 [0] with st := .switched, claimHeld := false, ctx := some saved }

theorem wit_FaultsAndSwitches_restore :
    let s := withFir switched graph1
    s.releaseDone.firing? 5 = some switched ∧ s.releaseDone.mayTake switched = true ∧ saved.tile.cells = [] ∧ saved.scratch.cells = [] ∧
      saved.const.cells = [] ∧ (saved.withdrawn.map (·.1)).Nodup ∧ s.flue.opened = [] ∧ s.flue.sitter = [] ∧ saved.waits = [] ∧
      ({ saved with arrivals := [] } : Context).arrivals = [] ∧
      ({ s with power := (failing 1 true false).power } : State).releaseDone.mayTake switched = false := by decide

/-- The host ring enabled with room for 16, and a completion record. -/
def ringing (c : List CplRec) (copying : Option CplRec) : State :=
  let s := up.wr feHringCtlEnable 0 1
  { s with fe := { s.fe with ledger := c, copying := copying, sinceCursor := 1 } }

def cpl : CplRec := ⟨1, false, 0, 5, 0, 1, 0, 1, 0, 0, 0, 0, 0, .empty⟩

theorem wit_RingAndGraphs : (ringing [cpl] none).inService = true ∧ (ringing [cpl] none).issues = true ∧
    0 < (ringing [cpl] none).fe.sinceCursor ∧ up.fe.sinceCursor = 0 ∧
    (ringing [cpl] none).on feHringCtlEnable 0 = true ∧ (ringing [cpl] none).on feHringCtlDetached 0 = false ∧
    (ringing [cpl] none).hostGrants = true ∧ (ringing [cpl] none).nextRecord = some cpl ∧
    ((ringing [cpl] none).rd feHringPtrHead 0 + 2 ^ 32 - (ringing [cpl] none).rd feHringPtrTail 0) % 2 ^ 32 < (ringing [cpl] none).ringSize ∧
    up.on feHringCtlEnable 0 = false ∧ (ringing [] none).nextRecord = none ∧
    (ringing [cpl] (some cpl)).fe.copying = some cpl ∧ (ringing [cpl] (some cpl)).power.seq = none ∧ up.fe.copying = none ∧
    1 + 1 < 4096 ∧ 4096 ≤ 4095 + 1 ∧ up.gate f0 0x0115 = none ∧ up.gate f0 0x0120 = none ∧ up.sitterUp = true ∧
    up.fe.firings = [] ∧ (withFir (fir 0 []) joining).graph? 1 = some joining ∧ joining.ladderSlots ≠ [] := by decide

theorem wit_RingAndGraphs_tasks : up.gate f0 0x0100 = none ∧ up.gate f0 0x0101 = none ∧ up.gate f0 0x0112 = none ∧
    up.gate f0 0x0113 = none ∧ up.gate f0 0x0114 = none ∧
    (withFir (fir 0 []) graph1).graphBusy 1 = true ∧ up.graphBusy 1 = false ∧ up.graph? 1 = none ∧
    (withFir (fir 0 []) { graph1 with pblock := List.replicate 64 0 }).graph? 1 = some { graph1 with pblock := List.replicate 64 0 } ∧
    (let g := { graph1 with header := 2 ^ 49 }
     let s := { withFir (fir 0 []) g with fe := { up.fe with graphs := [(1, g)] } }
     let busy := { s with fe := { s.fe with firings := [{ fir 0 [0] with graph := 2 }], graphs := [(1, g), (2, graph1)] } }
     s.graphBusy 1 = false ∧ s.graph? 1 = some g ∧ imgPersistent g.header ≠ 0 ∧ imgPersistent graph1.header = 0 ∧
       s.on feSqCfgPtask 3 = false ∧ (s.wr feSqCfgPtask 3 1).on feSqCfgPtask 3 = true ∧ s.taskHolds 1 g.claim = false ∧
       (let t := { (s.wr feSqCfgPtask 3 1).wr feSqCfgPtaskGraph 3 2 with fe := busy.fe }
        t.taskHolds 1 g.claim = true ∧ t.graphBusy 2 = true ∧ t.graphBusy 1 = false) ∧
       busy.graphBusy 1 = false ∧ { fir 0 [0] with graph := 2 } ∈ busy.fe.firings ∧
       busy.opsOver { fir 0 [0] with graph := 2 } = false ∧
       claimsMeet g.claim (busy.claimOf { fir 0 [0] with graph := 2 }) = true) := by decide

/-- An image of 832 bytes that claims nothing, with a parameter block of 32 bytes and n parameters, each of
GRAD_USES 2; `crc` stands in its CRC field. -/
def image (geom n crc : Nat) : Bytes :=
  natLe 4 0x384B5452 ++ natLe 2 1 ++ natLe 2 0 ++ natLe 4 832 ++ natLe 4 geom ++ natLe 4 32 ++ natLe 4 0 ++ natLe 8 crc ++
  List.replicate 48 0 ++ (natLe 4 800 ++ natLe 4 n) ++ List.replicate 32 0 ++ (natLe 4 256 ++ natLe 4 1) ++ List.replicate 8 0 ++
  (natLe 4 768 ++ natLe 4 32) ++ List.replicate 656 0 ++ natLe 32 (9 + 2 ^ 112 * 2)

def sealedImage (geom n : Nat) : Bytes := image geom n (crc64 (image geom n 0))

theorem wit_RingAndGraphs_images : up.sourceReady (.host 0) = true ∧ State.reset.sourceReady (.host 0) = false ∧
    up.sourceRefusal (.host 0) = none ∧ up.sourceRefusal (.drive 4 1 0) = some (.s 312) ∧ imageBroken [] = true ∧
    (sealedImage (up.rd modGeomGeomId 0) 0).length = 832 ∧ imageBroken (sealedImage (up.rd modGeomGeomId 0) 0) = false ∧
    lowest (up.imageCodes 2 [] (readImage (sealedImage (up.rd modGeomGeomId 0) 0) 0)) = none ∧
    lowest (up.imageCodes 2 [] (readImage (sealedImage (up.rd modGeomGeomId 0 + 1) 0) 0)) = some 3 ∧
    lowest (up.imageCodes 2 [] (readImage (sealedImage (up.rd modGeomGeomId 0) 1) 0)) = some 43 ∧
    (readImage (sealedImage (up.rd modGeomGeomId 0) 0) 0).bucketList 2 = [] ∧ up.writeBlocked 0 832 = none := by decide +kernel
/-! ### Witnesses: the wheel and the dampers -/

/-- A plan of two modules, 0 (the root) and 1, over dimension 0, with its CRC in place. -/
def plan2 : Bytes :=
  let h := natLe 4 0x4E4C5054 ++ natLe 2 1 ++ natLe 2 0 ++ natLe 4 32 ++ natLe 4 33 ++ natLe 4 37 ++ natLe 4 65
  let r := [3, 0, 0, 0, 0] ++ List.replicate 28 0
  h ++ natLe 8 0 ++ r

def planned : State := { up with fab := { up.fab with plan := plan2 } }

/-- A follower: module 1 of that plan, port 0 up towards its parent. -/
def follower : State := ((planned.wr modCradlePlanPos 0 1).wr fabPortStatusState 0 2).wr whlStatusParent 0 0

def mark0 : Mark := ⟨1000, 0, 0, 65536, none⟩

/-- Turns of 65,536 ticks. -/
def turning (s : State) : State := s.wr whlTurnLenLen 0 65536

/-- The root with its source lost, or before its first mark. -/
def rootAt (first : Bool) (lost : List Nat) : State :=
  { planned with wheel := { planned.wheel with firstMark := first, lost := lost } }

/-- A step pending for this turn, one for a turn to come. -/
def stepsDue : State := { turning up with wheel := { up.wheel with steps := [(3, 0, 100), (2, 0, 100), (1, 7, 0)] } }

theorem wit_WheelTime : up.powered = true ∧ up.wheel.running = true ∧
    (let s := { up with wheel := { up.wheel with pendLen := some (131072, 1) } }
     s.wheel.pendLen = some (131072, (s.rd whlPosTurnNo 0 + 1) % 2 ^ 48)) ∧
    up.wheel.pendLen = none ∧ up.inService = true ∧ (up.wr modRestCfgTurns 0 1).rd modRestCfgTurns 0 ≠ 0 ∧
    ((0 + 1) % 2 ^ 48) % (up.wr modRestCfgTurns 0 1).rd modRestCfgTurns 0 = 0 ∧ stepsDue.angleCount 100 = 100 ∧
    up.windowed = [] ∧ up.fab.inbox = [] ∧ planned.isRoot = true ∧ follower.isRoot = false ∧
    65536 * ceilDiv planned.now 65536 < 2 ^ 64 ∧ up.gate f0 0x0140 = none ∧ up.gate f0 0x0141 = none ∧ up.sitterUp = true ∧
    up.wheel.steps.length < 16 ∧ up.rd whlPosTurnNo 0 < 1 ∧ ¬ (up.rd whlPosTurnNo 0 < 0) := by decide

theorem wit_WheelTime_steps : stepsDue.wheel.steps.filter (fun p => decide (p.2.1 < stepsDue.rd whlPosTurnNo 0) ||
      p.2.1 == stepsDue.rd whlPosTurnNo 0 && decide (stepsDue.angleCount p.2.2 ≤ 100)) = [] ++ (3, 0, 100) :: [(2, 0, 100)] ∧
    stepsDue.wheel.steps.filter (fun p => decide (p.2.1 < stepsDue.rd whlPosTurnNo 0) ||
      p.2.1 == stepsDue.rd whlPosTurnNo 0 && decide (stepsDue.angleCount p.2.2 ≤ 99)) = [] := by decide

/-- The first edge; an edge 32 tk off the turn's start, and one 33 tk off; a lost reference, of the one copy in use or both. -/
theorem wit_WheelTime_edges : (rootAt false []).isRoot = true ∧ (rootAt false []).wheel.firstMark = false ∧
    (rootAt false []).wheel.source = 0 ∧ (rootAt true []).wheel.firstMark = true ∧
    (32 : Nat) ≤ (rootAt true []).rd whlTurnStartT0 0 + 32 ∧ (rootAt true []).rd whlTurnStartT0 0 + 32 < 33 ∧
    33 + 32 < (turning (rootAt true [])).rd whlTurnStartT0 0 + (turning (rootAt true [])).rd whlTurnLenLen 0 ∧
    (match exec (.wheelRefLoss 0 false) (rootAt true [2]) with | .next t => t.wheel.source == 2 | _ => false) = true := by decide

/-- Marks of this turn, of the turn to come, and of the turn past with a change whose turn has come or has not. -/
def markAt (turn len : Nat) (pend : Option (Nat × Nat)) : Mark := ⟨1000, turn, 0, len, pend⟩
def inTurn (n : Nat) : State := (turning follower).wr whlPosTurnNo 0 n

theorem wit_WheelTime_marks : follower.linkRuns 0 = true ∧ follower.linkRuns 1 = false ∧ follower.rd whlStatusParent 0 = 0 ∧
    follower.rd whlStatusParent 0 ≠ 1 ∧ follower.wheel.missed < 16 ∧
    (inTurn 4).rd whlPosTurnNo 0 = (markAt 4 65536 none).turnNo ∧ (inTurn 4).rd whlPosTurnNo 0 < (markAt 5 131072 none).turnNo ∧
    (markAt 3 65536 (some (131072, 4))).turnNo < (inTurn 4).rd whlPosTurnNo 0 ∧ (4 : Nat) ≤ (inTurn 4).rd whlPosTurnNo 0 ∧
    (inTurn 4).rd whlPosTurnNo 0 < 5 ∧ (inTurn 4).rd whlTurnLenLen 0 = 65536 ∧
    (({ inTurn 4 with wheel := { follower.wheel with firstMark := true } } : State).wheel.firstMark = true) ∧
    follower.wheel.firstMark = false ∧
    (((10 : Nat) : Int) * 1000 + 0).natAbs = 10000 ∧ 10000 < (((11 : Nat) : Int) * 1000 + 0).natAbs ∧
    ({ follower with wheel := { follower.wheel with lost := [0, 2], missed := 16 } } : State).wheel.source = 2 := by decide

/-- A step to a mark, before the turn of its pending length and in it. -/
theorem wit_WheelTime_wheelStep :
    (let s := { up with wheel := { up.wheel with step := some (0, markAt 0 65536 (some (131072, 1))) } }
     s.wheel.step = some (0, markAt 0 65536 (some (131072, 1))) ∧ s.now = s.rd whlTurnStartT0 0 ∧ s.fe.firings = [] ∧
       1000 + (s.now - 0) < 0 + (1 - 0) * 65536) ∧
    0 + (1 - 0) * 65536 ≤ 65536 + (up.now - 0) ∧ up.wheel.step = none ∧
    (up.wr whlCountCount 0 1).now ≠ (up.wr whlCountCount 0 1).rd whlTurnStartT0 0 := by decide

/-- wheel.turn: a length of 65,536 two turns ahead is taken, one turn ahead refused. -/
theorem wit_WheelTime_turn :
    let bad := fun (len turn : Nat) => turn < up.rd whlPosTurnNo 0 + 2 ∨ len < 65536 ∨ 2 ^ 40 < len ∨ (up.source < 2 ∧ len % 8 ≠ 0) ∨
      (∃ f ∈ up.fe.firings, ∃ g, up.graph? f.graph = some g ∧ g.slots ≠ []) ∨ (∃ g ∈ up.fe.graphs, ∃ w ∈ g.2.slots, windowTicks w len < 64)
    bad 65536 1 ∧ ¬ bad 65536 2 := by
  refine ⟨Or.inl (by decide), ?_⟩
  rintro (h | h | h | h | ⟨f, hf, _⟩ | ⟨g, hg, _⟩)
  · exact absurd h (by decide)
  · exact absurd h (by decide)
  · exact absurd h (by decide)
  · exact absurd h (by decide)
  · exact absurd hf (by simp [up, State.reset])
  · exact absurd hg (by simp [up, State.reset])

/-- A transfer of requester r of n ticks in some units. -/
def transfer (r n units : Nat) (accum mark : Bool) : Transfer := ⟨r, 1, 0, mark, accum, true, units, n⟩
def waits (t : Transfer) (stamp : Nat) (sched : Bool) : Waiting := ⟨t, stamp, stamp, sched, false, false, none, true⟩

/-- Damper 0 in a turn of 65,536 ticks, its one window from 10 to 110, with a holder and transfers waiting. -/
def damped (holder : Option (Waiting × Nat)) (l : List Waiting) (w : Option Nat) : State :=
  let s := { withFir (fir 0 []) { graph1 with slots := [window0] } with dampers := [(0, ⟨l, holder, 0, w, 10, 110, [], []⟩)] }
  turning s
where window0 : Nat := 2 ^ 16 * 10 + 2 ^ 32 * 100 + 2 ^ 48 * 3 + 2 ^ 64 * 0xFFFFFFFF

/-- Loose and scheduled transfers of 400 ticks in four units. -/
def loose4 : Waiting := waits (transfer 4 400 4 false false) 5 false
def sched4 : Waiting := waits (transfer 3 400 4 false true) 5 true

theorem wit_Dampers :
    let w := damped.window0
    let s := damped none [loose4] none
    up.powered = true ∧ s.fab.inbox = [] ∧ s.wheel.running = true ∧ (s.damper 0).holder = none ∧ s.damperHeld 0 = false ∧
      (firstOfEach (s.damper 0).waiting []).filter (s.eligible 0) ≠ [] ∧ s.now < 0 + loose4.t.ticks ∧ State.reset.damperHeld 270 = true ∧
      s.windows 0 = [w] ∧ s.openCount w = 10 ∧ s.closeCount w = 110 ∧ s.now < s.openCount w ∧
      ((damped none [] none).damper 0).waiting = [] ∧ 0 + 400 ≤ ((damped (some (loose4, 0)) [] none).advanceTo 400).now ∧
      requesterOk 3 = true ∧ transferOk 0 (transfer 3 50 1 false false) = true ∧ isEngineObs 3 = false ∧
      inWindow w (transfer 3 50 1 false true) = true ∧ inWindow w (transfer 3 50 1 false false) = false ∧
      has (s.damper 0).held 3 = false ∧ loose4.pkt = none ∧ up.gate f0 0x0142 = none ∧ up.sitterUp = true := by decide

/-- A scheduled arrival in the open window: the damper free, a loose holder with units left, one in its last unit. -/
theorem wit_Dampers_arrivals :
    let w := damped.window0
    (let s := damped none [] (some w); (s.damper 0).window = some w ∧ (s.damper 0).holder = none ∧ s.now < (s.damper 0).closes ∧
       w ∈ s.windows 0 ∧ (s.damper 0).waiting = []) ∧
    (let s := damped (some (loose4, 0)) [] (some w); (s.damper 0).holder = some (loose4, 0) ∧ s.now < 0 + 400 ∧
       loose4.sched = false ∧ loose4.t.accum = false ∧ (boundary loose4.t 0 s.now).1 < loose4.t.units) ∧
    ¬ (boundary loose4.t 0 301).1 < loose4.t.units ∧ (boundary loose4.t 0 300).1 < loose4.t.units ∧
    (damped none [] none).blockedBy 0 (transfer 3 50 1 true false) = some w := by decide

/-- Windows: opening with and without a scheduled transfer waiting, closing on a scheduled holder with units left or not. -/
theorem wit_Dampers_windows :
    let w := damped.window0
    (let s := damped none [sched4] none
     (s.windows 0)[0]? = some w ∧ (s.damper 0).window = none ∧ s.damperHeld 0 = false ∧ sched4.pkt = none ∧
       (s.windows 0).find? (fun v => decide (s.openCount v ≤ 10) && decide (10 < s.closeCount v)) = some w ∧
       (s.damper 0).waiting.filter (fun q => q.sched && inWindow w q.t && !has (s.damper 0).held q.t.req && s.canGo 0 q) ≠ []) ∧
    (let s := damped (some (loose4, 0)) [sched4] none; (s.damper 0).holder = some (loose4, 0) ∧ (10 : Nat) < 0 + 400 ∧
       (boundary loose4.t 0 10).1 < loose4.t.units) ∧
    (let s := damped (some (sched4, 0)) [] (some w); (s.damper 0).window = some w ∧ (s.damper 0).holder = some (sched4, 0) ∧
       sched4.sched = true ∧ inWindow w sched4.t = true ∧ (s.damper 0).closes < 0 + 400 ∧ (boundary sched4.t 0 110).1 < sched4.t.units ∧
       (∀ v ∈ s.windows 0, 110 < s.openCount v ∨ s.closeCount v ≤ 110)) ∧
    ¬ (boundary sched4.t 0 301).1 < sched4.t.units ∧ (damped none [] none).damper 0 ≠ (damped none [] (some w)).damper 0 := by decide

/-- Cut-offs: a holder of 100 ticks and one beyond HOLD_LIMIT, loose or an ACCUM. -/
theorem wit_Dampers_cuts :
    let long := waits (transfer 4 30000 4 false false) 5 false
    let s := (damped (some (long, 0)) [] none).wr dmpCfgHoldLimit 0 100
    let s' := { s with fe := { s.fe with graphs := [] } }
    max 100 (s.rd dmpCfgHoldLimit 0) = 100 ∧ loose4.t.ticks ≤ max 100 ((damped none [] none).rd dmpCfgHoldLimit 0) ∧
      100 < long.t.ticks ∧ long.sched = false ∧ (s'.damper 0).holder = some (long, 0) ∧ s'.windows 0 = [] ∧
      (s'.damper 0).window = none ∧ 100 < 0 + long.t.ticks ∧ long.pkt = none ∧ (transfer 4 30000 4 true false).accum = true ∧
      sched4.sched = true ∧ inWindow damped.window0 sched4.t = true := by decide

/-! ### Witnesses: the fabric and the exchange -/

/-- Module 0 of plan2 with port 0 in a state. -/
def linked (st : Nat) (p : Port) : State :=
  let s := planned.wr fabPortStatusState 0 st
  { s with fab := { s.fab with ports := [(0, p)] } }

/-- A packet from module 1 with sequence number n, and one that this module sends on by port 0. -/
def pkt (typ n : Nat) (data : Bytes) : Packet := ⟨typ, 0, false, false, 1, 0, 0, 0, [0], 0, n, 0, 0, 7, data⟩
def out (n : Nat) : HeldPkt := ⟨{ pkt 3 n [] with src := 0, dst := 1 }, some 5, none, 0, false⟩

/-- A flit: its header, then 244 bytes, then its CRC. -/
def flit (h : Nat) (d : Bytes) : Flit :=
  let b := natLe 8 h ++ d ++ List.replicate (244 - d.length) 0
  ⟨b ++ natLe 4 (crc32c b), true⟩

def flitGood (f : Flit) : Bool := f.fecOk && f.bytes.length == 256 && crc32c (f.bytes.take 252) == field f.bytes 252 4

/-- Flits: an idle one with and without a NAK, one out of order, an abort, and the KINDs that bring a packet. -/
theorem wit_LinkLayer_flits : (linked 2 idlePort).linkRuns 0 = true ∧ flitGood ⟨[], false⟩ = false ∧
    bits (leNat ((flit 0 []).bytes.take 8)) 0 20 = ((linked 2 idlePort).port 0).rxSeq ∧
    bit (leNat ((flit 0 []).bytes.take 8)) 40 = false ∧ bit (leNat ((flit (2 ^ 40) []).bytes.take 8)) 40 = true ∧
    bits (leNat ((flit 0 []).bytes.take 8)) 41 2 = 0 ∧ bits (leNat ((flit (2 ^ 41 * 3) []).bytes.take 8)) 41 2 = 3 ∧
    bits (leNat ((flit (2 ^ 41) []).bytes.take 8)) 41 2 = 1 ∧ bits (leNat ((flit (2 ^ 42) []).bytes.take 8)) 41 2 = 2 ∧
    bits (leNat ((flit 1 []).bytes.take 8)) 0 20 ≠ ((linked 2 idlePort).port 0).rxSeq ∧
    packetWhole (List.replicate 33 0) = true ∧ packetWhole (List.replicate 32 0) = false ∧
    (parsePacket (List.replicate 33 0)).dst = up.self := by decide

theorem wit_LinkLayer_good : flitGood (flit 0 []) = true := by decide +kernel

/-- A whole packet that goes on by port 0: with that link up, or down. -/
theorem wit_LinkLayer_whole :
    let q := { pkt 3 4 [] with dst := 1 }
    q.dst ≠ up.self ∧ q.route[q.hop]? = some 0 ∧ (linked 3 idlePort).portSt 0 = 3 ∧ (linked 2 idlePort).portSt 0 ≠ 3 ∧
      (linked 2 idlePort).windows 256 = [] ∧ ((linked 2 idlePort).damper 256).window = none ∧
      ((linked 2 idlePort).damper 256).holder = none := by decide

/-- Port 0 with packets waiting at its damper. -/
def departing (l : List HeldPkt) : State :=
  let s := linked 2 idlePort
  { s with dampers := [(256, ⟨l.map fun h => ⟨{ packetTransfer 0 h with ticks := 0 }, 0, 0, false, false, false, some h, true⟩, none, 0, none, 0, 0, [], []⟩)] }

theorem wit_LinkLayer_leaves :
    let s := departing [out 4]
    s.powered = true ∧ State.reset.powered = false ∧ s.windows 256 = [] ∧ (s.damper 256).window = none ∧ (s.damper 256).holder = none ∧
      (s.damper 256).freeAt ≤ s.now ∧ (firstOfEach (s.damper 256).waiting []).filter (s.eligible 256) ≠ [] ∧
      (s.damper 256).waiting.map (·.pkt) = [some (out 4)] ∧ (s.damper 256).waiting.map (·.t.ticks) = [0] ∧
      (s.damper 256).waiting.all (·.numbered) = true ∧ ((departing []).damper 256).waiting = [] ∧
      (firstOfEach ((departing []).damper 256).waiting []).filter ((departing []).eligible 256) = [] := by decide

/-- Lanes: one good, one lost; a width kept and none left; links up, training, down and retraining a third time. -/
theorem wit_LinkLayer_lanes : (linked 2 idlePort).portSt 0 = 2 ∧ has idlePort.failed 0 = false ∧
    has ({ idlePort with failed := [0] } : Port).failed 0 = true ∧ portWidth 0 { idlePort with failed := [0] } ≠ none ∧
    portWidth 0 { idlePort with failed := List.range 32 } = none ∧ (linked 1 idlePort).portSt 0 = 1 ∧ (linked 0 idlePort).portSt 0 ≠ 2 ∧
    ({ idlePort with stage := 1 } : Port).stage < 2 ∧ 2 ≤ ({ idlePort with stage := 2 } : Port).stage ∧
    (linked 2 { idlePort with retraining := true }).linkRuns 0 = false ∧
    ({ idlePort with buffer := [(0, 1, .packet (out 4))] } : Port).packets.length ≠ 0 ∧ idlePort.down = false ∧
    ({ idlePort with down := true } : Port).down = true ∧ (planned.linkVersion 0 0).2 = true ∧ planned.fab.notices = [] := by decide

theorem wit_LinkLayer_trains : up.fab.plan = [] ∧ planned.fab.plan ≠ [] ∧ planned.neighbour? 0 = true ∧ planned.neighbour? 1 = false ∧
    across planned.self 0 = 1 ∧ planned.rd fabPlanPlanId 0 = 0 ∧ ({ idlePort with fpr := some 3 } : Port).fpr = some 3 ∧
    (linked 3 idlePort).portSt 0 = 3 ∧ (linked 3 idlePort).powered = true ∧ planned.linkVersion 0 0 = (0, true) ∧
    seqLe 16 0 (planned.linkVersion 0 0).1 = true ∧ seqLe 16 1 (planned.linkVersion 0 0).1 = false ∧
    up.gate f0 0x0152 = none ∧ up.sitterUp = true ∧ up.portClaimed 0 = false ∧
    (withFir (fir 0 []) { graph1 with claim := 2 ^ 1504 }).portClaimed 0 = true := by decide

/-- Module 0 expecting number 4 from module 1, the answer's port up, signal 7 FABRIC. -/
def receiving (nak : Option Nat) : State :=
  let s := (linked 2 idlePort)
  { s with fab := { s.fab with dst := [(1, ⟨4, 7, nak⟩)] }, fe := { s.fe with graphs := [(1, graphFabric)] } }

/-- A keyed SIGNAL to signal 7 of firing 5, the operation 2. -/
def keyed : Bytes := natLe 16 (7 + 2 ^ 24 + 2 ^ 32 * 5 + 2 ^ 96 * 2)

/-- The damper of channel 0 with a holder. -/
def busyChannel : State :=
  let s := receiving none
  { s with dampers := [(0, ⟨[], some (loose4, 0), 0, none, 0, 0, [], []⟩)] }

theorem wit_Packets : (receiving none).powered = true ∧ (receiving none).dstSeq? 1 = some ⟨4, 7, none⟩ ∧
    (pkt 3 4 keyed).dst = (receiving none).self ∧ ({ pkt 3 4 keyed with dst := 2 } : Packet).dst ≠ (receiving none).self ∧
    (linked 2 idlePort).dstSeq? 1 = none ∧ (pkt 3 4 keyed).sync = false ∧ ({ pkt 3 4 keyed with sync := true, inc := 8 } : Packet).inc ≠ 7 ∧
    (pkt 3 4 keyed).seq % 2 ^ 32 = 4 % 2 ^ 32 ∧ seqLe 32 3 4 = true ∧ seqLe 32 5 4 = false ∧
    (receiving (some 0)).now < 0 + 1000 ∧ (receiving none).inService = true ∧ (pkt 3 4 keyed).tag = (receiving none).rd fabJobTag 0 ∧
    (receiving none).sigFabric 7 = true ∧ bits (leNat keyed) 0 13 = 7 ∧ bit (leNat keyed) 24 = true ∧
    (receiving none).flue.records = [] ∧ (receiving none).flue.waits = [] ∧
    (receiving none).sigVal 7 + ((tget noneOpen (receiving none).flue.opened 7).sum + 1) < 2 ^ 32 ∧
    ({ receiving none with flue := { (receiving none).flue with records := [packetKey (pkt 3 4 keyed)] } } : State).flue.records.find?
      ((packetKey (pkt 3 4 keyed)).same ·) = some (packetKey (pkt 3 4 keyed)) ∧ (receiving none).sigFabric 8 = false ∧
    bits (2 ^ 27 * 511) 27 9 = 511 ∧ (inPhase (.recovery 0)).inService = false := by decide

/-- The way back is free; the channels of a packet's lines are free, or the first is busy. -/
theorem wit_Packets_ways : (pkt 3 4 keyed).route.reverse[0]? = some 0 ∧ (receiving none).linkRuns 0 = true ∧
    (receiving none).windows 256 = [] ∧ ((receiving none).damper 256).holder = none ∧ ((receiving none).damper 256).waiting = [] ∧
    ((receiving none).damper 256).freeAt ≤ (receiving none).now ∧ has ((receiving none).damper 256).held 0x8001 = false ∧
    (∀ vl, vl < 2 → ((receiving none).port 0).buffered vl + 256 * 2 ≤ replayBytes 0) ∧
    (channelLines 0 128).map (·.1) = 0 :: [1] ∧ (receiving none).landing (pkt 1 4 [0]) = false ∧
    (receiving none).windows 0 = [] ∧ ((receiving none).damper 0).window = none ∧ ((receiving none).damper 0).holder = none ∧
    ((receiving none).damper 0).waiting = [] ∧ (busyChannel.damper 0).holder = some (loose4, 0) ∧ busyChannel.now < 0 + loose4.t.ticks ∧
    (receiving none).shardAt 0 4 = none ∧ (receiving none).writeBlocked 0 4 = none ∧ (receiving none).instAt 0 4 = none ∧
    (receiving none).badIn 0 4 = none := by decide

/-- A packet of firing 5 held for module 1, its number 4. -/
def sending (action : Bool) (typ : Nat) : State :=
  let s := (withFir (fir 0 []) graph1).wr fabPortStatusState 0 2
  { s with fab := { planned.fab with src := [(1, ⟨5, [⟨{ pkt typ 4 [] with src := 0, dst := 1 }, some 5, none, 0, action⟩], 0⟩)] } }

theorem wit_Packets_source : ((sending false 1).srcSeq 1).held.length = 1 ∧ (sending false 1).route? 1 = some [0] ∧
    ({ up with fab := { up.fab with links := [(0, 0, false)] } } : State).route? 1 = none ∧
    (((sending false 1).srcSeq 1).held.find? (fun h => h.p.seq == 4)).isSome = true ∧
    ((sending false 1).srcSeq 1).held.find? (fun h => h.p.seq == 9) = none ∧
    ((sending true 1).srcSeq 1).held.any (fun h => h.action && h.p.typ == 1) = true ∧
    ((sending true 4).srcSeq 1).held.any (fun h => h.p.typ == 4) = true ∧ (sending false 1).firing? 5 = some (fir 0 []) ∧
    (fir 0 []).st = .running ∧ (fir 0 []).launched = true ∧ (fir 0 []).ending = false ∧ tget 0 (fir 0 []).counts 150 < 3 ∧
    seqLe 32 4 4 = true ∧ seqLe 32 4 3 = false ∧ ((sending false 1).srcSeq 0).held = [] := by decide

/-- plan2 with its CRC. -/
def plan3 : Bytes := plan2.take 24 ++ natLe 8 (crc64 plan2) ++ plan2.drop 32

theorem wit_ExchangeAndPlans_plan : planOk plan3 = true ∧ planOk plan2 = false ∧ planPresent plan3 up.self = true ∧
    up.fabricFiring = false ∧ planId plan3 = (up.wr fabPlanPlanId 0 (planId plan3)).rd fabPlanPlanId 0 ∧ planId plan3 ≠ up.rd fabPlanPlanId 0 := by
  decide +kernel

theorem wit_ExchangeAndPlans_job : up.gate f0 0x0150 = none ∧ up.gate f0 0x0151 = none ∧ up.sitterUp = true ∧
    planned.self < 2 ^ 14 ∧ planPresent planned.fab.plan planned.self = true ∧ planned.self &&& (16383 - 1) = 0 &&& (16383 - 1) ∧
    1 &&& planDims planned.fab.plan = 1 ∧ ¬ (3 &&& planDims planned.fab.plan = 3) ∧ planned.fabricFiring = false := by decide

/-- Bucket slot 0: graph 1, parameter 2, one shard of 256 elements at 4096, staged at 16384. -/
def bucket (mode : Nat) : Bucket := ⟨1, 2, mode, 2, 256, 4096, 16384⟩

/-- Module 0 in a job of modules 0 and 1. -/
def inJob2 : State := ((receiving none).wr fabStatusJobSet 0 1).wr fabJobMask 0 1

/-- In that job, with that bucket, its parameter at 2^20, and watermarks. -/
def exchanging (mode : Nat) (marks : Tab Nat) : State :=
  let s := inJob2
  { s with grx := { s.grx with slots := [(0, bucket mode)], marks := marks }
           fe := { s.fe with graphs := [(1, { graphFabric with params := [2 + 2 ^ 52 + 2 ^ 72 * 4096] })] } }

theorem wit_ExchangeAndPlans_reset : up.exchangeFiring = false ∧ up.gate f0 0x0160 = none ∧ up.gate f0 0x0161 = none ∧
    (exchanging 1 []).grx.slots.find? (fun p => p.1 == 0) = some (0, bucket 1) ∧ (exchanging 1 []).mem.badLines = [] ∧
    (exchanging 1 []).grx.slots = [(0, bucket 1)] ∧
    (let s := exchanging 1 []
     ({ s with fe := { s.fe with firings := [fir 0 []] } } : State).exchangeFiring = true) := by decide

theorem wit_ExchangeAndPlans_sound (n : Nat) : (exchanging 1 []).on stkStatusRebuilding n = false := by
  have h (s : State) (g : Grx) (f : FrontEnd) : ({ s with grx := g, fe := f } : State).on stkStatusRebuilding n = s.on stkStatusRebuilding n := rfl
  have k (s : State) (f : Fabric) (e : FrontEnd) : ({ s with fab := f, fe := e } : State).on stkStatusRebuilding n = s.on stkStatusRebuilding n := rfl
  have l (s : State) (f : Fabric) : ({ s with fab := f } : State).on stkStatusRebuilding n = s.on stkStatusRebuilding n := rfl
  have w (s : State) {f : Fld} (i v : Nat) (a : f.apart stkStatusRebuilding = true) :
      (s.wr f i v).on stkStatusRebuilding n = s.on stkStatusRebuilding n := by rw [State.on, rd_wr_ne _ _ _ _ a]; rfl
  have z : up.on stkStatusRebuilding n = false := by simp [up, State.on, State.rd, State.reset, tget]; decide
  rw [exchanging, h, inJob2, w _ _ _ (by decide), w _ _ _ (by decide), receiving, k, linked, l, w _ _ _ (by decide), planned, l, z]

theorem low_bit (m : Nat) (h : m < 16384) (z : m &&& 16382 = 0) : m < 2 := by
  have d : (m &&& 16382) / 2 = m / 2 % 2 ^ 13 := by rw [Nat.and_div_two, ← Nat.and_two_pow_sub_one_eq_mod]
  rw [z] at d
  omega

theorem inJob2_members : inJob2.jobMembers = [0, 1] := by
  have mask : 16383 - inJob2.rd fabJobMask 0 = 16382 := by decide
  have base : inJob2.rd fabJobBase 0 = 0 := by decide
  have lo (m : Nat) (h : inJob2.inJob m = true) : m < 2 := by
    simp only [State.inJob, Nat.reducePow, Nat.reduceSub, Bool.and_eq_true, decide_eq_true_eq, beq_iff_eq, mask, base] at h
    exact low_bit m h.1.1 (h.2.trans (Nat.zero_and _))
  have high : ((List.range 16382).map (2 + ·)).filter inJob2.inJob = [] := by
    refine List.filter_eq_nil_iff.mpr fun m hm h => ?_
    obtain ⟨k, _, rfl⟩ := List.mem_map.mp hm
    exact absurd (lo _ h) (by omega)
  rw [State.jobMembers, if_pos (by decide), show 2 ^ 14 = 2 + 16382 from rfl, List.range_add, List.filter_append, high]
  decide

theorem wit_ExchangeAndPlans_members (mode : Nat) (marks : Tab Nat) : (exchanging mode marks).sources = 2 ∧
    (exchanging mode marks).rankOf 1 = 1 ∧ (exchanging mode marks).rankOf 0 = 0 := by
  have e (s : State) (g : Grx) (f : FrontEnd) : ({ s with grx := g, fe := f } : State).jobMembers = s.jobMembers := rfl
  rw [State.sources, State.rankOf, State.rankOf, exchanging, e, inJob2_members]
  decide

/-- What reaches the stacks: an address that no bucket covers; a contribution below, at and above its watermark; in rank
order, the last of the turn's rank, and one of a rank that must wait. -/
theorem wit_ExchangeAndPlans : (receiving none).seqAct (pkt 2 4 [0, 0, 0, 0]) = .accept ∧
    (receiving none).refusal (pkt 2 4 [0, 0, 0, 0]) = 0 ∧ (receiving none).refusal (pkt 1 4 [0]) = 0 ∧
    (receiving none).instAt 4096 4 = none ∧ (bad [4096, 4096 + 64] (receiving none)).badIn 4096 4 = some 4096 ∧
    (exchanging 1 []).instAt 4096 4 = some (0, bucket 1, 0) ∧ (exchanging 1 []).mark 0 0 1 = 0 ∧
    (exchanging 1 [(markKey 0 0 1, 8)]).mark 0 0 1 = 8 ∧
    (bucket 1).mode ≠ 0 ∧ (bucket 0).mode = 0 ∧ (exchanging 0 []).rd grxInstNext 0 = 0 := by decide

/-- In rank order: contributions of a rank that must wait, of the turn's rank to its end, and of the last rank. -/
theorem wit_ExchangeAndPlans_order : (exchanging 0 []).mark 0 0 0 ≠ (bucket 0).bytes ∧
    (exchanging 0 []).writeBlocked ((bucket 0).stageAt 2 0 1) 4 = none ∧
    ((exchanging 0 []).wr grxInstNext 0 1).rd grxInstNext 0 = 1 ∧
    (exchanging 0 [(markKey 0 0 1, (bucket 0).bytes)]).mark 0 0 1 = (bucket 0).bytes := by decide

/-- A shard of the parameter: from its owner, and from another module. -/
theorem wit_ExchangeAndPlans_shards : (receiving none).shardAt 4096 4 = none ∧
    (∃ x, (exchanging 0 []).bucketParam (bucket 0) = some x ∧ parBase x = 2 ^ 20) ∧
    (∃ c r, (exchanging 0 []).shardAt (2 ^ 20 + 1024) 4 = some (0, bucket 0, c, r) ∧ (exchanging 0 []).rankOf 1 = r) ∧
    (∃ c r, (exchanging 0 []).shardAt (2 ^ 20) 4 = some (0, bucket 0, c, r) ∧ (exchanging 0 []).rankOf 1 ≠ r) :=
  ⟨by decide, ⟨_, rfl, by decide⟩, ⟨0, 1, by decide, (wit_ExchangeAndPlans_members 0 []).2.1⟩,
    ⟨0, 0, by decide, by rw [(wit_ExchangeAndPlans_members 0 []).2.1]; decide⟩⟩

/-! ### Witnesses: host port, Sitter and storage -/

/-- PERST_N low. -/
def perst : State := { up with power := { up.power with perstN := false, trstN := false } }

theorem wit_HostAndSitter : up.powered = true ∧ State.reset.powered = false ∧ (∀ a ∈ up.fe.actions, a.kind = 2) ∧
    has up.pci.inReset 0 = false ∧ up.pci.fns[0]? = some ⟨true, false⟩ ∧
    ({ up with pci := { up.pci with fns := [⟨true, true⟩, ⟨true, false⟩, ⟨true, false⟩] } } : State).pci.fns[0]? = some ⟨true, true⟩ ∧
    has ({ up with pci := { up.pci with inReset := [0] } } : State).pci.inReset 0 = true ∧
    up.power.perstN = true ∧ perst.power.perstN = false ∧ perst.hWidth = some 16 ∧
    has up.pci.hFailed 3 = false ∧ has ({ up with pci := { up.pci with hFailed := [3] } } : State).pci.hFailed 3 = true ∧
    widestLink (16 - 1) = some 8 ∧ widestLink 0 = none ∧ laneSpares true [] < laneSpares true [3] ∧
    (∃ p ∈ (boxed 1).sit.boxes, p.1 < 24 ∧ p.1 / 8 = 0 ∧ p.2.st = 1) ∧ (∀ p ∈ up.sit.boxes, p.1 < 24 → p.1 / 8 = 0 → p.2.st ≠ 1) ∧
    up.rd sitCoreRestarting 0 = 0 ∧ up.rd sitCoreSpare 0 ≠ 3 ∧ (up.wr sitCoreSpare 0 3).rd sitCoreSpare 0 = 3 ∧
    up.gate f0 0x0003 = none ∧ up.sitterUp = true := by decide

/-- The Sitter restarting with mailbox 0 of F0 running a command, and its firmware copies valid or not. -/
def restarting (a b : Bool) : State :=
  let s := (boxed 1).wr sitCoreRestarting 0 1
  { s with sec := { s.sec with fw := [⟨a, 0, 0⟩, ⟨b, 0, 0⟩] } }

theorem wit_HostAndSitter_complete : (restarting true true).powered = true ∧ (restarting true true).rd sitCoreRestarting 0 = 1 ∧
    ((restarting true true).sit.boxes.filter (fun p => p.2.st == 1)).map (·.1) = [boxNo f0] ∧ boxOrigin (boxNo f0) = f0 ∧
    (restarting true true).sit.latched = [] ∧ (restarting true true).svc.phase = .service ∧
    (restarting true true).rd secFwSelSel 0 = 0 ∧ (restarting true true).copyValid 0 = true ∧
    (restarting false true).copyValid 0 = false ∧ (restarting false true).copyValid 1 = true ∧
    (restarting false false).copyValid 1 = false ∧ (restarting true true).fe.asked.any (fun a => decide (a.2.2 = f0)) = false ∧
    (restarting true true).sec.queue = [] ∧ (⟨false, true, []⟩ : BootFindings).keysOk = false := by decide

/-- Storage link 0 up with commands waiting for their drive. -/
def storing (c : List NvmeCmd) : State := { up with pci := { up.pci with sUp := [0], nvme := c } }
def nvme (write flushing : Bool) : NvmeCmd := ⟨f0, 0, 1, 8, write, 4096, 4096, flushing, 77, none⟩

/-- Region 9, a COPY2 region of the stacks, or of another KIND. -/
def regioned (kind : Nat) : State :=
  let g := { graph1 with regions := [9 + 2 ^ 32 * kind + 2 ^ 34 * 3 + 2 ^ 64 * 8192 + 2 ^ 128 * 4096] }
  let s := withFir (fir 0 []) g
  { s with pci := (storing []).pci }

theorem wit_Storage (h : Config.namespaceLba 0 1 ≠ 0) (h4 : Config.namespaceLbaBytes 0 1 = 4096) :
    ¬ (1 = 0 ∨ 16 < 1 ∨ Config.namespaceLba 0 1 = 0 ∨ Config.namespaceLbaBytes 0 1 ≠ 4096) ∧
    (17 = 0 ∨ 16 < 17 ∨ Config.namespaceLba 0 17 = 0 ∨ Config.namespaceLbaBytes 0 17 ≠ 4096) ∧
    has (storing []).pci.sUp 0 = true ∧ has (storing []).pci.sUp 1 = false ∧ (storing []).gate f1 0x0200 = none ∧
    (storing []).gate f1 0x0201 = none ∧ (storing []).gate f1 0x0202 = none ∧ (storing []).gate f1 0x0203 = none ∧
    (storing []).sideExtent (.extent 4096 4096) = some (4096, 4096, none) ∧ (storing []).readRefusal (.extent 4096 4096) = none ∧
    (storing []).sideExtent (.region 9) = none ∧ (storing []).badIn 4096 4096 = none ∧
    (∃ g ∈ (regioned 0).fe.graphs, g.2.declaresBytes 8192 4096 = true) ∧ ((regioned 0).regionById 9).map regKind = some 0 ∧
    ((regioned 1).regionById 9).map regKind ≠ some 0 ∧ (∃ f ∈ (regioned 0).fe.firings, f.graph = 1) := by
  refine ⟨?_, Or.inr (Or.inl (by decide)), by decide⟩
  rintro (h' | h' | h' | h')
  · exact absurd h' (by decide)
  · exact absurd h' (by decide)
  · exact h h'
  · exact h' h4

/-- Completions of a write before and after its Flush; a drive's bytes at the ends of what is mapped; its dampers free or not. -/
theorem wit_Storage_drive : (storing [nvme true false]).pci.nvme = [] ++ nvme true false :: [] ∧ (nvme true true).flushing = true ∧
    (nvme false false).write = false ∧
    (∃ c ∈ (storing [nvme true false]).pci.nvme, c.link = 0 ∧ c.flushing = false ∧ c.addr ≤ 4096 ∧ 4096 + 4096 ≤ c.addr + c.bytes) ∧
    (∀ c ∈ (storing [nvme true false]).pci.nvme, ¬ 4096 + 4097 ≤ c.addr + c.bytes) ∧
    (∀ d ∈ (driveParts 4096 64 true).map (·.1), (storing []).windows d = [] ∧ ((storing []).damper d).window = none ∧
      ((storing []).damper d).holder = none ∧ ((storing []).damper d).waiting = [] ∧ ((storing []).damper d).freeAt ≤ (storing []).now) ∧
    (storing []).writeBlocked 4096 64 = none ∧
    ({ storing [nvme true false] with dampers := [(271, ⟨[], some (loose4, 0), 0, none, 0, 0, [], []⟩)] } : State).passesAll
      ⟨engineObserver 128, 0, 2 ^ 32, false, false, true, 0, 0⟩ (driveParts 4096 64 true) = false := by decide

theorem wit_Storage_links : 1 < splitLinks 1 ∧ 0 < splitLinks up.pci.split ∧ splitLinks 0 ≤ 1 ∧ up.sWidth 0 = some 16 ∧
    has up.pci.sUp 0 = false ∧ has up.pci.sFailed 0 = false ∧
    has ({ up with pci := { up.pci with sFailed := [0] } } : State).pci.sFailed 0 = true ∧ 15 < splitLanes 0 ∧
    (up.wr pciSCfgSplit 0 3).rd pciSCfgSplit 0 = 3 ∧ up.rd pciSCfgSplit 0 ≠ 3 := by decide

/-! ### Witnesses: trust, metering and service -/

/-- An owned module with nonce 9 live. -/
def owned : State :=
  let s := up.wr secStateOwned 0 1
  { s with sec := { s.sec with nonces := [⟨0, 9, 0⟩] } }

/-- A DEBUG token with signatures of the sizes of the keys. -/
def debugToken : Token :=
  ⟨0x4E4B4F54, Config.serial, 9, 1, [1], List.replicate (Config.signatureSize owned.sec.keys.owner) 0,
    List.replicate (Config.signatureSize owned.sec.keys.auditor) 0⟩

theorem wit_Tokens (h : ∀ k m s, Config.xmssVerify k m s = true) :
    owned.gate f2 0x0401 = none ∧ owned.sitterUp = true ∧ owned.tokenRefusal 4 debugToken = none ∧ owned.kindAllowed 4 debugToken = true ∧
    owned.bodyOk 4 debugToken = true ∧ owned.bodyOk 4 { debugToken with body := [2] } = false ∧ up.kindAllowed 4 debugToken = false ∧
    (owned.sec.nonces.any fun n => n.value == 8) = false ∧ (owned.box f2).req.place = 0 := by
  refine ⟨by decide, by decide, ?_, by decide, by decide, by decide, by decide, by decide, by decide⟩
  have hk : owned.kindAllowed 4 debugToken = true := by decide
  have hb : owned.bodyOk 4 debugToken = true := by decide
  have hn : (owned.sec.nonces.any fun n => n.value == debugToken.nonce) = true := by decide
  have h1 : debugToken.magic = 0x4E4B4F54 := rfl
  have h2 : debugToken.bodyLen = 1 := rfl
  have h3 : debugToken.body.length = 1 := rfl
  have h4 : debugToken.ownerSig.length = Config.signatureSize owned.sec.keys.owner := List.length_replicate
  have h5 : debugToken.auditorSig.length = Config.signatureSize owned.sec.keys.auditor := List.length_replicate
  have h6 : debugToken.serial = Config.serial := rfl
  simp [State.tokenRefusal, State.tokenKeys, h, hk, hb, hn, h1, h2, h3, h4, h5, h6]

/-- The persistent registers 2 to 5 have room to commit, or none. -/
def committable (count : Nat) : State :=
  { owned with prs := { owned.prs with cells := (List.range 4).map fun r => (2 * (4 * (r + 2) + if count < 190000000 then 0 else 3) + count % 2, some ⟨77, count⟩) } }

/-- Each check of Table 14.6 that a token can fail. -/
theorem wit_Tokens_checks : ({ debugToken with magic := 0 } : Token).magic ≠ 0x4E4B4F54 ∧
    (∃ n ∈ owned.sec.nonces, n.value = debugToken.nonce) ∧ ¬ (∃ n ∈ owned.sec.nonces, n.value = 8) ∧
    debugToken.bodyLen = debugToken.body.length ∧ debugToken.serial = Config.serial ∧
    ({ debugToken with serial := Config.serial + 1 } : Token).serial ≠ Config.serial :=
  ⟨by decide, by decide, by decide, by decide, rfl, Nat.succ_ne_self _⟩

/-- The same request from the bus, for the first part of a large reply and for a further one. -/
def busAsks (place : Nat) : State := owned.setBox (.bus 5) ⟨1, ⟨4, 0x0401, 9, false, place⟩, none, List.replicate 1500 0, false⟩

theorem wit_Tokens_place : ((busAsks 0).box (.bus 5)).req.place = 0 ∧ ((busAsks 1400).box (.bus 5)).req.place ≠ 0 ∧
    (largePart ((busAsks 1400).box (.bus 5)).large 1400).length ≠ 0 := by decide

theorem wit_Tokens_commit : (committable 2).prsActive 2 = some (0, ⟨77, 2⟩) ∧ (committable 2).prsActive 3 = some (0, ⟨77, 2⟩) ∧
    (committable 2).prsActive 4 = some (0, ⟨77, 2⟩) ∧ (committable 2).prsActive 5 = some (0, ⟨77, 2⟩) ∧
    (committable 200000000).prsActive 5 = some (3, ⟨77, 200000000⟩) ∧ (committable 200000000).prsActive 4 = some (3, ⟨77, 200000000⟩) ∧
    (committable 2).power.tap = none := by decide

theorem wit_Tokens_bounds : (committable 2).Bounds := ⟨by decide, by decide, by decide, by decide⟩

theorem wit_Signing : up.gate f2 0x0400 = none ∧ up.sitterUp = true ∧ up.on secStateIdOut 0 = false ∧
    (up.wr secStateIdOut 0 1).on secStateIdOut 0 = true ∧ (busAsks 1400).on secStateIdOut 0 = false ∧
    up.on sitCoreRestarting 0 = false ∧ up.gate f2 0x0402 = none ∧ up.gate f2 0x0403 = none ∧ up.sourceReady (.host 0) = true ∧
    up.sourceRefusal (.host 0) = none ∧ (committable 2).copyValid (1 - (committable 2).sec.running) = false ∧
    ({ committable 2 with sec := { (committable 2).sec with fw := [⟨true, 0, 0⟩, ⟨true, 0, 0⟩] } } : State).copyValid
      (1 - (committable 2).sec.running) = true ∧ up.power.trstN = true ∧ perst.power.trstN = false ∧ up.on secStateDebug 0 = false ∧
    (owned.wr secStateDebug 0 1).on secStateDebug 0 = true ∧ imageValid [] = false ∧ up.batchWaits 3 = false := by decide

theorem wit_Signing_complete :
    let s := { owned with sec := { owned.sec with queue := [.ack f2 []] } }.wr secKeystateIdEnd 0 1024
    s.sec.queue = .ack f2 [] :: [] ∧ s.rd secIdNextNext 0 < 2 ^ 40 - 1024 ∧ s.rd secIdNextNext 0 < s.rd secKeystateIdEnd 0 ∧
      s.powered = true ∧ (s.wr secIdNextNext 0 1024).rd secKeystateIdEnd 0 = (s.wr secIdNextNext 0 1024).rd secIdNextNext 0 ∧
      (s.wr secIdNextNext 0 (2 ^ 40 - 1025)).rd secIdNextNext 0 + 1 = 2 ^ 40 - 1024 ∧
      s.sec.nonces.find? (fun n => n.value == 9) = some ⟨0, 9, 0⟩ := by decide

theorem wit_Signing_bounds : (owned.wr secKeystateIdEnd 0 1024).Bounds := ⟨by decide, by decide, by decide, by decide⟩

/-- A bus peer with all rights. -/
def bused : State := { up with mgmt := { up.mgmt with peers := [⟨5, 1, 0, 0, 7, 0⟩] } }

def frame (kind pn : Nat) : MgmtFrame := ⟨true, true, 5, 0, true, pn, kind, ⟨4, 0x0131, 9, false, 0⟩, 100⟩

/-- Packet numbers at the window's edge: 16 behind the next one, and 17. -/
theorem wit_ManagementBus : bused.powered = true ∧ (∃ e ∈ bused.mgmt.peers, e.sci = (frame 1 20).sci) ∧
    (bused.frameSa (frame 1 20)).isSome = true ∧ bused.frameSa { frame 1 20 with an := 3 } = none ∧
    tget 0 ({ bused.mgmt with seen := [(0, 37)] } : Mgmt).seen 0 = 37 ∧ 20 + 16 < 37 ∧ 36 ≤ 20 + 16 ∧
    (∃ e ∈ bused.mgmt.peers, e.sci = 5 ∧ bit e.rights 0 = true) ∧ (∃ e ∈ bused.mgmt.peers, e.sci = 5 ∧ bit e.rights 1 = true) ∧
    ¬ (∃ e ∈ up.mgmt.peers, e.sci = 5 ∧ bit e.rights 1 = true) ∧ (bused.box (.bus 5)).st ≠ 1 ∧ (bused.box (.bus 5)).reply = none ∧
    bused.on sitCoreRestarting 0 = false ∧ bused.gate (.bus 5) 0x0002 = none ∧ bused.gate (.bus 5) 0x0131 = some (.s 301) ∧
    bused.gate (.bus 5) 0x0666 = some (.s 300) ∧ tget 0 bused.sit.nextAt 10 ≤ bused.now ∧
    bused.now < tget 0 ({ bused.sit with nextAt := [(10, 1)] } : Sitter).nextAt 10 ∧
    (bused.wr sitMgmtCfgNodeId 0 254).rd sitMgmtCfgNodeId 0 = 254 ∧ (up.wr sitMgmtCfgNodeId 0 255).rd sitMgmtCfgNodeId 0 = 255 := by decide

def sample (pf : Bool) : WindowSample := ⟨0, 0, 0, 0, 2500, [], [], [], pf⟩

theorem wit_Metering : ¬ (up.powered = false ∨ up.wheel.running = false ∨ up.meter.pfClosed = true ∨ ((sample false).powerFail = true ∧ up.power.seq = none)) ∧
    ((sample true).powerFail = true ∧ up.power.seq = none) ∧
    ¬ ((sample false).powerFail = true ∨ up.meter.sealAsked = true ∨ up.meter.batchStart + up.sealTicks ≤ (up.advanceTo (up.windowEnd false)).now) ∧
    ({ up with meter := { up.meter with sealAsked := true } } : State).meter.sealAsked = true ∧ up.meter.inputOk = true ∧
    ({ up with meter := { up.meter with inputOk := false } } : State).meter.inputOk = false ∧
    ({ up with meter := { up.meter with gap := true } } : State).meter.gap = true ∧ up.stagingFull = false ∧
    up.gate f2 0x0300 = none ∧ up.gate f2 0x0301 = none ∧ up.sitterUp = true ∧ up.staged 3 = none ∧
    ((busAsks 1400).box (.bus 5)).req.place ≠ 0 := by decide

def batch3 : Staged := ⟨3, [], [[1, 2]], none, 0, 0⟩

theorem wit_Metering_staged :
    let s := { up with meter := { up.meter with staging := [batch3, { batch3 with seq := 4, signature := some [7] }] } }
    s.staged 3 = some batch3 ∧ batch3.records[0]? = some [1, 2] ∧ batch3.records.length ≤ 1 ∧
      (∃ b ∈ s.meter.staging, b.seq ≤ 3 ∧ b.signature = none) ∧
      (∀ b ∈ ({ up with meter := { up.meter with staging := [{ batch3 with signature := some [7] }] } } : State).meter.staging,
        b.seq ≤ 3 → b.signature ≠ none) := by decide

def resting : State := { up with svc := { up.svc with resting := true }, rep := { up.rep with dqFlagged := [(0, 3)] } }

/-- A warm reset waits for its rest point, in recovery or not. -/
def warming : State := { up with svc := { up.svc with resting := true, phase := .warm } }

theorem wit_Service : up.svc.resting = false ∧ resting.svc.resting = true ∧ resting.svc.phase = .service ∧ resting.switchAllOut.restWaits = false ∧
    warming.svc.phase = .warm ∧ warming.on sitCoreRestarting 0 = false ∧ warming.recovering = false ∧
    (warming.wr secStateRecovery 0 1).recovering = true ∧
    resting.rep.dqFlagged = [(0, 3)] ∧ resting.rd stkDqSpareLeft 0 < 2 ^ 34 ∧ up.rep.dqFlagged = [] ∧
    up.rep.colsFlagged ++ [((⟨0, 0, 0, 0⟩ : TileId), 3)] = [(⟨0, 0, 0, 0⟩, 3)] ∧ up.rd tileColmapOut (tileInst ⟨0, 0, 0, 0⟩) = 0 ∧
    up.rd tileColmapBypass1 (tileInst ⟨0, 0, 0, 0⟩) = 31 ∧ up.rd tileColmapBypass2 (tileInst ⟨0, 0, 0, 0⟩) = 31 ∧
    (up.wr tileColmapBypass1 (tileInst ⟨0, 0, 0, 0⟩) 16).rd tileColmapBypass1 (tileInst ⟨0, 0, 0, 0⟩) = 16 ∧
    tileInstOk (tileInst ⟨0, 0, 0, 0⟩) = true ∧ up.gate f0 0x0170 = none ∧ up.gate f0 0x0500 = none ∧ up.gate f0 0x0501 = none ∧
    up.sitterUp = true ∧ up.power.seq = none ∧ (failing 1 true false).power.seq ≠ none ∧ (inPhase (.down 163)).svc.phase = .down 163 ∧
    up.flue.opened = [] ∧ failingFir.firing? 5 = some (fir 0 []) ∧ (fir 0 []).ending = false ∧ (fir 0 []).launched = true := by decide

/-- reset.cold in the ctl cycle of a warm reset. -/
theorem wit_Service_instead :
    let s := warming.wr sitCoreRestarting 0 1
    let t := { s with sit := { s.sit with restartCause := 2 } }
    t.powered = true ∧ t.svc.phase = .warm ∧ t.power.seq = none ∧ t.on sitCoreRestarting 0 = true ∧ t.sit.restartCause = 2 ∧
      t.gate f0 0x0501 = none := by decide

/-- A rest point waits for a firing at work outside a pass boundary. -/
theorem wit_Service_waits :
    ({ streaming with svc := { streaming.svc with resting := true } } : State).switchAllOut.restWaits = true := by decide

theorem wit_Frames : (mailboxOf (.signalRead f0 7)).isSome = true ∧ mailboxOf (.turnStart) = none ∧
    (after (.signalRead f0 7) up).isSome = true ∧ (after .turnStart up).isSome = true := by decide
/-! ### Ill-formed commands, one for each check -/

def tok : Token := ⟨0, 0, 0, 0, [], [], []⟩
def mb : MbReq := ⟨0, 0, 0, false, 0⟩

/-- Every bound of `Instr.wf`, crossed by one. -/
def illFormed : List Instr :=
  [.moduleFault (.kiln 8), .moduleFault (.stack 16), .registerWrite 3 0 0 0 0, .persistentWrite 4096 0 false false, .passStart 1280, .passStart 1417,
   .drainTimeout 8 0, .drainTimeout 0 160, .shelfFault 8 0, .shelfFault 0 160, .dmaDoorbell 136, .dmaRingEnableWrite 136 true,
   .descriptorFetch 136, .descriptorStart 136, .waitCopyRelease 136, .descriptorComplete 136 false, .stackLineRead none (2 ^ 40) .clean,
   .stackLineWrite none (2 ^ 40) [0], .stackLineWrite none 63 [0, 0], .parityRecompute 16 0, .parityRecompute 0 (2 ^ 26),
   .accumAdd none 0 3 0 0, .accumAdd none 0 0 (2 ^ 40 - 3) 0, .channelFail 16 0 [], .channelFail 0 17 [], .rebuildComplete 16,
   .hostAccessError 136, .hostReadTimeout 136, .sigInc 1418 0 0 0 0 false, .sigInc 0 0 8192 0 0 false, .waitGe 1418 0 0 0 0 0,
   .waitGe 0 0 8192 0 0 0, .waitCon 1418 0 0 0 0 0, .waitCon 0 0 8192 0 0 0, .waitExpiry 1418 0, .waitExpiry 0 8192,
   .barArrive 1418 0 0 0, .barArrive 0 0 256 0, .barWait 1418 0 0 0, .barWait 0 0 256 0, .barArriveWait 1418 0 0 0,
   .barArriveWait 0 0 256 0, .dmaBarrierArrival 136 0, .dmaBarrierArrival 0 256, .timeSliceExpiry 64, .sqDoorbell 64, .slotAccept 64,
   .angleEvent 65536, .turnEdge 2 0, .wheelRefLoss 2 false, .wheelMark 14 mark0, .windowOpen 272 0, .windowClose 272 0,
   .damperTransferArrival 272 (transfer 0 1 1 false false), .damperTransferArrival 0 (transfer 1418 1 1 false false), .damperGrant 272, .cutOff 272,
   .dmpRelease 272 0, .flitReceive 14 ⟨[], true⟩, .linkReplay 14 0, .packetForward 14, .laneFail 14 0, .laneFail 0 18, .laneFail 8 10,
   .linkRetrain 14 [] true, .linkDown 14, .linkTraining 14 (.failedAt 1), .trainingRetry 14, .identityFrame 14 none,
   .linkStateNotice 14 ⟨0, 0, true, 0, 0⟩, .resendTimeout 16384, .destinationUnreachable 16384, .heldReadRelease 136,
   .functionLevelReset 3, .nvmeCompletion 4 0, .driveRequest 4 0 0 none, .storageLinkDown 4, .storageLinkRetrain 4 true,
   .ageingThreshold (.dqLane 16 0), .ageingThreshold (.dqLane 0 17), .ageingThreshold (.reconRate 16 0 []),
   .ageingThreshold (.reconRate 0 16 []), .ageingThreshold (.scratchRow 8 0), .ageingThreshold (.scratchRow 0 160),
   .ageingThreshold (.scratchBank 8 0), .ageingThreshold (.scratchBank 0 160), .ageingThreshold (.fabricLane 14 0),
   .ageingThreshold (.column ⟨8, 0, 0, 0⟩ 0), .ageingThreshold (.column ⟨0, 0, 0, 0⟩ 17), .graphStore f0 1024 0 (.host 0) [],
   .graphDrop f0 1024, .firingLaunchCmd f0 64 0, .paramPatch f0 1024 0 [], .taskBind f0 1024 0, .taskBind f0 0 64, .taskUnbind f0 64,
   .signalIncCmd f0 8192 1 false, .signalRead f0 8192, .signalSet f0 8192 1 false, .barrierArriveCmd f0 256, .damperRelease f0 272 0,
   .fabricPort f0 14, .configurationWrite 3 true false, .vectorUnitOperation { vuSum with kiln := 8 },
   .vectorUnitOperation { vuSum with shelf := 160 }, .hostLaneLoss .h 16]

/-- WellFormed refuses each of them. -/
theorem test_ill_formed : illFormed.all (fun i => !i.wf) = true := by decide

/-- And the machine stops on one of an engine, a stack line and a queue that do not exist. -/
theorem test_no_such_unit : (∀ s, exec (.dmaDoorbell 136) s = .fault .noSuchUnit) ∧
    (∀ s, exec (.stackLineRead none (2 ^ 40) .clean) s = .fault .noSuchUnit) ∧ (∀ s, exec (.sqDoorbell 64) s = .fault .noSuchUnit) :=
  ⟨fun _ => rfl, fun _ => rfl, fun _ => rfl⟩

/-! ### Number formats (spec/02's examples) -/

/-- 300.0, 460.0 and 470.0 to Slip8e4 under RNE, with and without SAT. -/
theorem test_slip8e4_example :
    (convert 5 0 true 0 0 (decode 1 0x43960000)).bits = 0x79 ∧ (convert 5 0 true 0 0 (decode 1 0x43960000)).flags = flInexact ∧
    (convert 5 0 true 0 0 (decode 1 0x43E60000)).bits = 0x7E ∧ (convert 5 0 true 0 0 (decode 1 0x43E60000)).flags = flInexact ∧
    (convert 5 0 true 0 0 (decode 1 0x43EB0000)).bits = 0x7E ∧
    (convert 5 0 true 0 0 (decode 1 0x43EB0000)).flags = flOverflow + flInexact + flSat ∧
    (convert 5 0 false 0 0 (decode 1 0x43EB0000)).bits = 0x7F ∧
    (convert 5 0 false 0 0 (decode 1 0x43EB0000)).flags = flOverflow + flInexact + flInvalid := by decide

/-- The scale block of spec/02's example: its elements, scale and flags. -/
def grogIn : List Nat :=
  [0x40300000, 0xBFA80000, 0x3E400000, 0, 0x80000000, 0x3F200000, 0x3F800000, 0xC0080000, 0x3E000000, 0x3F400000, 0x3FA00000, 0xBF000000,
   0xBD800000, 0x3FE00000, 0xBEC00000, 0x3F000000]

theorem test_grog4_example :
    let g := grogBlock 0 0 0 (grogIn.map fun w => some (decode 1 w))
    g.scale = 0x78 ∧ g.els.map (·.bits) = [7, 13, 1, 0, 8, 2, 4, 14, 0, 3, 4, 10, 8, 6, 10, 2] ∧
      g.els.foldl (fun a e => a ||| e.flags) 0 = flInexact + flUnderflow ∧ (g.els.filter (·.zeroed)).length = 2 := by decide

/-- A NaN in the block: scale 0xFF, every element 0 (R67). -/
theorem test_grog4_nan :
    let g := grogBlock 0 0 0 ((grogIn.set 4 0x7FC00000).map fun w => some (decode 1 w))
    g.scale = 0xFF ∧ g.els.all (fun e => e.bits == 0) = true := by decide

/-- Binary32 sums in place: spec/08's orders of 1, 2^24 and -2^24. -/
theorem test_accumulate_orders :
    (addElem 0 (addElem 0 (addElem 0 0 0x3F800000).bits 0x4B800000).bits 0xCB800000).bits = 0 ∧
    (addElem 0 (addElem 0 (addElem 0 0 0xCB800000).bits 0x3F800000).bits 0x4B800000).bits = 0x3F800000 := by decide

/-! ### Layout, addresses and codes -/

/-- Element (5, 11) of an INT4 block lies in byte 45; (15, 15) of a Glaze16 block at 510 (spec/05). -/
theorem test_block_bytes : elemAddr 8 0 1 5 11 = 45 ∧ elemAddr 3 0 1 15 15 = 510 := by decide

/-- Block (2, 13) of a Grog4 tensor at 0x20000 with LD 24 begins at 0x22200 (spec/05). -/
theorem test_grog4_layout : elemAddr 6 0x20000 24 32 208 = 0x22200 := by decide

/-- Table 7.3's fields: stack 5, stripe 0xE_9FF0, channel 11 (spec/07's example, its address written with all ten digits; log 39). -/
theorem test_stack_address : stackOf 0x503A7FC2C8 = 5 ∧ chanOf 0x503A7FC2C8 = 11 ∧ stripeOf 0x503A7FC2C8 = 0xE9FF0 ∧
    lineOf 0x503A7FC2C8 = 0x503A7FC2C0 ∧ stripeBase 0x503A7FC2C8 = 0x503A7FC000 := by decide

/-- Table 7.6's check values of "123456789". -/
theorem test_crc : crc32c [49, 50, 51, 52, 53, 54, 55, 56, 57] = 0xE3069283 ∧
    crc64 [49, 50, 51, 52, 53, 54, 55, 56, 57] = 0xAE8B14860A799888 := by decide

/-! ### Single steps -/

/-- Increments saturate and set SAT_SEEN (R214). -/
theorem test_signal_saturates :
    (after (.signalIncCmd f0 7 5 false) (up.wr fluSigValueValue 7 (2 ^ 32 - 2))).map (fun t => t.sigVal 7) = some (2 ^ 32 - 1) := by decide

/-- One increment serves a WAIT_GE and lets one consuming wait take its value (Table 8.5). -/
theorem test_signal_serves :
    (after (.signalIncCmd f0 7 3 false) waiting).map (fun t => (t.sigVal 7, t.flue.waits)) = some (1, []) := by decide

/-- A turn starts T0 + L later with the next number (R272). -/
theorem test_turn_start : (after .turnStart (turning up)).map (fun t => (t.rd whlTurnStartT0 0, t.rd whlPosTurnNo 0, t.now)) =
    some (65536, 1, 65536) := by decide

/-- A command waits first in, first out: step runs the front one and leaves the rest. -/
theorem test_step_takes_front :
    (match step { up with pending := [.signalIncCmd f0 7 5 false, .turnStart] } with
      | .next t => (t.pending, t.sigVal 7)
      | _ => ([], 0)) = ([.turnStart], 5) := by decide

/-- A command from a function that may not send it is answered S-301; an unknown one S-300 (R360). -/
theorem test_gate_answers : (after (.signalRead f1 7) up).bind (fun t => (t.box f1).reply.map (·.status)) = some (.s 301) ∧
    up.gate f0 0x0666 = some (.s 300) := by decide

/-- A 65-byte write is no line write; a whole line written reads back. -/
theorem test_line_write : (Instr.stackLineWrite none 0 (List.replicate 65 0)).wf = false ∧
    (after (.stackLineWrite none 4096 [1, 2, 3]) up).map (fun t => mreadN t.mem.stack 4095 5) = some [0, 1, 2, 3, 0] := by decide

/-- A ring's doorbell wakes it only while it is enabled (R184). -/
theorem test_doorbell : (after (.dmaDoorbell 0) up).map (fun t => (t.engine 0).awake) = some false ∧
    (after (.dmaDoorbell 0) (up.wr dmaRingCtlEnable 0 1)).map (fun t => (t.engine 0).awake) = some true := by decide

/-- Acceptance numbers a firing with FSEQ and leaves its slot until the record is logged (R238). -/
theorem test_accept : (after (.slotAccept 0) (submitted ownedSlot)).map
    (fun t => (t.fe.firings.map (·.fseq), t.rd feFseqNext 0, t.rd feSqCfgHead 0, t.fe.writing.map (·.kind))) = some ([9], 10, 1, [1]) := by decide

/-- A graph not resident: STATUS 1, HEAD advances, no firing (Table 9.9). -/
theorem test_refuse_slot : (after (.slotAccept 0) (submitted (ownedSlot + 1))).map
    (fun t => (t.fe.firings.length, t.rd feSqCfgHead 0, t.subSlot 0 0 / 2 ^ 496)) = some (0, 1, 1) := by decide

/-- Cancelling a firing abandons it with F-161 (R257). -/
theorem test_cancel : (after (.firingCancel f0 5) (withFir (fir 0 [0]) graph1)).bind
    (fun t => (t.firing? 5).map fun f => (f.st == .abandoning, f.code)) = some (true, 161) := by decide

/-- The rack's power-fail signal starts the sequence after its qualification (R30). -/
theorem test_power_fail : (after .pwrFailNLow up).map (fun t => t.power.seq.isSome) = some true := by decide

/-- A token with a bad magic number is refused with S-330 (Table 14.6). -/
theorem test_token_format : (after (.tokenApplyDebug f2 tok) owned).bind (fun t => (t.box f2).reply.map (·.status)) = some (.s 330) := by decide

/-- A second failed channel of a stack loses it (R181). -/
theorem test_second_channel : (after (.channelFail 0 4 []) (rebuilding.wr stkStatusFailedCh 0 3)).map (fun t => t.rep.lostStacks) = some [0] := by decide

/-- Cycle 2,050 of Table 8.5: two pulses of one ctl cycle release the WAIT_GE 2 before the WAIT_CON 1 takes its value. -/
theorem test_table_8_5 :
    (after (.signalIncCmd f0 7 1 false) { up with flue := { up.flue with
      waits := [{ wGe with value := 2 }, { wCon with value := 1, timeout := 0 }], opened := [(7, ⟨1, []⟩)] } }).map
      (fun t => (t.sigVal 7, t.flue.waits)) = some (1, []) := by decide

/-- Table 10.5: the window's counts in a turn of 250,000,000 tk from 40,000,000,000; the COPY of 64 lines granted at
40,062,499,960 stops after 42 of them. -/
theorem test_table_10_5 :
    let s := (up.wr whlTurnStartT0 0 40000000000).wr whlTurnLenLen 0 250000000
    s.openCount (2 ^ 16 * 16384 + 2 ^ 32) = 40062500000 ∧ s.closeCount (2 ^ 16 * 16384 + 2 ^ 32) = 40062503815 ∧
      boundary ⟨1301, 1, 0, false, false, true, 64, lineTicks 64⟩ 40062499960 40062500000 = (42, 40062500001) := by decide
end Sys2Proof.Machine.Tests
end

section
/-! Loss of input power (spec/00 R11, spec/01 R31). -/

namespace Sys2Proof.Machine

/-- What a module with power becomes when its input goes (R11, R31). -/
def State.unpowered (s : State) : State :=
  let s := s.loseWriting.loseBatch
  { s with
    power := { s.power with
      input := false, seq := none, seqLive := false, below53 := false, throttled := false, tap := none }
    svc := { s.svc with phase := .off (s.svc.phase.endCode 162), causeNext := 0, resting := false }
    wheel := { s.wheel with running := false } }

theorem exec_inputPowerLoss_powered {s : State} (p : s.powered = true) :
    exec .inputPowerLoss s = .next s.unpowered := congrArg _ (if_pos p)

theorem exec_inputPowerLoss_off {s : State} (p : s.powered = false) :
    exec .inputPowerLoss s = .next { s with power := { s.power with input := false } } :=
  congrArg _ (if_neg (by simp [p]))

theorem unpowered_touch (s : State) :
    Touch [.one .power, .one .log, .one .wheel, .one .meter, .one .phase] s s.unpowered :=
  .set ((loseBatch_touch s.loseWriting).step ((loseWriting_touch s).mono (by decide)))

/-- The staging area is no part of the batch in progress (R413). -/
theorem loseBatch_staging (s : State) : s.loseBatch.meter.staging = s.meter.staging := rfl

end Sys2Proof.Machine

open Sys2Proof Sys2Proof.Machine

/-- Settles O21, by cases on whether the module has power. -/
theorem powerLossKeepsTheArray : Obligations.PowerLossKeepsTheArray := by
  intro s
  cases p : s.powered
  case false =>
    refine ⟨_, exec_inputPowerLoss_off p, rfl, p, rfl, rfl, rfl, rfl, rfl, nofun, fun _ => rfl, ?_⟩
    exact (Touch.set (.refl _ s)).keep
  case true =>
    refine ⟨_, exec_inputPowerLoss_powered p, rfl, rfl, rfl, loseBatch_staging _, rfl, rfl, rfl,
      fun _ => ⟨rfl, rfl, rfl, rfl⟩, nofun, (unpowered_touch s).keep⟩
end

section
/-! The tile clock's steps (spec/00 R6, spec/01 R23, R26, R35, R36, R44). -/

namespace Sys2Proof.Machine

/-- CAP_STEP reads as it was written, 6 and 7 as 5 (Table 1.10). -/
theorem rd_setCap {s : State} (p : s.powered = true) (v : Nat) :
    (s.setCap v).rd modClkStepCapStep 0 = min 5 (v % 8) := by
  rw [State.setCap, if_pos p]
  exact rd_wr_lt _ _ _ (by show _ < 2 ^ 3; omega)

/-- Writing the cap leaves the step in force alone. -/
theorem rd_setCap_step {s : State} (p : s.powered = true) (v : Nat) :
    (s.setCap v).rd modClkStepStep 0 = s.rd modClkStepStep 0 := by
  rw [State.setCap, if_pos p]
  exact rd_wr_ne _ _ _ _ (by decide)

theorem setCap_powered (s : State) (v : Nat) : (s.setCap v).powered = s.powered := by
  unfold State.setCap; split <;> rfl

theorem setCap_power (s : State) (v : Nat) : (s.setCap v).power = s.power := by
  unfold State.setCap; split <;> rfl

/-- The cap is one of the requests, so the clock is never asked to run faster. -/
theorem capStep_le_targetStep (s : State) : s.capStep ≤ s.targetStep := Nat.le_max_left ..

/-- What a draw asks for: one slower than the step in force or slower still, else no more than before (log 111). -/
theorem drawRequest_bounds (s : State) (draw : Nat) :
    (8400 < draw → min 5 (s.rd modClkStepStep 0 + 1) ≤ s.drawRequest draw) ∧
      (draw ≤ 8400 → s.drawRequest draw ≤ s.power.drawStep) := by
  unfold State.drawRequest
  refine ⟨fun h => ?_, fun h => ?_⟩
  · dsimp only; rw [if_pos h]; omega
  · dsimp only; rw [if_neg (by omega)]
    exact Nat.le_of_lt_succ (Nat.mod_lt _ (Nat.succ_pos _))

/-- A slow power step: the draw's request is noted (R26). -/
def State.drawNoted (s : State) (draw : Nat) : State :=
  { s with fresh := s.fresh + 1, power := { s.power with drawStep := s.drawRequest draw } }

theorem drawNoted_touch (s : State) (draw : Nat) : Touch [.one .fresh, .one .power] s (s.drawNoted draw) := by
  refine .set (.refl _ s) (b4 := fun h => ⟨h.1, h.2.1, h.2.2.1, ?_⟩)
  have := h.2.2.2
  show s.drawRequest draw ≤ 5
  unfold State.drawRequest
  dsimp only
  split
  · omega
  · have := Nat.mod_lt (Config.freeNat s.fresh) (Nat.succ_pos s.power.drawStep)
    simp only [Nat.succ_eq_add_one] at this
    omega

theorem exec_slowPowerStep {s : State} (p : s.powered = true) (draw : Nat) :
    exec (.slowPowerStep draw) s = .next (if s.passBoundary then
      (s.drawNoted draw).wr modClkStepStep 0 (s.drawNoted draw).targetStep else s.drawNoted draw) :=
  congrArg _ (if_pos p)

theorem passBoundary_iff (s : State) : s.passBoundary = true ↔ ∀ p ∈ s.passes, p.stopped = true := List.all_eq_true

/-- The step comes into force at a pass boundary and waits while a pass streams (R26, R36). -/
theorem slowPowerStep_answers {s : State} (p : s.powered = true) (draw : Nat) :
    Answers (.slowPowerStep draw) s fun t =>
      ((∀ p ∈ s.passes, p.stopped = true) → t.rd modClkStepStep 0 = (s.drawNoted draw).targetStep % 8) ∧
      ((∃ p ∈ s.passes, p.stopped = false) → t.rd modClkStepStep 0 = s.rd modClkStepStep 0) ∧
      t.power = (s.drawNoted draw).power ∧ Unchanged [.one .fresh, .one .power, modClkStepReg.grain] s t := by
  refine ⟨_, exec_slowPowerStep p draw, ?_⟩
  cases b : s.passBoundary
  case true =>
    have all := (passBoundary_iff s).1 b
    refine ⟨fun _ => rd_wr_same .., fun ⟨p, m, h⟩ => absurd (all p m) (by simp [h]), rfl, ?_⟩
    exact ((wr_touch ..).step ((drawNoted_touch s draw).mono (by decide))).keep
  case false =>
    exact ⟨fun h => absurd ((passBoundary_iff s).2 h) (by simp [b]), fun _ => rfl, rfl,
      ((drawNoted_touch s draw).mono (by decide)).keep⟩

/-- The state after a step down: the junction shown, and one step more than what is in force or pending (R35). -/
def State.steppedDown (s : State) (tj : Nat) : State :=
  let s := s.wr modClkStepTjMaxC 0 tj
  { s with power := { s.power with thermStep := min 5 (max s.power.thermStep (s.rd modClkStepStep 0) + 1) } }

theorem exec_thermalStepDown {s : State} (p : s.powered = true) {tj : Nat} (h : 95 < tj) :
    exec (.thermalStepDown tj) s = .next (s.steppedDown tj) := congrArg _ (if_pos (by simp [p, h]))

theorem exec_thermalStepDown_cool (s : State) {tj : Nat} (h : tj ≤ 95) : exec (.thermalStepDown tj) s = .next s :=
  congrArg _ (if_neg (by simp; omega))

theorem steppedDown_thermStep (s : State) (tj : Nat) :
    (s.steppedDown tj).power.thermStep = min 5 (max s.power.thermStep (s.rd modClkStepStep 0) + 1) :=
  congrArg (fun n => min 5 (max s.power.thermStep n + 1))
    (rd_wr_ne s (f := modClkStepTjMaxC) (g := modClkStepStep) 0 0 tj (by decide))

/-- A step down shows the junction and moves no other field of the clock register. -/
theorem steppedDown_rd (s : State) (tj : Nat) :
    (tj < 256 → (s.steppedDown tj).rd modClkStepTjMaxC 0 = tj) ∧
      (s.steppedDown tj).rd modClkStepStep 0 = s.rd modClkStepStep 0 ∧
      (s.steppedDown tj).rd modClkStepCapStep 0 = s.rd modClkStepCapStep 0 :=
  ⟨fun h => rd_wr_lt s modClkStepTjMaxC 0 h, rd_wr_ne s (f := modClkStepTjMaxC) 0 0 tj (by decide),
    rd_wr_ne s (f := modClkStepTjMaxC) 0 0 tj (by decide)⟩

theorem steppedDown_touch (s : State) (tj : Nat) : Touch [.one .power, modClkStepReg.grain] s (s.steppedDown tj) :=
  .set ((wr_touch s modClkStepTjMaxC 0 tj).mono (by decide))

/-- The state after a step up: one step less asked for (R35). -/
def State.steppedUp (s : State) (tj : Nat) : State :=
  let s := s.wr modClkStepTjMaxC 0 tj
  { s with power := { s.power with thermStep := s.power.thermStep - 1 } }

theorem exec_thermalStepUp {s : State} (p : s.powered = true) {tj : Nat} (h : tj ≤ 88) :
    exec (.thermalStepUp tj) s = .next (s.steppedUp tj) := congrArg _ (if_pos (by simp [p, h]))

theorem exec_thermalStepUp_hot (s : State) {tj : Nat} (h : 88 < tj) : exec (.thermalStepUp tj) s = .next s :=
  congrArg _ (if_neg (by simp; omega))

theorem steppedUp_cap (s : State) (tj : Nat) :
    (s.steppedUp tj).rd modClkStepCapStep 0 = s.rd modClkStepCapStep 0 :=
  rd_wr_ne s (f := modClkStepTjMaxC) 0 0 tj (by decide)

theorem steppedUp_touch (s : State) (tj : Nat) : Touch [.one .power, modClkStepReg.grain] s (s.steppedUp tj) :=
  .set ((wr_touch s modClkStepTjMaxC 0 tj).mono (by decide))

/-- The state after an inlet temperature has been told: above 35 °C one to five steps are asked for (R6, log 92). -/
def State.inletTold (s : State) (tin : Nat) : State :=
  let s := s.wr modClkStepTinC 0 tin
  let n := if tin ≤ 35 then 0 else 1 + Config.freeNat s.fresh % 5
  { s with fresh := s.fresh + 1, power := { s.power with inletStep := n } }

theorem exec_coolantInletHigh {s : State} (p : s.powered = true) (tin : Nat) :
    exec (.coolantInletHigh tin) s = .next (s.inletTold tin) := congrArg _ (if_pos p)

theorem inletTold_inletStep (s : State) (tin : Nat) :
    (tin ≤ 35 → (s.inletTold tin).power.inletStep = 0) ∧
      (35 < tin → 1 ≤ (s.inletTold tin).power.inletStep ∧ (s.inletTold tin).power.inletStep ≤ 5) := by
  unfold State.inletTold
  dsimp only
  refine ⟨fun h => if_pos h, fun h => ?_⟩
  rw [if_neg (by omega)]
  omega

theorem inletTold_touch (s : State) (tin : Nat) :
    Touch [.one .fresh, .one .power, modClkStepReg.grain] s (s.inletTold tin) :=
  .set ((wr_touch s modClkStepTinC 0 tin).mono (by decide))

/-- The state after a low input has been seen: up to five steps are asked for (R23, log 92). -/
def State.lowSeen (s : State) (mv : Nat) : State :=
  let s := (s.wr modPwrStatusVinMv 0 mv).setBit modPwrStatusLowVSeen 0
  { s with fresh := s.fresh + 1, power := { s.power with lowVStep := Config.freeNat s.fresh % 6 } }

theorem exec_lowVSeen {s : State} (p : s.powered = true) {mv : Nat} (lo : 53000 ≤ mv) (hi : mv < 54000) :
    exec (.lowVSeen mv) s = .next (s.lowSeen mv) := congrArg _ (if_pos (by simp [p, lo, hi]))

theorem lowSeen_vin (s : State) {mv : Nat} (hi : mv < 54000) : (s.lowSeen mv).rd modPwrStatusVinMv 0 = mv :=
  (rd_setBit_ne (s.wr modPwrStatusVinMv 0 mv) (f := modPwrStatusLowVSeen) 0 0 (by decide)).trans
    (rd_wr_lt s modPwrStatusVinMv 0 (by show mv < 2 ^ 16; omega))

theorem lowSeen_touch (s : State) (mv : Nat) :
    Touch [.one .fresh, .one .power, modPwrStatusReg.grain] s (s.lowSeen mv) :=
  .set ((setBit_touch (s.wr modPwrStatusVinMv 0 mv) modPwrStatusLowVSeen 0).step
    ((wr_touch s modPwrStatusVinMv 0 mv).mono (by decide)))

end Sys2Proof.Machine

open Sys2Proof Sys2Proof.Machine

/-- Settles O23, command by command. -/
theorem clockSteps : Obligations.ClockSteps := by
  intro s v tj tin mv draw p
  refine ⟨?cap, ?draw, ?down, ?capThenDown, ?cool, ?up, ?hot, ?inlet, ?low⟩
  case cap => exact ⟨_, rfl, rd_setCap p v, (setCap_touch s v).keep⟩
  case draw =>
    obtain ⟨t, e, force, wait, pw, keep⟩ := slowPowerStep_answers p draw
    obtain ⟨above, below⟩ := drawRequest_bounds s draw
    have ds : t.power.drawStep = s.drawRequest draw := congrArg Power.drawStep pw
    refine ⟨t, e, fun h => ?_, wait, fun h => ds ▸ above h, fun h => ds ▸ below h, keep⟩
    rw [force h, ds]
    rfl
  case down =>
    intro h lt
    obtain ⟨shown, step, -⟩ := steppedDown_rd s tj
    exact ⟨_, exec_thermalStepDown p h, steppedDown_thermStep s tj, shown lt, step, (steppedDown_touch s tj).keep⟩
  case capThenDown =>
    intro h
    obtain ⟨-, -, cap⟩ := steppedDown_rd (s.setCap v) tj
    refine ⟨_, rfl, _, exec_thermalStepDown ((setCap_powered s v).trans p) h, ?_, ?_⟩
    · rw [steppedDown_thermStep, setCap_power, rd_setCap_step p]
    · rw [State.capStep, cap, rd_setCap p]; omega
  case cool => exact fun h => exec_thermalStepDown_cool s h
  case up =>
    intro h
    have cap : s.capStep = (s.steppedUp tj).capStep := by rw [State.capStep, State.capStep, steppedUp_cap]
    exact ⟨_, exec_thermalStepUp p h, rfl, steppedUp_cap s tj, cap ▸ capStep_le_targetStep _, (steppedUp_touch s tj).keep⟩
  case hot => exact fun h => exec_thermalStepUp_hot s h
  case inlet =>
    intro lt
    obtain ⟨mild, warm⟩ := inletTold_inletStep s tin
    exact ⟨_, exec_coolantInletHigh p tin, rd_wr_lt s modClkStepTinC 0 lt, mild, warm, (inletTold_touch s tin).keep⟩
  case low =>
    intro lo hi
    refine ⟨_, exec_lowVSeen p lo hi, rd_setBit_same _ 0 (by decide), lowSeen_vin s hi, ?_, rfl, (lowSeen_touch s mv).keep⟩
    exact Nat.le_of_lt_succ (Nat.mod_lt _ (by decide))
end

section
/-! Lost kilns and stacks, and the end of normal service that follows (spec/00 R12, spec/01 R28). -/

namespace Sys2Proof.Machine

/-! ### The repair map's lists of what is lost -/

/-- Two states name the same kilns and stacks as lost. -/
def State.sameLost (s t : State) : Prop :=
  t.rep.lostKilns = s.rep.lostKilns ∧ t.rep.lostStacks = s.rep.lostStacks

theorem State.sameLost.trans {s t u : State} (a : s.sameLost t) (b : t.sameLost u) : s.sameLost u :=
  ⟨b.1.trans a.1, b.2.trans a.2⟩

/-- What leaves the repair map alone leaves what is lost. -/
theorem Touch.sameLost {gs : List Grain} {s t : State} (a : Touch gs s t) (h : covered gs .repair = false := by decide) :
    s.sameLost t := by
  obtain ⟨r, -⟩ := a.keep .repair h
  exact ⟨congrArg Repair.lostKilns r, congrArg Repair.lostStacks r⟩

theorem exhaust_sameLost (s : State) (kind unit : Nat) : s.sameLost (s.exhaust kind unit) := by
  unfold State.exhaust
  split
  · exact ⟨rfl, rfl⟩
  · exact State.sameLost.trans ⟨rfl, rfl⟩ ((post_touch ..).sameLost)

/-- A write of a persistent register that no loss of power tears loses no kiln and no stack. -/
theorem prsWrite_sameLost (s : State) (r value : Nat) : s.sameLost (s.prsWrite r value false).1 := by
  have shown : ∀ k c v, s.sameLost ((s.prsPut r k c v false).prsShown r) := fun k c v =>
    ((prsPut_touch s r k c v false).sameLost).trans ((prsShown_touch _ r).sameLost)
  have posted : ∀ (u : State) ps, u.sameLost ((u.setBit prsStatusRetireSeen 0).post (.s 346) ps) := fun u ps =>
    (setBit_touch u prsStatusRetireSeen 0).sameLost.trans (post_touch _ _ ps).sameLost
  unfold State.prsWrite
  dsimp only
  split
  · exact (shown ..).trans (exhaust_sameLost ..)
  · split
    · exact ⟨rfl, rfl⟩
    · split
      · exact (setBit_touch s prsStatusRefusedSeen 0).sameLost
      · simp only [Bool.false_eq_true, if_false]
        split
        · exact shown ..
        · split
          · exact ((shown ..).trans (posted ..)).trans (exhaust_sameLost ..)
          · exact (shown ..).trans (posted ..)

/-- Committing the repair map loses nothing of it. -/
theorem commitRepair_sameLost (s : State) : s.sameLost s.commitRepair := by
  unfold State.commitRepair State.persist
  refine State.sameLost.trans (t := _) ?_ (prsWrite_sameLost ..)
  exact ⟨rfl, rfl⟩

theorem has_addNew (l : List Nat) (n : Nat) : has (addNew l n) n = true := by
  unfold addNew
  split
  · assumption
  · simp [has]

theorem has_addNew_of_has {l : List Nat} {k : Nat} (n : Nat) (h : has l k = true) : has (addNew l n) k = true := by
  unfold addNew
  split
  · exact h
  · simp only [has, List.any_append, Bool.or_eq_true] at h ⊢
    exact .inl h

/-! ### A module fault -/

theorem stopAll_passes (s : State) : s.stopAll.passes = [] := by
  have h : ((s.dropPasses fun _ => true).dropDescs fun _ => true).passes = (s.dropPasses fun _ => true).passes :=
    (dropDescs_touch _ _).keep .passes (by decide)
  show ((s.dropPasses fun _ => true).dropDescs fun _ => true).passes = []
  rw [h]
  exact List.filter_eq_nil_iff.2 fun p _ => by simp

/-- What a module fault with code `c` leaves of a module that has power: service ended with F-163 for the firings,
no pass, the fault recorded, the firings and the log as they were (R12). -/
structure State.Faulted (s t : State) (c : Code) : Prop where
  served : s.svc.phase = .service → t.svc.phase = .down 163
  down : ∃ x, t.svc.phase = .down x
  cause : t.svc.causeNext = 3
  passes : t.passes = []
  faults : t.power.faults = s.power.faults ++ [c]
  firings : t.fe.firings = s.fe.firings
  log : t.fe.log = s.fe.log

theorem moduleFault_faulted {s : State} (p : s.powered = true) (c : Code) : s.Faulted (s.moduleFault c) c := by
  have stopped := (stopAll_touch s).keep
  have svc : s.stopAll.svc = s.svc := stopped .phase (by decide)
  have pw : s.stopAll.power = s.power := stopped .power (by decide)
  have phase : (s.moduleFault c).svc.phase = .down (s.svc.phase.endCode 163) := by
    simp only [State.moduleFault, State.endService, p, if_true, svc]
  have kept := (moduleFault_touch s c).keep
  refine ⟨fun h => by rw [phase, h]; rfl, ⟨_, phase⟩, ?_, ?_, ?_, kept .firings (by decide), (kept .log (by decide)).1⟩
  · simp only [State.moduleFault, State.endService, p, if_true]
  · simp only [State.moduleFault, State.endService, p, if_true, stopAll_passes]
  · simp only [State.moduleFault, State.endService, p, if_true, pw]

theorem moduleFault_off {s : State} (p : s.powered = false) (c : Code) : s.moduleFault c = s := if_neg (by simp [p])

/-- A module fault after steps that leave power, phase, firings and log alone. -/
theorem Touch.faulted {gs : List Grain} {s t : State} (a : Touch gs s t) (p : s.powered = true) (c : Code)
    (h : [Piece.power, .phase, .firings, .log].all (fun x => !covered gs x) = true := by decide) :
    s.Faulted (t.moduleFault c) c := by
  simp only [List.all_cons, List.all_nil, Bool.and_true, Bool.and_eq_true, Bool.not_eq_true'] at h
  obtain ⟨hpower, hphase, hfirings, hlog⟩ := h
  have pw : t.power = s.power := a.keep .power hpower
  have svc : t.svc = s.svc := a.keep .phase hphase
  have fir : t.fe.firings = s.fe.firings := a.keep .firings hfirings
  have log : t.fe.log = s.fe.log := (a.keep .log hlog).1
  have f := moduleFault_faulted (s := t) (by rw [← p]; simp only [State.powered, svc]) c
  exact ⟨fun h => f.served (by rw [svc, h]), f.down, f.cause, f.passes, by rw [f.faults, pw], f.firings.trans fir,
    f.log.trans log⟩

/-- The steps between a loss in the repair map and the module fault: the map committed, the geometry's number shown and
posted (R394, R426). -/
def State.lossPosted (s : State) : State :=
  let s := s.commitRepair
  (s.wr modGeomGeomId 0 s.geomId).post (.s 361) [s.geomId]

theorem lossPosted_touch (s : State) :
    Touch [.one .events, .one .vectors, .one .persistent, .one .repair, modSparesReg.grain, prsCopySelReg.grain,
      prsStatusReg.grain, modGeomReg.grain] s s.lossPosted :=
  (post_touch ..).step ((wr_touch s.commitRepair modGeomGeomId 0 _).step ((commitRepair_touch s).mono (by decide)))

theorem lossPosted_sameLost (s : State) : s.sameLost s.lossPosted :=
  ((commitRepair_sameLost s).trans (wr_touch _ modGeomGeomId 0 _).sameLost).trans (post_touch ..).sameLost

/-- A loss that only the repair map shows, posted, ends in a module fault. -/
theorem lossPosted_faulted {s t : State} (a : Touch [.one .repair] s t) (p : s.powered = true) (c : Code) :
    s.Faulted (t.lossPosted.moduleFault c) c :=
  ((lossPosted_touch t).step (gs := [.one .events, .one .vectors, .one .persistent, .one .repair, modSparesReg.grain,
    prsCopySelReg.grain, prsStatusReg.grain, modGeomReg.grain]) (a.mono (by decide))).faulted p c

/-- The repair map names a kiln and its two stacks as lost (R12). -/
def State.kilnMarked (s : State) (k : Nat) : State :=
  { s with rep := { s.rep with
    lostKilns := addNew s.rep.lostKilns k
    lostStacks := addNew (addNew s.rep.lostStacks (2 * k)) (2 * k + 1) } }

/-- The repair map names a stack as lost. -/
def State.stackMarked (s : State) (n : Nat) : State :=
  { s with rep := { s.rep with lostStacks := addNew s.rep.lostStacks n } }

theorem kilnMarked_touch (s : State) (k : Nat) : Touch [.one .repair] s (s.kilnMarked k) := .set (.refl _ s)

theorem stackMarked_touch (s : State) (n : Nat) : Touch [.one .repair] s (s.stackMarked n) := .set (.refl _ s)

theorem loseKiln_eq (s : State) (k : Nat) : s.loseKiln k = (s.kilnMarked k).lossPosted.moduleFault (.f 163) := rfl

theorem loseStack_eq (s : State) (n : Nat) : s.loseStack n = (s.stackMarked n).lossPosted.moduleFault (.f 142) := rfl

/-- What is marked as lost stays marked to the end of the command. -/
theorem lossFaulted_sameLost (s : State) (c : Code) : s.sameLost (s.lossPosted.moduleFault c) :=
  (lossPosted_sameLost s).trans (moduleFault_touch _ c).sameLost

theorem exec_moduleFault_kiln {s : State} {k : Nat} (h : k < 8) :
    exec (.moduleFault (.kiln k)) s = .next (if s.powered then s.loseKiln k else s) := if_pos (decide_eq_true h)

theorem exec_moduleFault_stack {s : State} {n : Nat} (h : n < 16) :
    exec (.moduleFault (.stack n)) s = .next (if s.powered then s.loseStack n else s) := if_pos (decide_eq_true h)

theorem exec_moduleFault_code (s : State) (code : Nat) :
    exec (.moduleFault (.code code)) s = .next (s.moduleFault (.f code)) := rfl

end Sys2Proof.Machine

open Sys2Proof Sys2Proof.Machine

/-- Settles O26: each loss marks the repair map, commits it and ends in a module fault. -/
theorem lostParts : Obligations.LostParts := by
  intro s k n code
  refine ⟨fun p => ⟨fun h => ?_, fun h => ?_, ?_⟩, fun p => ⟨fun h => ?_, fun h => ?_, ?_⟩⟩
  · rw [exec_moduleFault_kiln h, p]; rfl
  · rw [exec_moduleFault_stack h, p]; rfl
  · rw [exec_moduleFault_code, moduleFault_off p]
  · have f := lossPosted_faulted (kilnMarked_touch s k) p (.f 163)
    obtain ⟨hkilns, hstacks⟩ := lossFaulted_sameLost (s.kilnMarked k) (.f 163)
    rw [← loseKiln_eq] at f hkilns hstacks
    refine ⟨_, by rw [exec_moduleFault_kiln h, p]; rfl, ?_, ?_, ?_, f.down, f.cause, f.passes, f.faults, f.firings, f.log⟩
    · rw [hkilns]; exact has_addNew ..
    · rw [hstacks]; exact has_addNew_of_has _ (has_addNew ..)
    · rw [hstacks]; exact has_addNew ..
  · have f := lossPosted_faulted (stackMarked_touch s n) p (.f 142)
    obtain ⟨-, hstacks⟩ := lossFaulted_sameLost (s.stackMarked n) (.f 142)
    rw [← loseStack_eq] at f hstacks
    refine ⟨_, by rw [exec_moduleFault_stack h, p]; rfl, ?_, f.down, f.cause, f.passes, f.faults, f.firings, f.log⟩
    rw [hstacks]; exact has_addNew ..
  · have f := moduleFault_faulted p (.f code)
    exact ⟨_, exec_moduleFault_code s code, f.served, f.down, f.cause, f.passes, f.faults, f.firings, f.log⟩
end

section
/-! Persistent registers: which cell a write goes to, and that it is the one then read (spec/14 R388-R391). -/

namespace Sys2Proof.Machine

/-! ### Cells -/

/-- A cell lies where the parity of its COUNT says (R389). -/
theorem prsCell_parity {s : State} (b : cellsPlaced s.prs.cells = true) {r k c : Nat} {x : Cell} (hc : c < 2)
    (h : s.prsCell r k c = some x) : x.count % 2 = c := by
  unfold State.prsCell at h
  split at h
  · next p e =>
    have m := List.mem_of_find?_eq_some e
    have key : p.1 = 2 * (4 * r + k) + c := by simpa using List.find?_some e
    have par := (List.all_eq_true.1 b) p m
    rw [h] at par
    simp only [Option.all_some, beq_iff_eq] at par
    omega
  · split at h
    · next z => cases h; exact z.2.symm
    · cases h

/-- A cell just written is the one that is read there. -/
theorem prsCell_prsPut_same (s : State) (r k n v : Nat) :
    (s.prsPut r k n v false).prsCell r k (n % 2) = some ⟨v, n⟩ := by
  simp [State.prsCell, State.prsPut, find?_tput]

/-- The other cells stay. -/
theorem prsCell_prsPut_other (s : State) (r n v : Nat) {k j c : Nat} (hc : c < 2) (h : j ≠ k ∨ c ≠ n % 2) :
    (s.prsPut r k n v false).prsCell r j c = s.prsCell r j c := by
  have ne : 2 * (4 * r + j) + c ≠ 2 * (4 * r + k) + n % 2 := by omega
  unfold State.prsCell State.prsPut
  dsimp only
  rw [find?_tput_other _ _ ne]

/-! ### Slots -/

theorem prsSlot_cell {s : State} {r k : Nat} {x : Cell} (h : s.prsSlot r k = some x) :
    s.prsCell r k 0 = some x ∨ s.prsCell r k 1 = some x := by
  unfold State.prsSlot at h
  split at h
  · next a b ha hb =>
    split at h
    · exact .inr (hb.trans h)
    · exact .inl (ha.trans h)
  · next a ha hb => exact .inl (ha.trans h)
  · exact .inr h

theorem prsSlot_none {s : State} {r k : Nat} (h : s.prsSlot r k = none) : s.prsCell r k 0 = none ∧ s.prsCell r k 1 = none := by
  unfold State.prsSlot at h
  split at h
  · split at h <;> cases h
  · cases h
  · next a => exact ⟨a, h⟩

/-- A slot shows the later of its two cells. -/
theorem prsSlot_later {s : State} {r k : Nat} {x y : Cell} (hx : s.prsCell r k (x.count % 2) = some x)
    (hy : s.prsCell r k (y.count % 2) = some y) (n : y.count = x.count + 1) : s.prsSlot r k = some y := by
  unfold State.prsSlot
  rcases Nat.mod_two_eq_zero_or_one x.count with e | e
  · rw [show y.count % 2 = 1 by omega] at hy
    rw [e] at hx
    rw [hx, hy]
    exact if_pos (by omega)
  · rw [show y.count % 2 = 0 by omega] at hy
    rw [e] at hx
    rw [hx, hy]
    exact if_neg (by omega)

/-- The slot's cell lies at the place of its parity. -/
theorem prsSlot_placed {s : State} (b : cellsPlaced s.prs.cells = true) {r k : Nat} {x : Cell} (h : s.prsSlot r k = some x) :
    s.prsCell r k (x.count % 2) = some x := by
  rcases prsSlot_cell h with c | c
  · rw [prsCell_parity b (by decide) c]; exact c
  · rw [prsCell_parity b (by decide) c]; exact c

/-- The slots that a write does not go to stay. -/
theorem prsSlot_prsPut_other (s : State) (r n v : Nat) {k j : Nat} (h : j ≠ k) :
    (s.prsPut r k n v false).prsSlot r j = s.prsSlot r j := by
  unfold State.prsSlot
  rw [prsCell_prsPut_other _ _ _ _ (by decide) (.inl h), prsCell_prsPut_other _ _ _ _ (by decide) (.inl h)]

/-! ### The active slot -/

/-- The active slot is the highest-numbered with a valid cell (R389). -/
theorem prsActive_iff (s : State) (r k : Nat) (x : Cell) :
    s.prsActive r = some (k, x) ↔ k < 4 ∧ s.prsSlot r k = some x ∧ ∀ j, k < j → j < 4 → s.prsSlot r j = none := by
  unfold State.prsActive
  constructor
  · intro h
    rcases h3 : s.prsSlot r 3 with _ | c
    case some =>
      simp only [List.findSome?_cons, h3, Option.map_some, Option.some.injEq, Prod.mk.injEq] at h
      obtain ⟨rfl, rfl⟩ := h
      exact ⟨by decide, h3, fun j lo hi => by omega⟩
    rcases h2 : s.prsSlot r 2 with _ | c
    case some =>
      simp only [List.findSome?_cons, h3, h2, Option.map_none, Option.map_some, Option.some.injEq, Prod.mk.injEq] at h
      obtain ⟨rfl, rfl⟩ := h
      exact ⟨by decide, h2, fun j lo hi => by rw [show j = 3 by omega]; exact h3⟩
    rcases h1 : s.prsSlot r 1 with _ | c
    case some =>
      simp only [List.findSome?_cons, h3, h2, h1, Option.map_none, Option.map_some, Option.some.injEq, Prod.mk.injEq] at h
      obtain ⟨rfl, rfl⟩ := h
      refine ⟨by decide, h1, fun j lo hi => ?_⟩
      obtain rfl | rfl : j = 2 ∨ j = 3 := by omega
      · exact h2
      · exact h3
    simp only [List.findSome?_cons, List.findSome?_nil, h3, h2, h1, Option.map_none] at h
    split at h
    · next p hp =>
      obtain ⟨c, h0, rfl⟩ := Option.map_eq_some_iff.1 hp
      cases h
      refine ⟨by decide, h0, fun j lo hi => ?_⟩
      obtain rfl | rfl | rfl : j = 1 ∨ j = 2 ∨ j = 3 := by omega
      · exact h1
      · exact h2
      · exact h3
    · cases h
  · rintro ⟨lt, here, above⟩
    have slot : ∀ j, k < j → j < 4 → (s.prsSlot r j).map (fun c => (j, c)) = none := fun j lo hi => by
      rw [above j lo hi, Option.map_none]
    obtain rfl | rfl | rfl | rfl : k = 0 ∨ k = 1 ∨ k = 2 ∨ k = 3 := by omega
    · simp only [List.findSome?_cons, slot 3 (by decide) (by decide), slot 2 (by decide) (by decide),
        slot 1 (by decide) (by decide), here, Option.map_some]
    · simp only [List.findSome?_cons, slot 3 (by decide) (by decide), slot 2 (by decide) (by decide), here,
        Option.map_some]
    · simp only [List.findSome?_cons, slot 3 (by decide) (by decide), here, Option.map_some]
    · simp only [List.findSome?_cons, here, Option.map_some]

theorem prsActive_congr {s t : State} (h : t.prs.cells = s.prs.cells) (r : Nat) : t.prsActive r = s.prsActive r := by
  simp only [State.prsActive, State.prsSlot, State.prsCell, h]

theorem prsValue_congr {s t : State} (h : t.prs.cells = s.prs.cells) (r : Nat) : t.prsValue r = s.prsValue r := by
  simp only [State.prsValue, prsActive_congr h]

theorem prsWorn_congr {s t : State} (h : t.prs.cells = s.prs.cells) (r : Nat) : t.prsWorn r = s.prsWorn r := by
  simp only [State.prsWorn, prsActive_congr h]

/-- What leaves the persistent cells alone leaves every register's value. -/
theorem Touch.prsValue {gs : List Grain} {s t : State} (a : Touch gs s t) (r : Nat)
    (h : covered gs .persistent = false := by decide) : t.prsValue r = s.prsValue r :=
  prsValue_congr (congrArg Prs.cells (a.keep .persistent h)) r

/-- The cell that the next write goes to becomes the active one (R389, R390). -/
theorem prsActive_prsPut {s : State} (b : cellsPlaced s.prs.cells = true) {r k : Nat} {x : Cell}
    (h : s.prsActive r = some (k, x)) (v : Nat) :
    (s.prsPut r (s.prsTarget r).1 (s.prsTarget r).2 v false).prsActive r =
      some ((s.prsTarget r).1, ⟨v, (s.prsTarget r).2⟩) := by
  obtain ⟨lt, here, above⟩ := (prsActive_iff ..).1 h
  have target : s.prsTarget r = if k < 3 ∧ 190000000 ≤ x.count + 1 then (k + 1, 1) else (k, x.count + 1) := by
    simp only [State.prsTarget, h]
  rw [target, prsActive_iff]
  split
  case isTrue full =>
    obtain ⟨cell0, -⟩ := prsSlot_none (above (k + 1) (by omega) (by omega))
    refine ⟨by show k + 1 < 4; omega, ?_, fun j lo hi => ?_⟩
    · have new := prsCell_prsPut_same s r (k + 1) 1 v
      have old := (prsCell_prsPut_other s r 1 v (k := k + 1) (j := k + 1) (c := 0) (by decide) (.inr (by decide))).trans cell0
      dsimp only at new ⊢
      unfold State.prsSlot
      rw [old, new]
    · exact (prsSlot_prsPut_other s r _ v (Nat.ne_of_gt lo)).trans (above j (by omega) hi)
  case isFalse =>
    refine ⟨lt, ?_, fun j lo hi => ?_⟩
    · refine prsSlot_later (x := x) ?_ (prsCell_prsPut_same s r k (x.count + 1) v) rfl
      rw [prsCell_prsPut_other _ _ _ _ (Nat.mod_lt _ (by decide)) (.inr (by omega))]
      exact prsSlot_placed b here
    · exact (prsSlot_prsPut_other s r _ v (Nat.ne_of_gt lo)).trans (above j lo hi)

/-! ### A write -/

/-- A write that no loss of power tears, to a register that is not worn, is taken and then read (R388-R390). -/
theorem prsWrite_taken {s : State} (b : cellsPlaced s.prs.cells = true) {r k : Nat} {x : Cell}
    (h : s.prsActive r = some (k, x)) (w : s.prsWorn r = false) (value : Nat) :
    (s.prsWrite r value false).2 = true ∧ (s.prsWrite r value false).1.prsValue r = value % 2 ^ 64 := by
  have put := prsActive_prsPut b h (value % 2 ^ 64)
  have shown : ((s.prsPut r (s.prsTarget r).1 (s.prsTarget r).2 (value % 2 ^ 64) false).prsShown r).prsValue r =
      value % 2 ^ 64 := by
    rw [(prsShown_touch _ r).prsValue, State.prsValue, put]
    rfl
  unfold State.prsWrite
  rw [h]
  simp only [w, Bool.false_eq_true, if_false]
  split
  case isTrue same =>
    refine ⟨rfl, ?_⟩
    rw [State.prsValue, h]
    exact same
  case isFalse =>
    split
    case isTrue => exact ⟨rfl, shown⟩
    case isFalse =>
      refine ⟨rfl, ?_⟩
      have posted : ∀ (u : State) ps, ((u.setBit prsStatusRetireSeen 0).post (.s 346) ps).prsValue r = u.prsValue r :=
        fun u ps => ((post_touch ..).prsValue r).trans ((setBit_touch u prsStatusRetireSeen 0).prsValue r)
      dsimp only
      split
      · rw [(exhaust_touch ..).prsValue, posted, shown]
      · rw [posted, shown]

/-- The same by reg.write, while the register's bucket holds a write (R391). -/
theorem prsHostWrite_taken {s : State} (b : cellsPlaced s.prs.cells = true) {r k : Nat} {x : Cell}
    (h : s.prsActive r = some (k, x)) (w : s.prsWorn r = false) (left : (s.prsBucket r).1 ≠ 0) (value : Nat) :
    (s.prsHostWrite r value false).2 = true ∧ (s.prsHostWrite r value false).1.prsValue r = value % 2 ^ 64 := by
  unfold State.prsHostWrite
  simp only [left, if_false]
  refine prsWrite_taken (k := k) (x := x) ?_ ?_ ?_ value
  · exact b
  · rw [← h]; exact prsActive_congr (by rfl) r
  · rw [← w]; exact prsWorn_congr (by rfl) r

/-- An empty bucket refuses: REFUSED_SEEN and nothing else (R391). -/
theorem prsHostWrite_refused {s : State} {r : Nat} (empty : (s.prsBucket r).1 = 0) (value : Nat) :
    s.prsHostWrite r value false = (s.setBit prsStatusRefusedSeen 0, false) := by
  unfold State.prsHostWrite
  simp only [empty, if_true]

end Sys2Proof.Machine
end

section
/-! Register accesses: reg.read, reg.write and writes through BAR0 (spec/00 R15, R16, spec/13 R346, spec/14 R391). -/

namespace Sys2Proof.Machine

/-! ### Replies -/

/-- A reply from a state in which the mailbox is as it was. -/
theorem replied_reply {s u : State} (o : Origin) (c : Code) (l : List Nat) (box : u.box o = s.box o) :
    s.replied (u.reply o c false l) o c l := by
  refine ⟨?_, ?_⟩
  · rw [box_reply]
  · rw [box_reply, box]; simp

/-- What leaves the mailboxes alone leaves each of them. -/
theorem Touch.box {gs : List Grain} {s t : State} (a : Touch gs s t) (o : Origin)
    (h : covered gs .boxes = false := by decide) : t.box o = s.box o :=
  congrArg (fun b => tget idleBox b (boxNo o)) (a.keep .boxes h)

/-- A command that replies and does nothing else. -/
theorem replies_here {i : Instr} {o : Origin} {c : Code} {l : List Nat} {s : State}
    (h : exec i s = .next (s.reply o c false l)) : Replies i o c l [] s :=
  replies_of h rfl (Unchanged.refl _ s)

/-! ### What a command's block, unit and offset name -/

/-- The block, the unit and the offset name neither a register nor a submission slot. -/
def State.namesNone (s : State) (block inst off : Nat) : Prop :=
  blockOf block = none ∨ ∃ b, blockOf block = some b ∧ slotAt b inst off = none ∧ s.findAt b inst off = none

/-- They name entry `i` of register `r`. -/
structure State.Names (s : State) (block inst off : Nat) (b : Block) (r : Reg) (i : Nat) : Prop where
  block : blockOf block = some b
  slot : slotAt b inst off = none
  find : s.findAt b inst off = some (r, i)

section
variable {s : State} {o : Origin} {block inst off value : Nat}

theorem exec_regRead_none (v : s.serves o 0x0010) (n : s.namesNone block inst off) :
    exec (.regRead o block inst off) s = .next (s.reply o (.s 304) false []) := by
  refine congrArg _ ((command_served v _).trans ?_)
  rcases n with h | ⟨b, h, slot, find⟩
  · simp only [h]; rfl
  · simp only [h, slot, find]; rfl

theorem exec_regWrite_none (v : s.serves o 0x0011) (n : s.namesNone block inst off) :
    exec (.regWrite o block inst off value) s = .next (s.reply o (.s 304) false []) := by
  refine congrArg _ ((command_served v _).trans ?_)
  rcases n with h | ⟨b, h, slot, find⟩
  · simp only [h]; rfl
  · simp only [h, slot, find]; rfl

theorem exec_regRead_slot (v : s.serves o 0x0010) {b : Block} {q n : Nat} (h : blockOf block = some b)
    (slot : slotAt b inst off = some (q, n)) :
    exec (.regRead o block inst off) s = .next (s.reply o (.s 0) false [s.subSlot q n]) := by
  refine congrArg _ ((command_served v _).trans ?_)
  simp only [h, slot]; rfl

theorem exec_regWrite_slot (v : s.serves o 0x0011) {b : Block} {q n : Nat} (h : blockOf block = some b)
    (slot : slotAt b inst off = some (q, n)) :
    exec (.regWrite o block inst off value) s = .next ((s.setSlot q n (value % 2 ^ 512)).reply o (.s 0) false []) := by
  refine congrArg _ ((command_served v _).trans ?_)
  simp only [h, slot]; rfl

theorem exec_regRead_reg (v : s.serves o 0x0010) {b : Block} {r : Reg} {i : Nat} (n : s.Names block inst off b r i) :
    exec (.regRead o block inst off) s =
      .next (({ s with fresh := s.fresh + 1 } : State).reply o (.s 0) false [s.viewReg r inst i]) := by
  refine congrArg _ ((command_served v _).trans ?_)
  simp only [n.block, n.slot, n.find]; rfl

theorem exec_regWrite_reg (v : s.serves o 0x0011) {b : Block} {r : Reg} {i : Nat} (n : s.Names block inst off b r i) :
    exec (.regWrite o block inst off value) s =
      .next ((s.writeAny r inst i value true).1.reply o (s.writeAny r inst i value true).2 false []) := by
  refine congrArg _ ((command_served v _).trans ?_)
  simp only [n.block, n.slot, n.find]
  split
  · next e => rw [e]; rfl
  · rfl

/-- A BAR0 write that the function's window maps. -/
theorem exec_registerWrite_reg {fn : Nat} (lt : fn < 3) (p : s.powered = true) (up : has s.pci.inReset fn = false)
    {b : Block} {r : Reg} {i : Nat} (own : b = .sit → fn = inst) (n : s.Names block inst off b r i)
    (w : barWrites fn b = true) :
    exec (.registerWrite fn block inst off value) s = .next (s.writeAny r inst i value false).1 := by
  have seen : (if b = .sit then fn else inst) = inst := by
    split
    · exact own ‹_›
    · rfl
  refine (if_pos (decide_eq_true lt)).trans (congrArg _ ?_)
  simp only [n.block, p, up, w, Bool.not_false, Bool.and_self, if_true, State.barWrite, seen, n.slot, n.find]

/-- A BAR0 write of a block that the window does not map for writing. -/
theorem exec_registerWrite_unmapped {fn : Nat} (lt : fn < 3) {b : Block} (h : blockOf block = some b)
    (w : barWrites fn b = false) : exec (.registerWrite fn block inst off value) s = .next s := by
  refine (if_pos (decide_eq_true lt)).trans (congrArg _ ?_)
  simp only [h, w, Bool.and_false, Bool.false_eq_true, if_false]

end

/-! ### Submission slots (R247) -/

/-- A slot that an offset names is one of the 64 of one of the 64 queues. -/
theorem slotAt_lt {b : Block} {inst off q n : Nat} (h : slotAt b inst off = some (q, n)) : q < 64 ∧ n < 64 := by
  unfold slotAt at h
  split at h
  · next c =>
    obtain ⟨-, -, lo, hi, -⟩ := c
    cases h
    omega
  · cases h

theorem subSlot_setSlot_same (s : State) (q n w : Nat) : (s.setSlot q n w).subSlot q n = w := tget_tset_same ..

theorem subSlot_setSlot_other (s : State) {q n p k : Nat} (w : Nat) (hn : n < 64) (hk : k < 64) (h : (p, k) ≠ (q, n)) :
    (s.setSlot q n w).subSlot p k = s.subSlot p k := by
  refine tget_tset_other _ _ _ _ ?_
  unfold slotKey
  intro e
  exact h (by rw [show p = q by omega, show k = n by omega])

/-- What leaves the submission slots alone leaves each of them. -/
theorem Touch.subSlot {gs : List Grain} {s t : State} (a : Touch gs s t) (p k : Nat)
    (h : covered gs .slots = false := by decide) : t.subSlot p k = s.subSlot p k :=
  congrArg (fun l => tget 0 l (slotKey p k)) (a.keep .slots h).1

/-! ### Registers whose write has no effect of its own -/

/-- A register that takes its bits, and no more: no persistent field, no PW2 field, no rule of its own (Table 0.3). -/
structure Reg.Plain (r : Reg) : Prop where
  noPw2 : r.hasAcc .pw2 = false
  noPw : r.hasAcc .pw = false
  noRule : r ∉ [modClkStepReg, dmaRingBaseReg, dmaRingCtlReg, dmaDoorbellReg, feHringBaseReg, feSqDoorbellReg,
    sitMbDoorbellReg, dmpReleaseReg]

theorem writeAny_plain {r : Reg} (h : r.Plain) (s : State) (inst i v : Nat) (viaSitter : Bool) :
    s.writeAny r inst i v viaSitter = (s.writePlain r i v, .s 0) := by
  have rule := h.noRule
  simp only [List.mem_cons, List.not_mem_nil, or_false, not_or] at rule
  obtain ⟨h1, h2, h3, h4, h5, h6, h7, h8⟩ := rule
  simp only [State.writeAny, h.noPw2, h.noPw, Bool.false_eq_true, if_false, State.writeReg, h1, h2, h3, h4, h5, h6, h7, h8]

theorem writeAny_pw2 {r : Reg} (h : r.hasAcc .pw2 = true) (s : State) (inst i v : Nat) (viaSitter : Bool) :
    s.writeAny r inst i v viaSitter = (s, .s 306) := if_pos h

theorem writeAny_persistent {r : Reg} {n : Nat} (pw2 : r.hasAcc .pw2 = false) (pw : r.hasAcc .pw = true)
    (h : prsNumber r = some n) (s : State) (inst i v : Nat) :
    s.writeAny r inst i v true = ((s.prsHostWrite n (r.prsBits v) false).1,
      if (s.prsHostWrite n (r.prsBits v) false).2 then .s 0 else .s 345) := by
  simp only [State.writeAny, pw2, pw, h, Bool.false_eq_true, if_true, if_false]

/-- What a plain write does to the fields of its register, by their access codes, and to nothing else. -/
theorem writePlain_fields {s : State} {b : Block} {inst off i : Nat} {r : Reg} (h : s.findAt b inst off = some (r, i)) (v : Nat) :
    (∀ f ∈ r.fields, (s.writePlain r i v).rd f i = f.after v (s.rd f i)) ∧
      (∀ f ∈ r.fields, ∀ j, j ≠ i → (s.writePlain r i v).rd f j = s.rd f j) ∧
      Unchanged [r.grain] s (s.writePlain r i v) := by
  obtain ⟨here, others, -⟩ := writeFields_rd r.fields s i v (allRegs_apart r (findAt_mem h))
  exact ⟨here, others, (writePlain_touch s r i v (findAt_ok h)).keep⟩

/-- A reply leaves every register field as it was. -/
theorem reply_rd (s : State) (o : Origin) (c : Code) (l : List Nat) {r : Reg} (ok : r.ok = true) :
    ∀ f ∈ r.fields, ∀ i, (s.reply o c false l).rd f i = s.rd f i := by
  intro f m i
  have fok : f.ok = true := by
    simp only [Reg.ok, List.all_eq_true, Bool.and_eq_true] at ok
    exact (ok f m).1.1
  exact (reply_touch s o c false l).rd f i (by simp [covered, Grain.covers]) fok

end Sys2Proof.Machine

open Sys2Proof Sys2Proof.Machine

/-- Settles O28: what the address names decides, then the register's access codes. -/
theorem registerAccess : Obligations.RegisterAccess := by
  intro o block inst off value s _
  refine ⟨fun v n => replies_here (exec_regRead_none v n), fun v n => replies_here (exec_regWrite_none v n), ?slot,
    ?persistent, ?plain⟩
  case slot =>
    intro b q n hb slot
    obtain ⟨-, hn⟩ := slotAt_lt slot
    refine ⟨fun v => replies_here (exec_regRead_slot v hb slot), fun v => ?_⟩
    have reply := fun u : State => reply_touch u o (.s 0) false []
    refine ⟨_, exec_regWrite_slot v hb slot, replied_reply o _ _ rfl, ?_, fun p k _ hk ne => ?_, ?_⟩
    · rw [(reply _).subSlot, subSlot_setSlot_same]
    · rw [(reply _).subSlot, subSlot_setSlot_other _ _ hn hk ne]
    · exact ((reply _).step (gs := replyGrains ++ [.one .slots]) ((setSlot_touch ..).mono (by decide))).keep
  case persistent =>
    intro b r i n hb slot find v pw2 pw num
    have names : s.Names block inst off b r i := ⟨hb, slot, find⟩
    have ex := exec_regWrite_reg (value := value) v names
    rw [writeAny_persistent pw2 pw num] at ex
    have reply := fun (u : State) c => reply_touch u o c false []
    refine ⟨fun k c left active worn bounds => ?_, fun empty => ?_⟩
    · obtain ⟨taken, val⟩ := prsHostWrite_taken bounds.cells active worn left (r.prsBits value)
      rw [taken] at ex
      refine ⟨_, ex, replied_reply o _ _ ((prsHostWrite_touch ..).box o), ?_⟩
      rw [(reply _ _).prsValue, val]
    · rw [prsHostWrite_refused empty] at ex
      refine ⟨_, ex, replied_reply o _ _ rfl, (reply _ _).prsValue n, ?_⟩
      exact ((reply _ _).step (gs := replyGrains ++ [prsStatusReg.grain])
        ((setBit_touch s prsStatusRefusedSeen 0).mono (by decide))).keep
  case plain =>
    intro b r i hb slot find
    have names : s.Names block inst off b r i := ⟨hb, slot, find⟩
    refine ⟨fun v => ?read, fun v pw2 => ?pw2, fun pw2 pw rule => ⟨fun v => ?write,
      fun fn lt p up own => ⟨fun w => ?bar, fun w => ?unmapped⟩⟩⟩
    case read => exact replies_of (exec_regRead_reg v names) rfl (Touch.set (.refl _ s)).keep
    case pw2 =>
      have ex := exec_regWrite_reg (value := value) v names
      rw [writeAny_pw2 pw2] at ex
      exact replies_here ex
    case write =>
      have ex := exec_regWrite_reg (value := value) v names
      rw [writeAny_plain ⟨pw2, pw, rule⟩] at ex
      obtain ⟨here, others, -⟩ := writePlain_fields find value
      have ok := findAt_ok find
      have touch := writePlain_touch s r i value ok
      have rd := reply_rd (s.writePlain r i value) o (.s 0) [] ok
      refine ⟨_, ex, replied_reply o _ _ (touch.box o (by simp [covered, Reg.grain, Grain.covers])),
        fun f m => (rd f m i).trans (here f m), fun f m j ne => (rd f m j).trans (others f m j ne), ?_⟩
      exact ((reply_touch ..).step (gs := replyGrains ++ [r.grain]) (touch.mono (by simp [subsumes, under_self]))
        (by simp [subsumes, replyGrains, Grain.under, Grain.covers])).keep
    case bar =>
      have ex := exec_registerWrite_reg (value := value) lt p up own names w
      rw [writeAny_plain ⟨pw2, pw, rule⟩] at ex
      exact ⟨_, ex, writePlain_fields find value⟩
    case unmapped => exact exec_registerWrite_unmapped lt hb w
end

section
/-! Faults, cancels and time slices of firings (spec/00 R10, spec/09 R250, R257, R261). -/

namespace Sys2Proof.Machine

/-! ### Replay and abandonment -/

/-- Every firing but `q` is found as it was. -/
def State.sameOthers (q : Nat) (s t : State) : Prop := ∀ p, p ≠ q → t.firing? p = s.firing? p

/-- Replaying a firing leaves the others as they are. -/
theorem replay_other (s : State) (q : Nat) : s.sameOthers q (s.replay q) := by
  intro p ne
  unfold State.replay
  split
  · rfl
  · split
    · rfl
    · refine (firing?_updFiring_other _ _ ?_ ne).trans (firing?_congr (stopUnits_firings s q) p)
      exact fun _ => rfl

theorem updFiring_others (s : State) (q : Nat) (g : Firing → Firing) (h : ∀ f, (g f).fseq = f.fseq) :
    s.sameOthers q (s.updFiring q g) := fun _ ne => firing?_updFiring_other s g h ne

/-- The firing has been put back on its snapshot with nothing done and its claim released (R261). -/
structure Firing.Replayed (f h : Firing) : Prop where
  st : h.st = .faulted
  claim : h.claimHeld = false
  snap : h.snap = f.snap
  attempts : h.attempts = f.attempts
  granted : h.granted = []
  arith : h.arith = .empty

theorem fresh_replayed (f : Firing) : f.Replayed { f.fresh with st := .faulted, claimHeld := false } :=
  ⟨rfl, rfl, rfl, rfl, rfl, rfl⟩

/-- The firing waits to write an end record with the code, its claim released (R261). -/
structure Firing.Abandoned (h : Firing) (code : Nat) : Prop where
  st : h.st = .abandoning
  code : h.code = code
  claim : h.claimHeld = false

theorem abandon_abandoned {s : State} {q : Nat} {f : Firing} (code : Nat) (h : s.firing? q = some f)
    (e : f.ending = false) : ∃ g, (s.abandon q code).firing? q = some g ∧ g.Abandoned code :=
  ⟨_, abandon_firing code h e, rfl, rfl, rfl⟩

theorem abandon_ending {s : State} {q : Nat} {f : Firing} (code : Nat) (h : s.firing? q = some f) (e : f.ending = true) :
    s.abandon q code = s := by
  simp only [State.abandon, h, e, if_true]

theorem replay_ending {s : State} {q : Nat} {f : Firing} (h : s.firing? q = some f) (e : f.ending = true) :
    s.replay q = s := by
  simp only [State.replay, h, e, Bool.true_or, if_true]

/-! ### A fault, by what its code allows -/

/-- What a counted fault notes in the firing that it replays: the count, and for F-150 and F-172 the turn to wait for. -/
def Firing.noted (code count turn : Nat) (f : Firing) : Firing :=
  if f.ending then f
  else { f with
    counts := tput f.counts code count
    notBefore := if code = 150 ∨ code = 172 then some turn else f.notBefore }

theorem noted_fseq (code count turn : Nat) (f : Firing) : (f.noted code count turn).fseq = f.fseq := by
  unfold Firing.noted; split <;> rfl

/-- A code without a limit replays (R10). -/
theorem fault_unlimited {s : State} {q code : Nat} (h : replayLimit code = none) : s.fault q code = s.replay q := by
  unfold State.fault
  split
  · next e => simp only [State.replay, e]
  · simp only [h]

/-- A firing that has met the code as often as its limit allows is abandoned (R261). -/
theorem fault_spent {s : State} {q code m : Nat} {f : Firing} (h : s.firing? q = some f) (l : replayLimit code = some m)
    (n : m ≤ tget 0 f.counts code) : s.fault q code = s.abandon q code := by
  simp only [State.fault, h, l, n, if_true]

/-- Below the limit it is replayed and the fault counted (R261). -/
theorem fault_counted {s : State} {q code m : Nat} {f : Firing} (h : s.firing? q = some f) (l : replayLimit code = some m)
    (n : tget 0 f.counts code < m) :
    s.fault q code = (s.replay q).updFiring q
      (Firing.noted code (tget 0 f.counts code + 1) ((s.replay q).rd whlPosTurnNo 0 + 1)) := by
  simp only [State.fault, h, l, Nat.not_le.2 n, if_false]
  rfl

/-- A firing that is ending meets no fault any more. -/
theorem fault_ending {s : State} {q : Nat} {f : Firing} (h : s.firing? q = some f) (e : f.ending = true) (code : Nat) :
    (s.fault q code).firing? q = some f ∧ s.sameOthers q (s.fault q code) := by
  cases l : replayLimit code with
  | none => rw [fault_unlimited l, replay_ending h e]; exact ⟨h, fun _ _ => rfl⟩
  | some m =>
    by_cases n : m ≤ tget 0 f.counts code
    · rw [fault_spent h l n, abandon_ending _ h e]; exact ⟨h, fun _ _ => rfl⟩
    · rw [fault_counted h l (Nat.lt_of_not_le n), replay_ending h e]
      refine ⟨?_, updFiring_others _ _ _ (noted_fseq _ _ _)⟩
      rw [firing?_updFiring _ _ _ (noted_fseq _ _ _), h]
      simp [Firing.noted, e]

/-- A fault below the limit of its code: replayed, and counted. -/
theorem fault_counted_firing {s : State} {q code m : Nat} {f : Firing} (h : s.firing? q = some f) (e : f.ending = false)
    (l : f.launched = true) (lim : replayLimit code = some m) (n : tget 0 f.counts code < m) :
    ∃ g, (s.fault q code).firing? q = some g ∧ f.Replayed g ∧ tget 0 g.counts code = tget 0 f.counts code + 1 := by
  rw [fault_counted h lim n, firing?_updFiring _ _ _ (noted_fseq _ _ _), replay_firing h e l]
  exact ⟨_, rfl, ⟨rfl, rfl, rfl, rfl, rfl, rfl⟩, tget_tput_same ..⟩

theorem fault_other (s : State) (q code : Nat) : s.sameOthers q (s.fault q code) := by
  cases h : s.firing? q with
  | none => simp only [State.fault, h]; exact fun _ _ => rfl
  | some f =>
    cases l : replayLimit code with
    | none => rw [fault_unlimited l]; exact replay_other s q
    | some m =>
      by_cases n : m ≤ tget 0 f.counts code
      · rw [fault_spent h l n]; exact fun _ ne => abandon_other s code ne
      · rw [fault_counted h l (Nat.lt_of_not_le n)]
        exact fun p ne => (updFiring_others _ q _ (noted_fseq _ _ _) p ne).trans (replay_other s q p ne)

theorem exec_firingFault {s : State} (p : s.powered = true) (n code : Nat) :
    exec (.firingFault n code) s = .next (s.fault n code) := congrArg _ (if_pos p)

theorem exec_firingFault_off {s : State} (p : s.powered = false) (n code : Nat) :
    exec (.firingFault n code) s = .next s := congrArg _ (if_neg (by simp [p]))

/-- The codes that replay without a limit, at most once or three times, and not at all (R10, R211, R222, R261). -/
theorem replayLimit_unlimited : ∀ code ∈ [130, 131, 132, 140, 141], replayLimit code = none := by decide

theorem replayLimit_limited : ∀ code ∈ [144, 152, 150, 172],
    replayLimit code = some (if code = 144 ∨ code = 152 then 1 else 3) := by decide

theorem replayLimit_zero : ∀ code ∈ [143, 145, 151, 160, 162, 164, 170, 171, 180, 181], replayLimit code = some 0 := by decide

/-! ### firing.cancel (R257) -/

theorem exec_firingCancel_refused {o : Origin} {k : Nat} {s : State} (v : s.serves o 0x0111)
    (h : ∀ g, s.firing? k = some g → g.ending = true) :
    exec (.firingCancel o k) s = .next (s.reply o (.s 257) false []) := by
  refine congrArg _ ((command_served v _).trans ?_)
  cases e : s.firing? k with
  | none => rfl
  | some g => exact if_pos (h g e)

theorem exec_firingCancel {o : Origin} {k : Nat} {s : State} {f : Firing} (v : s.serves o 0x0111)
    (h : s.firing? k = some f) (e : f.ending = false) :
    exec (.firingCancel o k) s = .next ((s.abandon k 161).reply o (.s 0) false []) := by
  refine congrArg _ ((command_served v _).trans ?_)
  simp only [h, e, Bool.false_eq_true, if_false]
  rfl

/-- A reply leaves the firings as they are. -/
theorem reply_firing (s : State) (o : Origin) (c : Code) (l : List Nat) (q : Nat) :
    (s.reply o c false l).firing? q = s.firing? q :=
  firing?_congr ((reply_touch s o c false l).keep .firings (by decide)) q

/-! ### Time slices (R250) -/

/-- The firings of a queue that run on a granted claim. -/
def State.runningOf (s : State) (q : Nat) : List Firing :=
  s.fe.firings.filter fun g => g.queue == q && g.running && g.claimHeld

/-- The wheel count reaches the end of the queue's slice. -/
def State.sliceOver (s : State) (q : Nat) : State :=
  s.advanceTo ((tget idleTurn s.fe.turns q).start + max 1 (s.rd feSqCfgSlice q))

/-- The firings of the queue that then leave: those of whose claims other queues' firings want parts. -/
def State.leavers (s : State) (q : Nat) : List Nat := ((s.runningOf q).filter (s.sliceOver q).wanted).map (·.fseq)

theorem leavers_eq (s : State) (q : Nat) :
    s.leavers q = (s.fe.firings.filter fun f =>
      f.queue == q && f.running && f.claimHeld && (s.sliceOver q).wanted f).map (·.fseq) := by
  rw [State.leavers, State.runningOf, List.filter_filter]
  exact congrArg _ (List.filter_congr fun _ _ => Bool.and_comm ..)

/-- The queue's turn once its slice is over: begun anew, or with the firings named that are to leave. -/
def State.turnAfter (s : State) (q : Nat) : QTurn :=
  if s.leavers q = [] then { tget idleTurn s.fe.turns q with start := (s.sliceOver q).now, leaving := [] }
  else { tget idleTurn s.fe.turns q with leaving := s.leavers q }

theorem advanceTo_fe (s : State) (t : Nat) : (s.advanceTo t).fe = s.fe := by
  unfold State.advanceTo; split <;> rfl

theorem exec_timeSliceExpiry_idle {s : State} {q : Nat} (lt : q < 64) (h : s.runningOf q = []) :
    exec (.timeSliceExpiry q) s = .next s := by
  refine (if_pos (decide_eq_true lt)).trans (congrArg _ ?_)
  have none : s.fe.firings.find? (fun f => f.queue == q && f.running && f.claimHeld) = none := by
    rw [← List.head?_filter]; exact congrArg _ h
  simp only [none]

theorem exec_timeSliceExpiry {s : State} {q : Nat} (lt : q < 64) (h : s.runningOf q ≠ []) :
    exec (.timeSliceExpiry q) s = .next { s.sliceOver q with fe := { s.fe with
      turns := tput s.fe.turns q (s.turnAfter q) } } := by
  refine (if_pos (decide_eq_true lt)).trans (congrArg _ ?_)
  obtain ⟨f, hf⟩ : ∃ f, s.fe.firings.find? (fun f => f.queue == q && f.running && f.claimHeld) = some f := by
    rw [← List.head?_filter]
    exact ⟨_, List.head?_eq_some_head h⟩
  simp only [hf, State.turnAfter, leavers_eq, State.slice, advanceTo_fe, State.sliceOver, List.isEmpty_iff]

/-- The end of a slice changes the turns, and the count that it brings up. -/
theorem sliceOver_touch (s : State) (q : Nat) (turns : Tab QTurn) :
    Touch [.one .turns, whlCountReg.grain] s { s.sliceOver q with fe := { s.fe with turns := turns } } := by
  rw [← advanceTo_fe s ((tget idleTurn s.fe.turns q).start + max 1 (s.rd feSqCfgSlice q))]
  exact .set ((advanceTo_touch ..).mono (by decide))

end Sys2Proof.Machine
end

section
/-! Context switches: what a firing that leaves its claim keeps, and what the module keeps of it (spec/08 R232-R235,
spec/09 R251). -/

namespace Sys2Proof.Machine

/-! ### Tables -/

/-- A value that a table gives other than the default is listed. -/
theorem tget_default_or_mem {α : Type} (d : α) (t : Tab α) (k : Nat) : tget d t k = d ∨ (k, tget d t k) ∈ t := by
  induction t with
  | nil => exact .inl rfl
  | cons p t ih =>
    simp only [tget]
    split
    · next e => exact .inr (by rw [← e]; exact List.mem_cons_self ..)
    · exact ih.imp id (List.mem_cons_of_mem _)

/-- A table filled with values that depend on the key alone gives that value at every key put. -/
theorem tget_foldl_tput {α β : Type} (d : β) (key : α → Nat) (v : Nat → β) (l : List α) (t : Tab β) (k : Nat)
    (h : (∃ e ∈ l, key e = k) ∨ tget d t k = v k) :
    tget d (l.foldl (fun t e => tput t (key e) (v (key e))) t) k = v k := by
  induction l generalizing t with
  | nil => exact h.resolve_left (by simp)
  | cons a l ih =>
    refine ih _ ?_
    by_cases e : key a = k
    · exact .inr (by subst e; exact tget_tput_same ..)
    · rcases h with ⟨x, m, hx⟩ | h
      · rcases List.mem_cons.1 m with rfl | m
        · exact absurd hx e
        · exact .inl ⟨x, m, hx⟩
      · exact .inr ((tget_tput_other d t _ (Ne.symm e)).trans h)

/-! ### Descriptors withdrawn from the engines (R199, R233) -/

/-- One engine gives up the descriptors that a test picks. -/
def State.emptied (q : HeldDesc → Bool) (s : State) (e : Nat) : State :=
  let x := s.engine e
  let gone := x.held.filter q
  ((gone.foldl State.dmaUndone s).setEngine e { x with held := x.held.filter fun h => !q h }).leaveDampers
    (engineObserver e) (gone.map (·.serial))

theorem dropDescs_engines (s : State) (q : HeldDesc → Bool) :
    (s.dropDescs q).engines = ((s.engines.map (·.1)).foldl (State.emptied q) s).engines := rfl

theorem engine_congr {s t : State} (h : t.engines = s.engines) (e : Nat) : t.engine e = s.engine e :=
  congrArg (fun l => tget idleEngine l e) h

theorem engine_setEngine_same (s : State) (e : Nat) (x : Engine) : (s.setEngine e x).engine e = x := tget_tset_same ..

theorem engine_setEngine_other (s : State) {e k : Nat} (x : Engine) (h : k ≠ e) :
    (s.setEngine e x).engine k = s.engine k := tget_tset_other _ _ _ _ h

/-- Abandoned descriptors leave bytes undefined and the engines as they are. -/
theorem undone_engines (l : List HeldDesc) (s : State) : (l.foldl State.dmaUndone s).engines = s.engines := by
  have h : Touch [.one .fresh, .one .tileMem, .one .scratch, .one .const, .one .stack, .one .hostMem] s
      (l.foldl State.dmaUndone s) :=
    .foldl l (.refl _ s) fun u d a => (dmaUndone_touch u d).step a
  exact h.keep .engines (by decide)

theorem emptied_same (q : HeldDesc → Bool) (s : State) (e : Nat) :
    (s.emptied q e).engine e = { s.engine e with held := (s.engine e).held.filter fun h => !q h } :=
  engine_setEngine_same ..

theorem emptied_other (q : HeldDesc → Bool) (s : State) {e k : Nat} (h : k ≠ e) : (s.emptied q e).engine k = s.engine k :=
  (engine_setEngine_other _ _ h).trans (engine_congr (undone_engines _ s) k)

/-- No engine holds a withdrawn descriptor. -/
theorem dropDescs_held (s : State) (q : HeldDesc → Bool) (e : Nat) :
    ∀ d ∈ ((s.dropDescs q).engine e).held, q d = false := by
  have go : ∀ (l : List Nat) (u : State), (e ∈ l ∨ ∀ d ∈ (u.engine e).held, q d = false) →
      ∀ d ∈ ((l.foldl (State.emptied q) u).engine e).held, q d = false := by
    intro l
    induction l with
    | nil => exact fun u h => h.resolve_left (by simp)
    | cons k l ih =>
      intro u h
      refine ih _ ?_
      by_cases c : e = k
      · subst c
        refine .inr fun d m => ?_
        rw [emptied_same] at m
        simpa using (List.mem_filter.1 m).2
      · rw [emptied_other q u c]
        exact h.imp (fun m => (List.mem_cons.1 m).resolve_left c) id
  rw [engine_congr (dropDescs_engines s q)]
  refine go _ s ?_
  rcases tget_default_or_mem idleEngine s.engines e with h | h
  · refine .inr fun d m => ?_
    rw [State.engine, h] at m
    exact absurd m List.not_mem_nil
  · exact .inl (List.mem_map.2 ⟨_, h, rfl⟩)

/-! ### What is kept (R232, R251) -/

/-- A descriptor as it is withdrawn: not started, to be run again from its fetch. -/
def HeldDesc.again (h : HeldDesc) : HeldDesc :=
  { h with started := false, waiting := false, met := false, readHeld := false, sent := 0, offs := [], src := [] }

/-- The context that a firing leaves behind. -/
def State.contextOf (s : State) (f : Firing) : Context :=
  { locals := ((((s.graph? f.graph).map (·.signals)).getD []).filter fun e => sigCls e == 0).foldl
      (fun t e => tput t (sigSig e) (s.sigVal (sigSig e))) []
    waits := s.flue.waits.filter fun w => w.fseq == some f.fseq && !isEngineObs w.observer
    withdrawn := (s.engines.map fun p =>
      (p.1, (p.2.held.filter fun h => h.fseq == some f.fseq).map HeldDesc.again)).filter fun p => !p.2.isEmpty
    arrivals := s.savedArrivals f.fseq
    scratch := s.saveSpace (s.claimOf f) 1
    tile := s.saveSpace (s.claimOf f) 0
    const := s.saveSpace (s.claimOf f) 2 }

/-- The part of a space that a context keeps. -/
def Context.space (c : Context) (sp : Nat) : Memory := if sp = 0 then c.tile else if sp = 1 then c.scratch else c.const

/-- Every LOCAL signal of the graph is kept with its value. -/
theorem contextOf_locals (s : State) {f : Firing} {g : Graph} (h : s.graph? f.graph = some g) {e : Nat}
    (m : e ∈ g.signals) (cls : sigCls e = 0) :
    tget 0 (s.contextOf f).locals (sigSig e) = s.sigVal (sigSig e) := by
  refine tget_foldl_tput 0 sigSig s.sigVal _ _ _ (.inl ⟨e, ?_, rfl⟩)
  rw [h]
  exact List.mem_filter.2 ⟨m, by simp [cls]⟩

/-- Every descriptor of the firing that an engine holds is kept, not started. -/
theorem contextOf_withdrawn (s : State) (f : Firing) {e : Nat} {d : HeldDesc} (m : d ∈ (s.engine e).held)
    (mine : d.fseq = some f.fseq) : ∃ p ∈ (s.contextOf f).withdrawn, p.1 = e ∧ d.again ∈ p.2 := by
  have listed : (e, s.engine e) ∈ s.engines := by
    refine (tget_default_or_mem idleEngine s.engines e).resolve_left fun h => ?_
    rw [State.engine, h] at m
    exact absurd m List.not_mem_nil
  have kept : d.again ∈ ((s.engine e).held.filter fun h => h.fseq == some f.fseq).map HeldDesc.again :=
    List.mem_map.2 ⟨d, List.mem_filter.2 ⟨m, by simp [mine]⟩, rfl⟩
  refine ⟨_, List.mem_filter.2 ⟨List.mem_map.2 ⟨_, listed, rfl⟩, ?_⟩, rfl, kept⟩
  simpa using List.ne_nil_of_mem kept

/-- The arrivals of sequencers and of the Sitter at the firing's groups are kept (R234). -/
theorem contextOf_arrivals (s : State) (f : Firing) {g : Nat} {b : Barrier} (m : (g, b) ∈ s.flue.bars)
    (mine : b.fseq = f.fseq) (arrived : b.arrived ≠ []) :
    (g, b.arrived.filter fun o => !(decide (1280 ≤ o) && decide (o < 1416))) ∈ (s.contextOf f).arrivals :=
  List.mem_map.2 ⟨(g, b), List.mem_filter.2 ⟨m, by simp [mine, arrived]⟩, rfl⟩

/-- A claim takes scratchpad, tile registers and constant store alone. -/
theorem claimRuns_space {w : Nat} {r : Nat × Nat × Nat} (h : r ∈ claimRuns w) : r.1 = 0 ∨ r.1 = 1 ∨ r.1 = 2 := by
  rcases List.mem_append.1 h with h | h
  · rcases List.mem_append.1 h with h | h
    · obtain ⟨n, -, m⟩ := List.mem_flatMap.1 h
      rcases List.mem_cons.1 m with rfl | m
      · exact .inr (.inl rfl)
      · rw [List.mem_singleton.1 m]
        exact .inl rfl
    · obtain ⟨k, -, rfl⟩ := List.mem_map.1 h
      exact .inr (.inl rfl)
  · obtain ⟨k, -, rfl⟩ := List.mem_map.1 h
    exact .inr (.inr rfl)

/-- An address of a run of the claim lies in the runs of the run's space. -/
theorem inRuns_of_mem {w : Nat} {r : Nat × Nat × Nat} (h : r ∈ claimRuns w) {a : Nat} (lo : r.2.1 ≤ a)
    (hi : a < r.2.1 + r.2.2) : inRuns (runsOf w r.1) a = true :=
  (inRuns_iff ..).2 ⟨r, List.mem_filter.2 ⟨h, by simp⟩, lo, hi⟩

theorem contextOf_space (s : State) (f : Firing) {sp : Nat} (h : sp = 0 ∨ sp = 1 ∨ sp = 2) :
    (s.contextOf f).space sp = s.saveSpace (s.claimOf f) sp := by
  rcases h with rfl | rfl | rfl <;> simp [Context.space, State.contextOf]

/-- Every byte of the claim is kept as it reads. -/
theorem contextOf_mem {s : State} (c : s.Canon) (f : Firing) {r : Nat × Nat × Nat} (h : r ∈ claimRuns (s.claimOf f))
    {a : Nat} (lo : r.2.1 ≤ a) (hi : a < r.2.1 + r.2.2) :
    mread ((s.contextOf f).space r.1) a = mread (s.spaceMem r.1) a := by
  rw [contextOf_space s f (claimRuns_space h)]
  exact saveSpace_read s _ _ _ ((Memory.wf_iff _).1 (c.space r.1)).1 (inRuns_of_mem h lo hi)

/-! ### CONTEXT_SWITCH -/

theorem closeCycle_none {s : State} (h : s.flue.opened = []) : s.closeCycle = s := by
  simp only [State.closeCycle, h, List.map_nil, List.foldl_nil]

/-- The module without the firing's descriptors, waits and arrivals; its context area holds what no rule states. -/
def State.vacated (s : State) (f : Firing) : State :=
  let claim := s.claimOf f
  let s := s.dropDescs fun h => h.fseq == some f.fseq
  let bars := s.flue.bars.map fun p => if p.2.fseq = f.fseq then (p.1, { p.2 with arrived := [] }) else p
  let s := { s with flue := { s.flue with waits := s.flue.waits.filter (fun w => w.fseq != some f.fseq), bars := bars } }
  s.forget 3 (clmCtxBase claim) (clmCtxBytes claim)

/-- The firing as it stands switched out. -/
def Firing.switchedOut (c : Context) (f : Firing) : Firing := { f with st := .switched, claimHeld := false, ctx := some c }

theorem switchedOut_fseq (c : Context) (f : Firing) : (f.switchedOut c).fseq = f.fseq := rfl

theorem switchOut_eq {s : State} (h : s.flue.opened = []) (f : Firing) :
    s.switchOut f = ((s.vacated f).noteRelease f).updFiring f.fseq (Firing.switchedOut (s.contextOf f)) := by
  unfold State.switchOut
  rw [closeCycle_none h]
  rfl

theorem vacated_touch (s : State) (f : Firing) :
    Touch [.one .fresh, .one .tileMem, .one .scratch, .one .const, .one .stack, .one .hostMem, .one .engines, .one .waits,
      .one .dampers, .one .barriers] s (s.vacated f) := by
  refine (forget_touch _ 3 _ _).step ?_
  exact .set ((dropDescs_touch s _).mono (by decide))

theorem vacated_held (s : State) (f : Firing) (e : Nat) :
    ∀ d ∈ ((s.vacated f).engine e).held, d.fseq ≠ some f.fseq := by
  intro d m
  have keep : (s.vacated f).engines = (s.dropDescs fun h => h.fseq == some f.fseq).engines :=
    (forget_touch _ 3 _ _).keep .engines (by decide)
  rw [engine_congr keep] at m
  simpa using dropDescs_held s _ e d m

theorem vacated_waits (s : State) (f : Firing) : ∀ w ∈ (s.vacated f).flue.waits, w.fseq ≠ some f.fseq := by
  intro w m
  rw [State.vacated, (forget_touch _ 3 _ _).keep .waits (by decide)] at m
  simpa using (List.mem_filter.1 m).2

/-- Releasing the claim and marking the firing leaves everything but the firings and the turns. -/
theorem switchedOut_touch (s : State) (f : Firing) (c : Context) :
    Touch [.one .firings, .one .turns] s ((s.noteRelease f).updFiring f.fseq (Firing.switchedOut c)) :=
  (updFiring_touch ..).step ((noteRelease_touch s f).mono (by decide))

theorem switchOut_touch_quiet {s : State} (h : s.flue.opened = []) (f : Firing) :
    Touch [.one .fresh, .one .tileMem, .one .scratch, .one .const, .one .stack, .one .hostMem, .one .engines, .one .waits,
      .one .barriers, .one .firings, .one .turns, .one .dampers] s (s.switchOut f) := by
  rw [switchOut_eq h]
  exact (switchedOut_touch ..).step ((vacated_touch s f).mono (by decide))

/-- Of the firings only the one that leaves changes. -/
theorem switchOut_firing {s : State} (h : s.flue.opened = []) {n : Nat} {f : Firing} (hf : s.firing? n = some f) :
    (s.switchOut f).firing? n = some (f.switchedOut (s.contextOf f)) ∧ s.sameOthers n (s.switchOut f) := by
  have q : f.fseq = n := firing?_fseq hf
  have keep : ∀ p, ((s.vacated f).noteRelease f).firing? p = s.firing? p := fun p =>
    (firing?_congr ((noteRelease_touch _ f).keep .firings (by decide)) p).trans
      (firing?_congr ((vacated_touch s f).keep .firings (by decide)) p)
  rw [switchOut_eq h, q]
  refine ⟨?_, fun p ne => (firing?_updFiring_other _ _ (switchedOut_fseq _) ne).trans (keep p)⟩
  rw [firing?_updFiring _ _ _ (switchedOut_fseq _), keep, hf]
  rfl

theorem switchOut_held {s : State} (h : s.flue.opened = []) (f : Firing) (e : Nat) :
    ∀ d ∈ ((s.switchOut f).engine e).held, d.fseq ≠ some f.fseq := by
  rw [switchOut_eq h, engine_congr ((switchedOut_touch ..).keep .engines (by decide))]
  exact vacated_held s f e

theorem switchOut_waits {s : State} (h : s.flue.opened = []) (f : Firing) :
    ∀ w ∈ (s.switchOut f).flue.waits, w.fseq ≠ some f.fseq := by
  rw [switchOut_eq h, (switchedOut_touch ..).keep .waits (by decide)]
  exact vacated_waits s f

/-- A firing leaves where its slice has ended for others or a rest point waits for it, at a pass boundary (R250, R251). -/
theorem exec_contextSwitch {s : State} {n : Nat} {f : Firing} (hf : s.firing? n = some f) :
    exec (.contextSwitch n) s = .next (if s.issues &&
      (has (tget idleTurn s.fe.turns f.queue).leaving n || s.svc.resting) && s.canSwitch f then s.switchOut f else s) := by
  have q : f.fseq = n := firing?_fseq hf
  show (.next _ : Out) = _
  simp only [hf, q]

end Sys2Proof.Machine
end

section
/-! Context restores: a firing that returns to its claim finds what it left (spec/08 R232-R235). -/

namespace Sys2Proof.Machine

/-! ### What a step with no ctl cycle open and no operation of the Sitter waiting touches -/

/-- No ctl cycle is under way and the Sitter waits for nothing. -/
def State.quiet (s : State) : Prop := s.flue.opened = [] ∧ s.flue.sitter = []

theorem Touch.quiet {gs : List Grain} {s t : State} (a : Touch gs s t) (q : s.quiet)
    (ho : covered gs .opened = false := by decide) (hs : covered gs .sitterSync = false := by decide) : t.quiet :=
  ⟨(a.keep .opened ho).trans q.1, (a.keep .sitterSync hs).trans q.2⟩

/-- A fold of operations that touch the grains while the module is quiet. -/
theorem Touch.foldl_quiet {α : Type} {gs : List Grain} {op : State → α → State}
    (h : ∀ u x, u.quiet → Touch gs u (op u x)) (l : List α) {s : State} (q : s.quiet)
    (ho : covered gs .opened = false := by decide) (hs : covered gs .sitterSync = false := by decide) :
    Touch gs s (l.foldl op s) := by
  induction l generalizing s with
  | nil => exact .refl _ s
  | cons x l ih => exact (h s x q).trans (ih ((h s x q).quiet q ho hs))

/-- A wait registered while no ctl cycle is open touches no more than serving it does. -/
theorem register_touch_quiet (s : State) (w : Wait) (q : s.quiet) :
    Touch [.one .engines, .one .waits, .one .firings, fluNearTimeoutReg.grain, fluSigValueReg.grain] s (s.register w) := by
  have closed : s.closeSig w.sig = s := by simp only [State.closeSig, q.1, List.find?_nil]
  unfold State.register
  rw [closed]
  exact (serve_touch ..).step (.set (.refl _ s))

/-- A group settles without the Sitter while it waits for nothing. -/
theorem settle_quiet {s : State} (q : s.quiet) (g : Nat) : State.settle g s = settleBar 3 g s := by
  refine sitterOn_settled ?_
  have h := ((settleBar_touch 3 g s).quiet q).2
  simp only [State.sitterSettled, h]

/-- Arriving again counts a restart and moves on a group and the firings that wait there. -/
theorem arriveAgain_touch_quiet (s : State) (p : Nat × List Nat) (q : s.quiet) :
    Touch [.one .barriers, .one .firings, fluBarRestartReg.grain] s (s.arriveAgain p) := by
  have counted : Touch [.one .barriers, .one .firings, fluBarRestartReg.grain] s (s.satAdd fluBarRestartRestarts 0 1) :=
    (satAdd_touch ..).mono (by decide)
  unfold State.arriveAgain
  dsimp only
  split
  · exact counted
  · next b _ =>
    have put := (setBar_touch (s.satAdd fluBarRestartRestarts 0 1) p.1 (p.2.foldl Barrier.arrive b)).step counted
    rw [settle_quiet (put.quiet q)]
    exact (settleBar_touch ..).step put

/-- Each arrival counts one restart, up to the counter's greatest value (R234, Table 8.10). -/
theorem arriveAgain_rd (s : State) (p : Nat × List Nat) (q : s.quiet) :
    (s.arriveAgain p).rd fluBarRestartRestarts 0 =
      min (2 ^ fluBarRestartRestarts.width - 1) (s.rd fluBarRestartRestarts 0 + 1) := by
  have counted := rd_satAdd_same s fluBarRestartRestarts 0 1
  unfold State.arriveAgain
  dsimp only
  split
  · exact counted
  · next b _ =>
    have put := setBar_touch (s.satAdd fluBarRestartRestarts 0 1) p.1 (p.2.foldl Barrier.arrive b)
    have sat : (s.satAdd fluBarRestartRestarts 0 1).quiet := (satAdd_touch s fluBarRestartRestarts 0 1).quiet q
    rw [settle_quiet (put.quiet sat), (settleBar_touch ..).rd fluBarRestartRestarts 0, put.rd fluBarRestartRestarts 0, counted]

theorem arrivals_rd (l : List (Nat × List Nat)) {s : State} (q : s.quiet)
    (fits : s.rd fluBarRestartRestarts 0 < 2 ^ fluBarRestartRestarts.width) :
    (l.foldl State.arriveAgain s).rd fluBarRestartRestarts 0 =
      min (2 ^ fluBarRestartRestarts.width - 1) (s.rd fluBarRestartRestarts 0 + l.length) := by
  induction l generalizing s with
  | nil => simp only [List.foldl_nil, List.length_nil]; omega
  | cons p l ih =>
    have step := arriveAgain_rd s p q
    rw [List.foldl_cons, ih ((arriveAgain_touch_quiet s p q).quiet q) (by omega), step, List.length_cons]
    omega

/-! ### Memory put back (R235) -/

theorem spaceMem_setSpaceMem_other (s : State) {sp k : Nat} (m : Memory) (hs : sp < 3) (hk : k < 3) (ne : k ≠ sp) :
    (s.setSpaceMem sp m).spaceMem k = s.spaceMem k := by
  obtain rfl | rfl | rfl : sp = 0 ∨ sp = 1 ∨ sp = 2 := by omega
  · obtain rfl | rfl : k = 1 ∨ k = 2 := by omega
    · rfl
    · rfl
  · obtain rfl | rfl : k = 0 ∨ k = 2 := by omega
    · rfl
    · rfl
  · obtain rfl | rfl : k = 0 ∨ k = 1 := by omega
    · rfl
    · rfl

/-- Putting one space back leaves the others. -/
theorem restoreSpace_other (s : State) (claim : Nat) (saved : Memory) {sp k : Nat} (hs : sp < 3) (hk : k < 3) (ne : k ≠ sp) :
    (s.restoreSpace claim sp saved).spaceMem k = s.spaceMem k := by
  unfold State.restoreSpace
  generalize (claimRuns claim).filter (fun r => r.1 == sp) = l
  induction l generalizing s with
  | nil => rfl
  | cons r l ih => rw [List.foldl_cons, ih, spaceMem_setSpaceMem_other _ _ hs hk ne]

/-- The three spaces of a claim put back. -/
def State.memoryBack (s : State) (claim : Nat) (c : Context) : State :=
  ((s.restoreSpace claim 1 (c.space 1)).restoreSpace claim 0 (c.space 0)).restoreSpace claim 2 (c.space 2)

theorem memoryBack_touch (s : State) (claim : Nat) (c : Context) :
    Touch [.one .tileMem, .one .scratch, .one .const] s (s.memoryBack claim c) :=
  (restoreSpace_touch _ claim 2 _).step
    ((restoreSpace_touch _ claim 0 _).step ((restoreSpace_touch s claim 1 _).mono (by decide)))

/-- Every byte of the claim reads as it was kept. -/
theorem memoryBack_read (s : State) {claim : Nat} (c : Context) (sorted : ∀ sp < 3, tsorted (c.space sp).cells = true)
    {r : Nat × Nat × Nat} (h : r ∈ claimRuns claim) {a : Nat} (lo : r.2.1 ≤ a) (hi : a < r.2.1 + r.2.2) :
    mread ((s.memoryBack claim c).spaceMem r.1) a = mread (c.space r.1) a := by
  have inside := inRuns_of_mem h lo hi
  unfold State.memoryBack
  rcases claimRuns_space h with e | e | e <;> rw [e] at inside ⊢
  · rw [restoreSpace_other _ _ _ (by decide) (by decide) (by decide),
      restoreSpace_read _ _ _ _ _ (by decide) (sorted 0 (by decide)), if_pos inside]
  · rw [restoreSpace_other _ _ _ (by decide) (by decide) (by decide),
      restoreSpace_other _ _ _ (by decide) (by decide) (by decide),
      restoreSpace_read _ _ _ _ _ (by decide) (sorted 1 (by decide)), if_pos inside]
  · rw [restoreSpace_read _ _ _ _ _ (by decide) (sorted 2 (by decide)), if_pos inside]

/-! ### Descriptors put back in front (R233) -/

/-- An engine takes the descriptors withdrawn from it in front of what it holds. -/
def State.heldBack (s : State) (p : Nat × List HeldDesc) : State :=
  let x := s.engine p.1
  s.setEngine p.1 { x with held := p.2 ++ x.held }

theorem heldBack_touch (s : State) (p : Nat × List HeldDesc) : Touch [.one .engines] s (s.heldBack p) := setEngine_touch ..

theorem heldBacks_other (l : List (Nat × List HeldDesc)) (s : State) {e : Nat} (h : e ∉ l.map (·.1)) :
    (l.foldl State.heldBack s).engine e = s.engine e := by
  induction l generalizing s with
  | nil => rfl
  | cons p l ih =>
    rw [List.map_cons, List.mem_cons, not_or] at h
    rw [List.foldl_cons, ih _ h.2]
    exact engine_setEngine_other _ _ h.1

/-- Each engine is named once, so each holds what it gave up and then what it holds now. -/
theorem heldBacks_held (l : List (Nat × List HeldDesc)) (s : State) (once : (l.map (·.1)).Nodup) :
    ∀ p ∈ l, ((l.foldl State.heldBack s).engine p.1).held = p.2 ++ (s.engine p.1).held := by
  induction l generalizing s with
  | nil => exact fun p m => absurd m List.not_mem_nil
  | cons q l ih =>
    obtain ⟨fresh, once⟩ := List.nodup_cons.1 once
    intro p m
    rw [List.foldl_cons]
    rcases List.mem_cons.1 m with rfl | m
    · rw [heldBacks_other _ _ fresh]
      exact congrArg Engine.held (engine_setEngine_same ..)
    · have ne : p.1 ≠ q.1 := fun e => fresh (List.mem_map.2 ⟨p, m, e⟩)
      rw [ih _ once p m]
      exact congrArg (fun x => p.2 ++ Engine.held x) (engine_setEngine_other _ _ ne)

/-! ### CONTEXT_RESTORE -/

/-- The firing runs again on its claim. -/
def Firing.switchedIn (f : Firing) : Firing := { f with st := .running, claimHeld := true, ctx := none }

theorem switchedIn_fseq (f : Firing) : f.switchedIn.fseq = f.fseq := rfl

/-- The memory, the LOCAL signals and the withdrawn descriptors put back. -/
def State.partsBack (s : State) (f : Firing) (c : Context) : State :=
  c.withdrawn.foldl State.heldBack
    (c.locals.foldl (fun s p => s.wr fluSigValueValue p.1 p.2) (s.memoryBack (s.claimOf f) c))

/-- The firing back on its claim, its queue's slice begun anew; its waits and arrivals are yet to come. -/
def State.claimBack (s : State) (f : Firing) (c : Context) : State :=
  let s := (s.partsBack f c).updFiring f.fseq Firing.switchedIn
  let t := tget idleTurn s.fe.turns f.queue
  let turns := tput s.fe.turns f.queue { t with start := s.now, leaving := t.leaving.filter (· != f.fseq) }
  { s with fe := { s.fe with turns := turns } }

theorem switchIn_eq (s : State) (f : Firing) (c : Context) :
    s.switchIn f c = c.arrivals.foldl State.arriveAgain (c.waits.foldl State.register (s.claimBack f c)) := rfl

theorem localsBack_touch (l : Tab Nat) (s : State) :
    Touch [fluSigValueReg.grain] s (l.foldl (fun s p => s.wr fluSigValueValue p.1 p.2) s) :=
  .foldl l (.refl _ s) fun u p a => (wr_touch u fluSigValueValue p.1 p.2).step a

theorem partsBack_touch (s : State) (f : Firing) (c : Context) :
    Touch [.one .tileMem, .one .scratch, .one .const, .one .engines, fluSigValueReg.grain] s (s.partsBack f c) :=
  .foldl _ ((localsBack_touch ..).step ((memoryBack_touch ..).mono (by decide))) fun u p a => (heldBack_touch u p).step a

theorem claimBack_touch (s : State) (f : Firing) (c : Context) :
    Touch [.one .tileMem, .one .scratch, .one .const, .one .engines, .one .firings, .one .turns, fluSigValueReg.grain] s
      (s.claimBack f c) :=
  .set ((updFiring_touch ..).step ((partsBack_touch s f c).mono (by decide)))

/-- Once the memory is back, no step of a restore touches a memory. -/
theorem switchIn_afterMemory {s : State} (q : s.quiet) (f : Firing) (c : Context) :
    Touch [.one .engines, .one .waits, .one .barriers, .one .firings, .one .turns, fluNearTimeoutReg.grain,
      fluSigValueReg.grain, fluBarRestartReg.grain] (s.memoryBack (s.claimOf f) c) (s.switchIn f c) := by
  have parts : Touch [.one .engines, fluSigValueReg.grain] (s.memoryBack (s.claimOf f) c) (s.partsBack f c) :=
    .foldl _ ((localsBack_touch ..).mono (by decide)) fun u p a => (heldBack_touch u p).step a
  have claim : Touch [.one .engines, .one .firings, .one .turns, fluSigValueReg.grain] (s.memoryBack (s.claimOf f) c)
      (s.claimBack f c) := .set ((updFiring_touch ..).step (parts.mono (by decide)))
  have waits := Touch.foldl_quiet register_touch_quiet c.waits ((claimBack_touch s f c).quiet q)
  have arrivals := Touch.foldl_quiet arriveAgain_touch_quiet c.arrivals (waits.quiet ((claimBack_touch s f c).quiet q))
  rw [switchIn_eq]
  exact arrivals.step (waits.step (claim.mono (by decide)))

theorem switchIn_touch_quiet {s : State} (q : s.quiet) (f : Firing) (c : Context) :
    Touch [.one .tileMem, .one .scratch, .one .const, .one .engines, .one .waits, .one .barriers, .one .firings,
      .one .turns, fluNearTimeoutReg.grain, fluSigValueReg.grain, fluBarRestartReg.grain] s (s.switchIn f c) :=
  (switchIn_afterMemory q f c).step ((memoryBack_touch s _ c).mono (by decide))

/-- What leaves the memories of the claim alone leaves each of them. -/
theorem Touch.spaceMem {gs : List Grain} {s t : State} (a : Touch gs s t) {sp : Nat} (lt : sp < 3)
    (h : [Piece.tileMem, .scratch, .const].all (fun p => !covered gs p) = true := by decide) :
    t.spaceMem sp = s.spaceMem sp := by
  simp only [List.all_cons, List.all_nil, Bool.and_true, Bool.and_eq_true, Bool.not_eq_true'] at h
  obtain ⟨tile, scratch, const⟩ := h
  obtain rfl | rfl | rfl : sp = 0 ∨ sp = 1 ∨ sp = 2 := by omega
  · exact a.keep .tileMem tile
  · exact a.keep .scratch scratch
  · exact a.keep .const const

/-- Every byte of the claim reads as it was kept (R235). -/
theorem switchIn_read {s : State} (q : s.quiet) (f : Firing) (c : Context)
    (sorted : ∀ sp < 3, tsorted (c.space sp).cells = true) {r : Nat × Nat × Nat} (h : r ∈ claimRuns (s.claimOf f))
    {a : Nat} (lo : r.2.1 ≤ a) (hi : a < r.2.1 + r.2.2) :
    mread ((s.switchIn f c).spaceMem r.1) a = mread (c.space r.1) a := by
  have lt : r.1 < 3 := by have := claimRuns_space h; omega
  rw [(switchIn_afterMemory q f c).spaceMem lt]
  exact memoryBack_read s c sorted h lo hi

/-- Without waits the engines are as the withdrawn descriptors leave them. -/
theorem switchIn_engine {s : State} (q : s.quiet) (f : Firing) {c : Context} (none : c.waits = []) (e : Nat) :
    (s.switchIn f c).engine e = (s.partsBack f c).engine e := by
  rw [switchIn_eq, none, List.foldl_nil]
  exact engine_congr ((Touch.foldl_quiet arriveAgain_touch_quiet c.arrivals ((claimBack_touch s f c).quiet q)).keep
    .engines (by decide)) e

/-- Before the descriptors come back the engines are as they were. -/
theorem partsBack_engines (s : State) (f : Firing) (c : Context) :
    (c.locals.foldl (fun s p => s.wr fluSigValueValue p.1 p.2) (s.memoryBack (s.claimOf f) c)).engines = s.engines :=
  ((localsBack_touch ..).keep .engines (by decide)).trans ((memoryBack_touch ..).keep .engines (by decide))

/-- Each withdrawn descriptor is held again, in front of what its engine holds (R233). -/
theorem partsBack_held (s : State) (f : Firing) {c : Context} (once : (c.withdrawn.map (·.1)).Nodup) :
    ∀ p ∈ c.withdrawn, ((s.partsBack f c).engine p.1).held = p.2 ++ (s.engine p.1).held := by
  intro p m
  rw [State.partsBack, heldBacks_held _ _ once p m, engine_congr (partsBack_engines s f c)]

theorem partsBack_other (s : State) (f : Firing) {c : Context} {e : Nat} (h : e ∉ c.withdrawn.map (·.1)) :
    (s.partsBack f c).engine e = s.engine e := by
  rw [State.partsBack, heldBacks_other _ _ h, engine_congr (partsBack_engines s f c)]

/-- Each generation in progress that was left counts one restart (R234). -/
theorem switchIn_restarts {s : State} (q : s.quiet) (canon : s.Canon) (f : Firing) (c : Context) :
    (s.switchIn f c).rd fluBarRestartRestarts 0 =
      min (2 ^ fluBarRestartRestarts.width - 1) (s.rd fluBarRestartRestarts 0 + c.arrivals.length) := by
  have claim := claimBack_touch s f c
  have waits := Touch.foldl_quiet register_touch_quiet c.waits (claim.quiet q)
  have before := (waits.rd fluBarRestartRestarts 0).trans (claim.rd fluBarRestartRestarts 0)
  rw [switchIn_eq, arrivals_rd _ (waits.quiet (claim.quiet q)), before]
  rw [before]
  exact rd_lt canon fluBarRestartRestarts 0

/-- A firing that waited nowhere runs on its claim with its work as it left it. -/
theorem switchIn_firing (s : State) {n : Nat} {f : Firing} {c : Context} (hf : s.firing? n = some f)
    (none : c.waits = []) (alone : c.arrivals = []) : (s.switchIn f c).firing? n = some f.switchedIn := by
  have q : f.fseq = n := firing?_fseq hf
  have keep : (s.partsBack f c).firing? n = s.firing? n :=
    firing?_congr ((partsBack_touch s f c).keep .firings (by decide)) n
  rw [switchIn_eq, none, alone, List.foldl_nil, List.foldl_nil]
  show ((s.partsBack f c).updFiring f.fseq Firing.switchedIn).firing? n = _
  rw [q, firing?_updFiring _ _ _ switchedIn_fseq, keep, hf]
  rfl

/-- A switched firing returns when it may take its claim (R250). -/
theorem exec_contextRestore {s : State} {n : Nat} {f : Firing} {c : Context} (hf : s.releaseDone.firing? n = some f)
    (hc : f.ctx = some c) (st : f.st = .switched) :
    exec (.contextRestore n) s =
      .next (if s.releaseDone.mayTake f then s.releaseDone.switchIn f c else s.releaseDone) := by
  show (.next _ : Out) = _
  simp only [hf, hc, st, beq_self_eq_true, Bool.true_and]

end Sys2Proof.Machine
end

section
/-! Faults, cancels, time slices and context switches, settled clause by clause. -/

open Sys2Proof Sys2Proof.Machine

/-- Settles O46: faults and cancels by what the code allows, then slices, switches and restores. -/
theorem faultsAndSwitches : Obligations.FaultsAndSwitches := by
  intro n f s hf
  refine ⟨fun p l e => ⟨?unlimited, ?limited, ?zero, ?cancel⟩, ?refused, ?ending, ?slice, ⟨?stays, ?leaves⟩, ?restore⟩
  case unlimited =>
    intro code m
    have r := fresh_replayed f
    refine ⟨_, exec_firingFault p n code, ?_, fault_other s n code⟩
    rw [fault_unlimited (replayLimit_unlimited code m)]
    exact ⟨_, replay_firing hf e l, r.st, r.claim, r.snap, r.attempts, r.granted, r.arith⟩
  case limited =>
    intro code m
    have lim := replayLimit_limited code m
    refine ⟨_, exec_firingFault p n code, ?_⟩
    by_cases below : tget 0 f.counts code < if code = 144 ∨ code = 152 then 1 else 3
    · rw [if_pos below]
      obtain ⟨h, hh, r, count⟩ := fault_counted_firing hf e l lim below
      exact ⟨⟨⟨h, hh, r.st, r.claim, r.snap, r.attempts, r.granted, r.arith⟩, fault_other s n code⟩, h, hh, count⟩
    · rw [if_neg below, fault_spent hf lim (Nat.le_of_not_lt below)]
      obtain ⟨h, hh, a⟩ := abandon_abandoned code hf e
      exact ⟨⟨h, hh, a.st, a.code, a.claim⟩, fun _ ne => abandon_other s code ne⟩
  case zero =>
    intro code m
    obtain ⟨h, hh, a⟩ := abandon_abandoned code hf e
    refine ⟨_, exec_firingFault p n code, ?_⟩
    rw [fault_spent hf (replayLimit_zero code m) (Nat.zero_le _)]
    exact ⟨⟨h, hh, a.st, a.code, a.claim⟩, fun _ ne => abandon_other s code ne⟩
  case cancel =>
    intro o v
    obtain ⟨h, hh, a⟩ := abandon_abandoned 161 hf e
    refine ⟨_, exec_firingCancel v hf e, replied_reply o _ _ ((abandon_touch s n 161).box o),
      ⟨h, (reply_firing ..).trans hh, a.st, a.code, a.claim⟩, fun _ ne => ?_⟩
    exact (reply_firing ..).trans (abandon_other s 161 ne)
  case refused => exact fun o k v h => replies_here (exec_firingCancel_refused v h)
  case ending =>
    intro e code
    cases p : s.powered
    · exact ⟨s, exec_firingFault_off p n code, hf, fun _ _ => rfl⟩
    · exact ⟨_, exec_firingFault p n code, fault_ending hf e code⟩
  case slice =>
    intro q lt
    refine ⟨fun h => exec_timeSliceExpiry_idle lt h, fun h => ?_⟩
    refine ⟨_, exec_timeSliceExpiry lt h, rfl, tget_tput_same .., fun _ ne => tget_tput_other _ _ _ ne, ?_⟩
    exact (sliceOver_touch s q _).keep
  case stays =>
    intro h
    rw [exec_contextSwitch hf, if_neg]
    rcases h with h | h | h <;> simp [h]
  case leaves =>
    intro canon issues leaves can closed
    obtain ⟨here, others⟩ := switchOut_firing closed hf
    have q : f.fseq = n := firing?_fseq hf
    refine ⟨_, (exec_contextSwitch hf).trans (congrArg _ (if_pos (by rw [issues, leaves, can]; rfl))), _, _, here, rfl, rfl,
      rfl, ?waits, ?noWaits, ?noDescs, ?descs, ?bars, ?locals, ?mem, others, (switchOut_touch_quiet closed f).keep⟩
    case waits => rw [← q]; rfl
    case noWaits => rw [← q]; exact switchOut_waits closed f
    case noDescs => rw [← q]; exact switchOut_held closed f
    case descs =>
      intro e d m mine
      obtain ⟨p, hp, he, hd⟩ := contextOf_withdrawn s f m (mine.trans (by rw [q]))
      exact ⟨p, hp, he, _, hd, rfl, rfl, rfl, rfl, rfl⟩
    case bars => exact fun g b m mine arrived => contextOf_arrivals s f m (mine.trans q.symm) arrived
    case locals => exact fun g hg e m cls => contextOf_locals s hg m cls
    case mem => exact fun r hr a lo hi => contextOf_mem canon f hr lo hi
  case restore =>
    intro h c hh hc st
    have ex := exec_contextRestore hh hc st
    refine ⟨fun no => by rw [ex, no]; rfl, fun may sorted once opened sitter => ?_⟩
    rw [if_pos may] at ex
    have done := releaseDone_touch s
    have quiet : s.releaseDone.quiet := done.quiet ⟨opened, sitter⟩
    have engine : ∀ e, s.releaseDone.engine e = s.engine e := engine_congr (done.keep .engines (by decide))
    refine ⟨_, ex, fun r hr a lo hi => switchIn_read quiet h c sorted hr lo hi, fun none => ⟨fun p m => ?_, fun e ne => ?_⟩,
      fun canon => ?_, fun none alone => ?_, ?_⟩
    · rw [switchIn_engine quiet h none, partsBack_held _ h once p m, engine]
    · rw [switchIn_engine quiet h none, partsBack_other _ h ne, engine]
    · rw [switchIn_restarts quiet (done.canon canon), done.rd fluBarRestartRestarts 0]
    · exact ⟨_, switchIn_firing _ hh none alone, rfl, rfl, rfl, rfl, rfl⟩
    · exact ((switchIn_touch_quiet quiet h c).step (done.mono (by decide))).keep
end
